-- ==== Sys2Proof/Word.lean ====
section
/-! DEFINITION. The word types of the Gletor 4 model and the numbers of its units (spec/00_scope.md R9 to R14). -/

namespace Sys2Proof

/-- One byte of memory, of a frame or of a record. -/
abbrev Byte := BitVec 8
abbrev U16 := BitVec 16
abbrev U32 := BitVec 32
abbrev U64 := BitVec 64

/-- A logical core, R12. -/
abbrev CoreId := Fin 256
/-- MA0 or MA1 of a core, R90. -/
abbrev ArrId := Fin 2
/-- A stream of a core: MA0 = 0, MA1 = 1, VE = 2, CP = 3, R246. -/
abbrev StreamIx := Fin 4
/-- A cluster, and the solver unit that carries its number, R12. -/
abbrev ClusterId := Fin 64
/-- Copy engine e of cluster k, numbered 2k + e, R246. -/
abbrev EngineId := Fin 128
/-- A check-value channel, R13. -/
abbrev ChanId := Fin 256
/-- A Nifen port, R24. -/
abbrev PortId := Fin 48
/-- A job slot, R170. -/
abbrev SlotId := Fin 8
/-- A Ridge die, R24. -/
abbrev RidgeId := Fin 2
/-- A Slate stack, R22. -/
abbrev DieId := Fin 4
/-- An HBM stack, R22. -/
abbrev HbmId := Fin 12
/-- A synchronisation object: 64c + i for c:i, 16384 + i for G:i. -/
abbrev ObjIx := Nat

end Sys2Proof
end

