-- ==== Sys2Proof/Syntax.lean ====
section
/-! DEFINITION. The commands of the block: one constructor of `Instr` for each row of spec/opcode_table.json, with the
record each row carries. Record fields follow the spec's layouts, field by field, and hold raw bits, so that every
illegal value the spec refuses can be written down. -/

namespace Sys2Proof

/-- The roles of a dictionary session, R418. -/
inductive Role where
  | host | peer | service | safety
  deriving DecidableEq, Repr

/-- The transports of DAP, R419, R424; a frame on the fabric management lane comes with the SRC of its message. -/
inductive Transport where
  | mgmt | fabric (src : U16) | hostPort
  deriving DecidableEq, Repr

/-- Who sends a dictionary write: role, transport and, for a peer, its node (R418, R428). -/
structure Client where
  role : Role
  transport : Transport
  node : U16
  deriving DecidableEq, Repr

/-- The command block of 0x6000:01 less its CMD byte, R427. -/
structure CommandBlock where
  cflags : Byte
  slot : Byte
  reserved : Byte
  commandId : U32
  jobId : U64
  arg0 : U64
  arg1 : U64
  arg2 : U64
  reservedTail : BitVec 192
  deriving DecidableEq, Repr

/-- Bytes that a storage endpoint holds at an offset: what a read of it returns (R47, R395, R408). -/
structure Extent where
  base : Nat
  bytes : List Byte
  deriving DecidableEq, Repr

/-- A unit with a state object, R434. -/
inductive UnitRef where
  | array (c : CoreId) (a : ArrId)
  | core (c : CoreId)
  | solver (k : ClusterId)
  | engine (e : EngineId)
  | channel (n : ChanId)
  deriving DecidableEq, Repr

/-- A DAP frame, R420. The body of INIT, ACCEPT and CONFIRM stands reassembled from its fragments. -/
structure DapFrame where
  magic : U16
  version : Byte
  msgType : Byte
  sessionId : U32
  msgSeq : U32
  requestId : U32
  targetNode : U16
  sourceNode : U16
  bodyLength : U16
  frag : Byte
  reserved : Byte
  status : U16
  reservedTail : BitVec 48
  body : List Byte
  tag : List Byte
  deriving DecidableEq, Repr

/-- The 16-byte ENTRY_TAG in front of every stream entry, R248. -/
structure EntryTag where
  kind : Byte
  length : Byte
  zero : U16
  rest : BitVec 96
  deriving DecidableEq, Repr

/-- An array command, R95, less its OPCODE (which is the row). -/
structure ArrayCmd where
  flags : Byte
  srcFormat : Byte
  opFormat : Byte
  rows : U16
  cols : U16
  accBase : U16
  accCol : Byte
  rotSize : Byte
  outlierMax : Byte
  reserved : Byte
  signalObj : U16
  addr : U64
  scaleAddr : U64
  rowStride : U32
  coarseIn : U32
  outlierThresh : U32
  colBase : U32
  convAddr : U64
  scaleStride : U32
  reservedTail : U32
  deriving DecidableEq, Repr

/-- A VE instruction, R124, less its OPCODE (which is the row). -/
structure VeInstr where
  elemFormat : Byte
  flags : Byte
  pred : Byte
  dst : Byte
  srcA : Byte
  srcB : Byte
  srcC : Byte
  group : Byte
  rowLog2 : Byte
  signalObj : U16
  aux : U32
  limit : U32
  stride : U32
  imm : U64
  addr : U64
  reserved : U64
  deriving DecidableEq, Repr

/-- A 16-byte entry of a CP stream: SOLVE, COPY or PREFETCH, or one whose OPCODE is none of R495. -/
structure CpEntry where
  opcode : Byte
  target : Byte
  reserved : BitVec 48
  descAddr : U64
  deriving DecidableEq, Repr

/-- A remote-operation command, R308, less its OPCODE. -/
structure RemoteCmd where
  rflags : Byte
  aop : Byte
  atype : Byte
  size : U32
  remote : U64
  local_ : U64
  operand : U64
  operand2 : U64
  signalObj : U16
  reserved : BitVec 176
  deriving DecidableEq, Repr

/-- A COLL command, R334, less its OPCODE. -/
structure CollCmd where
  ctype : Byte
  rop : Byte
  dtype : Byte
  comm : Byte
  reserved : Byte
  signalObj : U16
  count : U64
  src : U64
  dst : U64
  arrivalObj : U16
  root : U16
  reservedMid : U32
  completionAddr : U64
  tag : U64
  reservedTail : U64
  deriving DecidableEq, Repr

/-- A CVERIFY command, R364, less its OPCODE. -/
structure CverifyCmd where
  reserved : Byte
  channel : U16
  recChannel : U16
  signalObj : U16
  expectedAlive : U64
  dataAddr : U64
  dataBytes : U64
  scaleAddr : U64
  scaleBytes : U64
  verdictAddr : U64
  reservedTail : U64
  deriving DecidableEq, Repr

/-- A synchronisation operation, R248, less its SOP. -/
structure SyncOp where
  sflags : Byte
  obj : U16
  node : U16
  fenceScope : Byte
  reserved : Byte
  operand : U64
  expiry : U32
  reservedTail : BitVec 96
  deriving DecidableEq, Repr

/-- Who holds a watch, R252. -/
inductive Waiter where
  | stream (c : CoreId) (st : StreamIx)
  | solver (k : ClusterId)
  | burist
  deriving DecidableEq, Repr

/-- The two queues of a copy engine, R232. -/
inductive EngineQueue where
  | job | service
  deriving DecidableEq, Repr

/-- A copy descriptor, R233. -/
structure CopyDesc where
  opcode : Byte
  cflags : Byte
  srcFormat : Byte
  dstFormat : Byte
  rows : U32
  cols : U32
  signalObj : U16
  arrivalObj : U16
  src : U64
  dst : U64
  srcRowStride : U64
  dstRowStride : U64
  srcScale : U64
  dstScale : U64
  convAddr : U64
  arrivalAdd : U32
  cvc : U16
  reserved : U16
  srcCoarse : U32
  reservedMid : U32
  alive : U64
  seq : U64
  completionAddr : U64
  reservedTail : BitVec 128
  deriving DecidableEq, Repr

/-- What the ECC of a line found when it was read (R221 to R224): in HBM or local memory, nothing, an error that one symbol holds,
or a worse one; in a line of a cluster cache or stream cache, a corrected error, one in a clean line, which is fetched again, or
one in a modified line. -/
inductive EccObs where
  | clean | corrected | uncorrectable | cacheCorrected | cacheRefetched | cacheLost
  deriving DecidableEq, Repr

/-- The node offset of a line that a command read, with what its ECC found; `none` where it found nothing in any line. -/
abbrev LineObs := Option (U64 × EccObs)

/-- What ECC found in the factor window of a solver unit (R215). -/
inductive WindowObs where
  | clean
  | corrected (k : ClusterId)
  | uncorrectable (k : ClusterId)
  deriving DecidableEq, Repr

/-- What the SRAM scrubber found: in a word of local memory or of a cache line, or in a solver unit's window (R215, R222). -/
inductive SramObs where
  | memory (e : EccObs)
  | window (w : WindowObs)
  deriving DecidableEq, Repr

/-- What parity found when a command's bytes were read: nothing, an error in the array's own storage (R119), or one in a
tile register (R144). -/
inductive ParityObs where
  | clean | array | tile
  deriving DecidableEq, Repr

/-- The header fields of a flit, R279. -/
structure FlitHdr where
  vl : Fin 8
  hop : Fin 8
  ftype : Fin 4
  msgStart : Bool
  msgEnd : Bool
  fseq : Fin 4096
  ackSeq : Fin 4096
  ackValid : Bool
  credVl : Fin 8
  credHop : Fin 8
  credCount : Byte
  reserved : BitVec 15
  deriving DecidableEq, Repr

/-- A flit, R279: header, 244-byte body and CRC. -/
structure Flit where
  hdr : FlitHdr
  body : List Byte
  crc : U32
  deriving DecidableEq, Repr

/-- The body of an IDENT control flit, R281. -/
structure Ident where
  nifenVersion : Byte
  generation : Byte
  node : U16
  port : Byte
  caps : U16
  serial : BitVec 128
  deriving DecidableEq, Repr

/-- A link-state record of R303, with the certificate values of R479 where its sender is the node itself. -/
structure LinkRecord where
  node : Nat
  port : Nat
  /-- PORT_STATE of R273. -/
  state : Fin 9
  peer : Nat
  generation : Nat
  caps : Nat
  bridge : Bool
  serial : Nat
  seq : U32
  deriving DecidableEq, Repr

/-- The certificate values that a package sends with its link-state records, R479. -/
structure NodeCert where
  node : Nat
  serial : List Byte
  devicePublicKey : List Byte
  deviceCert : List Byte
  jobPublicKey : List Byte
  jobKeyCert : List Byte
  deriving DecidableEq, Repr

/-- A constituent record of a request, R312. -/
structure Constituent where
  unit : U32
  flow : U16
  epoch : U16
  seq : U32
  cflags : Byte
  pfx : U64
  deriving DecidableEq, Repr

/-- Where a message came in: its input port and the hop class it arrived with (R293, R297). -/
structure Arrival where
  port : PortId
  hop : Fin 8
  deriving DecidableEq, Repr

/-- A message of the request, response or bulk lane, R311 and R312. `length` is LENGTH; in READ and BULK_READ, which
carry no data, it is the number of bytes asked for. -/
structure Msg where
  mtype : Byte
  mflags : Byte
  aop : Byte
  dest : U16
  srcNode : U16
  address : U64
  jobId : U64
  length : U32
  age : U16
  atype : Byte
  operand : U64
  operand2 : U64
  parts : List Constituent
  data : List Byte
  deriving DecidableEq, Repr

/-- A collective message, R338. The fields of START stand where START carries them (R337). -/
structure CollMsg where
  mflags : Byte
  dest : U16
  srcNode : U16
  comm : Byte
  algo : Byte
  jobId : U64
  seq : U32
  segment : U32
  status : U16
  ctype : Byte
  rop : Byte
  dtype : Byte
  count : U64
  root : U16
  tokens : Nat
  data : List Byte
  deriving DecidableEq, Repr

/-- A safety-lane message, R469. -/
structure SafetyMsg where
  cause : Byte
  dest : U16
  srcNode : U16
  seq : U32
  jobId : U64
  deriving DecidableEq, Repr

/-- The totals one member sends for a training step (R158 to R161): each list runs over the job's products or entries. -/
structure Totals where
  node : Nat
  step : Nat
  nonfinite : Bool
  sums : List (Nat × U64 × U64)
  rho : List (Nat × U64 × U64)
  ranges : List (Nat × Nat × Nat)
  probes : Nat
  discarded : Nat
  deriving DecidableEq, Repr

/-- The strap lands and the level they are sampled at, R450, R484. -/
structure Straps where
  modeG3 : Bool
  bridgeEn : Bool
  safeEn : Bool
  bootSrc : Fin 4
  deriving DecidableEq, Repr

/-- One refresh of the die sensors and input meters, R447. -/
structure Readings where
  vin : U32
  iin : U32
  pin : U32
  energy : U64
  tj : List U16
  overLimit20ms : Bool
  deriving DecidableEq, Repr

/-- A component of a boot image, R473. -/
structure Component where
  magic : U32
  id : U16
  version : U32
  length : U32
  content : List Byte
  signature : List Byte
  deriving DecidableEq, Repr

/-- A bring-up function, R453: its bit of READY and FAILED. -/
abbrev ReadyBit := Fin 24

/-- The instructions of the TAP, R491. -/
inductive TapOp where
  | bypass | idcode | samplePreload | extest | clamp | highz | extestPulse | extestTrain | other
  deriving DecidableEq, Repr

/-- The field of a watchdog that a WD_OBJECT write names, R468. -/
inductive WdField where
  | object | limit
  deriving DecidableEq, Repr

/-- Why a port retrains, R275. -/
inductive RetrainCause where
  | laneLoss | fec | width
  deriving DecidableEq, Repr

/-- Why the package powers down, R445 (CAUSE of LAST_TRIP, R447). -/
inductive TripCause where
  | thermal | undervoltage | overvoltage | pgIn
  deriving DecidableEq, Repr

/-- The two parts of a coupled job, R399; a job that is not coupled is one part, `whole`. -/
inductive Part where
  | solver | surrogate | whole
  deriving DecidableEq, Repr

/-- The commands: one constructor for each row of the opcode table, in the table's order. What a row's command met as it ran (a
line's ECC, a solver window, a pair's difference, the peer's lanes) may be left out where it stands last: then it met nothing,
and every lane of the peer trained. -/
inductive Instr where
  -- the command object (R427) and settings
  | load (who : Client) (b : CommandBlock) (store : List Extent)
  | start (who : Client) (b : CommandBlock) (store : List Extent)
  | pause (who : Client) (b : CommandBlock)
  | resume (who : Client) (b : CommandBlock)
  | checkpoint (who : Client) (b : CommandBlock)
  | stop (who : Client) (b : CommandBlock)
  | batchWindow (who : Client) (b : CommandBlock)
  | bootBundleSubmit
  | stepBoundary (slot : SlotId)
  | g3Compat (who : Client) (v : Byte)
  | jadeMode (who : Client) (v : Byte)
  | nodeNumber (who : Client) (v : U16)
  | portEnable (who : Client) (p : PortId) (v : Byte)
  | arrayState (who : Client) (c : CoreId) (a : ArrId) (v : Byte)
  | coreState (who : Client) (c : CoreId) (v : Byte)
  | solverState (who : Client) (k : ClusterId) (v : Byte)
  | engineState (who : Client) (e : EngineId) (v : Byte)
  | channelState (who : Client) (n : ChanId) (v : Byte)
  | recoveryTestDone (u : UnitRef) (pass : Bool)
  | stageSize (who : Client) (v : U64)
  | stageData (who : Client) (offset : U64) (bytes : List Byte)
  | dumpTrigger (who : Client) (v : Byte)
  | dumpComplete
  | sleepRequest (who : Client) (v : Byte)
  | bootCommit (who : Client) (v : Byte)
  | bootCommitTimeout
  | partitionEnable (who : Client) (v : Byte)
  | safeClear (who : Client) (v : Byte)
  | keyEnroll (who : Client) (bytes : List Byte)
  | keyRevoke (who : Client) (bytes : List Byte)
  | signingPolicy (who : Client) (v : Byte)
  | rollbackAdvance (who : Client) (v : Byte)
  | nonce (who : Client) (bytes : List Byte)
  | wdObject (who : Client) (slot : SlotId) (field : WdField) (v : U32)
  | dictionaryWrite (who : Client) (index : U16) (sub : Byte) (ty : Byte) (offset : U64) (bytes : List Byte)
  -- DAP
  | init (t : Transport) (f : DapFrame)
  | confirm (t : Transport) (f : DapFrame)
  | close (t : Transport) (f : DapFrame)
  | handshakeTimeout (sid : U32)
  | sessionTimeout (sid : U32)
  | dapRead (t : Transport) (f : DapFrame)
  | dapWrite (t : Transport) (f : DapFrame)
  | writeMulti (t : Transport) (f : DapFrame)
  | subscribe (t : Transport) (f : DapFrame)
  | unsubscribe (t : Transport) (f : DapFrame)
  | eventAck (t : Transport) (f : DapFrame)
  | event (sid : U32) (subId : Nat)
  | eventResend (sid : U32) (subId : Nat)
  | dapForward (t : Transport) (f : DapFrame)
  | h2pPoll (slot : Option DapFrame)
  | msixRaise
  -- matrix arrays
  | wload (c : CoreId) (a : ArrId) (tag : EntryTag) (x : ArrayCmd)
  | stream (c : CoreId) (a : ArrId) (tag : EntryTag) (x : ArrayCmd)
  | drain (c : CoreId) (a : ArrId) (tag : EntryTag) (x : ArrayCmd)
  | wloadComplete (c : CoreId) (a : ArrId) (parity : ParityObs) (line : LineObs := none)
  | streamComplete (c : CoreId) (a : ArrId) (parity : ParityObs) (line : LineObs := none)
  | drainComplete (c : CoreId) (a : ArrId) (parity : ParityObs) (line : LineObs := none)
  | selftestDue (c : CoreId) (a : ArrId)
  | selftestPass (c : CoreId) (a : ArrId) (parity : Bool)
  | selftestPassEnd (c : CoreId) (a : ArrId) (signature : U32)
  | arrayDrainBound (c : CoreId) (a : ArrId)
  | arrayDrainEnd (c : CoreId) (a : ArrId)
  -- vector engine
  | vld (c : CoreId) (tag : EntryTag) (x : VeInstr)
  | vst (c : CoreId) (tag : EntryTag) (x : VeInstr)
  | mov (c : CoreId) (tag : EntryTag) (x : VeInstr)
  | bcast (c : CoreId) (tag : EntryTag) (x : VeInstr)
  | add (c : CoreId) (tag : EntryTag) (x : VeInstr)
  | sub (c : CoreId) (tag : EntryTag) (x : VeInstr)
  | mul (c : CoreId) (tag : EntryTag) (x : VeInstr)
  | fma (c : CoreId) (tag : EntryTag) (x : VeInstr)
  | min (c : CoreId) (tag : EntryTag) (x : VeInstr)
  | max (c : CoreId) (tag : EntryTag) (x : VeInstr)
  | abs (c : CoreId) (tag : EntryTag) (x : VeInstr)
  | neg (c : CoreId) (tag : EntryTag) (x : VeInstr)
  | and (c : CoreId) (tag : EntryTag) (x : VeInstr)
  | or (c : CoreId) (tag : EntryTag) (x : VeInstr)
  | xor (c : CoreId) (tag : EntryTag) (x : VeInstr)
  | shl (c : CoreId) (tag : EntryTag) (x : VeInstr)
  | shr (c : CoreId) (tag : EntryTag) (x : VeInstr)
  | rcp (c : CoreId) (tag : EntryTag) (x : VeInstr)
  | rsqrt (c : CoreId) (tag : EntryTag) (x : VeInstr)
  | sqrt (c : CoreId) (tag : EntryTag) (x : VeInstr)
  | exp2 (c : CoreId) (tag : EntryTag) (x : VeInstr)
  | log2 (c : CoreId) (tag : EntryTag) (x : VeInstr)
  | tanh (c : CoreId) (tag : EntryTag) (x : VeInstr)
  | sigmoid (c : CoreId) (tag : EntryTag) (x : VeInstr)
  | silu (c : CoreId) (tag : EntryTag) (x : VeInstr)
  | gelu (c : CoreId) (tag : EntryTag) (x : VeInstr)
  | cmp (c : CoreId) (tag : EntryTag) (x : VeInstr)
  | sel (c : CoreId) (tag : EntryTag) (x : VeInstr)
  | cmpp (c : CoreId) (tag : EntryTag) (x : VeInstr)
  | pfirst (c : CoreId) (tag : EntryTag) (x : VeInstr)
  | plogic (c : CoreId) (tag : EntryTag) (x : VeInstr)
  | cvt (c : CoreId) (tag : EntryTag) (x : VeInstr)
  | cvtb (c : CoreId) (tag : EntryTag) (x : VeInstr)
  | dcvb (c : CoreId) (tag : EntryTag) (x : VeInstr)
  | red (c : CoreId) (tag : EntryTag) (x : VeInstr)
  | xpose (c : CoreId) (tag : EntryTag) (x : VeInstr)
  | tperm (c : CoreId) (tag : EntryTag) (x : VeInstr)
  | cmpr (c : CoreId) (tag : EntryTag) (x : VeInstr)
  | expd (c : CoreId) (tag : EntryTag) (x : VeInstr)
  | rand (c : CoreId) (tag : EntryTag) (x : VeInstr)
  | veComplete (c : CoreId) (parity : Bool) (line : LineObs := none)
  | veDrainBound (c : CoreId)
  -- the CP stream
  | solve (c : CoreId) (tag : EntryTag) (x : CpEntry)
  | copy (c : CoreId) (tag : EntryTag) (x : CpEntry)
  | prefetch (c : CoreId) (tag : EntryTag) (x : CpEntry)
  | rload (c : CoreId) (tag : EntryTag) (x : RemoteCmd)
  | rstore (c : CoreId) (tag : EntryTag) (x : RemoteCmd)
  | ratomic (c : CoreId) (tag : EntryTag) (x : RemoteCmd)
  | coll (c : CoreId) (tag : EntryTag) (x : CollCmd)
  | cverify (c : CoreId) (tag : EntryTag) (x : CverifyCmd)
  | channelAcquire (n : ChanId)
  | cverifyComplete (n : ChanId) (line : LineObs := none)
  -- synchronisation
  | wait (c : CoreId) (st : StreamIx) (tag : EntryTag) (x : SyncOp)
  | signal (c : CoreId) (st : StreamIx) (tag : EntryTag) (x : SyncOp)
  | fence (c : CoreId) (st : StreamIx) (tag : EntryTag) (x : SyncOp)
  | fenceComplete (c : CoreId) (st : StreamIx)
  | watchRegistration (w : Waiter) (obj : U16) (target : U64)
  | signalAdd (obj : U16) (amount : U64) (unit : U32)
  | wake (w : Waiter)
  | waitExpiry (w : Waiter)
  | cancel (w : Waiter)
  | set (obj : U16) (value : U64)
  -- solver units
  | descriptorStart (k : ClusterId) (line : LineObs := none)
  | solverAssemblyDone (k : ClusterId) (window : WindowObs)
  | solverFactorDone (k : ClusterId) (window : WindowObs)
  | solverIteration (k : ClusterId) (window : WindowObs)
  | solverRefactDone (k : ClusterId) (window : WindowObs)
  | solverDelivery (k : ClusterId) (pairDiffers : Bool) (window : WindowObs := .clean)
  | deadline (k : ClusterId) (seq : U64) (pairBehind : Bool := false) (pairDiffers : Bool := false)
  | solverDrainBound (k : ClusterId)
  | solverDrainEnd (k : ClusterId)
  -- copy engines and memory
  | serviceCopySubmit (e : EngineId) (slot : Byte) (d : CopyDesc)
  | ceCopy (e : EngineId) (q : EngineQueue) (line : LineObs)
  | convert (e : EngineId) (q : EngineQueue) (line : LineObs)
  | fill (e : EngineId) (q : EngineQueue)
  | copyComplete (e : EngineId) (q : EngineQueue)
  | granuleTaken (e : EngineId) (line : LineObs := none)
  | ceDrainBound (e : EngineId)
  | regionFill (slot : SlotId)
  | scrubRead (h : HbmId) (ecc : EccObs)
  | sramScrub (d : DieId) (found : SramObs)
  | bypassEnter (k : ClusterId)
  | bypassLeave (k : ClusterId)
  | remoteLineExpiry (k : ClusterId) (line : U64)
  -- ports, links, routing
  | peerDetect (p : PortId)
  | laneTrainingDone (p : PortId) (lanes : BitVec 4) (peerGletor3 : Bool) (peerLanes : BitVec 4 := 15)
  | trainingTimeout (p : PortId)
  | ident (p : PortId) (h : FlitHdr) (x : Ident)
  | nak (p : PortId) (h : FlitHdr) (expected : Fin 4096)
  | audit (p : PortId) (h : FlitHdr) (entries : List (U16 × U16))
  | auditFail (p : PortId) (h : FlitHdr) (entry : Nat)
  | resync (p : PortId) (h : FlitHdr) (next : Fin 4096) (free : List U16)
  | power (p : PortId) (h : FlitHdr) (v : Byte)
  | dataFlit (p : PortId) (f : Flit)
  | idleFlit (p : PortId) (f : Flit)
  | flitSlot (p : PortId)
  | ackTimer (p : PortId)
  | auditDue (p : PortId)
  | retrain (p : PortId) (cause : RetrainCause)
  | retrainTimeout (p : PortId)
  | portDrainTimeout (p : PortId)
  | lsdbUpdate (p : PortId) (rec : LinkRecord) (cert : Option NodeCert)
  | routingRewrite
  | quorumSettle (slot : SlotId) (epochs : List (Nat × U32))
  | refclkLoss (r : RidgeId) (input : Fin 2)
  | hostLinkTraining (rate64 : Bool) (width : Nat)
  | perstN (level : Bool)
  -- remote memory
  | read (at_ : Arrival) (m : Msg) (ecc : EccObs)
  | write (at_ : Arrival) (m : Msg) (ecc : EccObs)
  | atomic (at_ : Arrival) (m : Msg) (ecc : EccObs)
  | remoteSignal (at_ : Arrival) (m : Msg)
  | response (at_ : Arrival) (m : Msg)
  | retry (at_ : Arrival) (m : Msg)
  | rate (at_ : Arrival) (m : Msg)
  | batch (at_ : Arrival) (dest : U16) (src : U16) (msgs : List Msg)
  | bulkWrite (at_ : Arrival) (m : Msg)
  | bulkRead (at_ : Arrival) (m : Msg) (ecc : EccObs := .clean)
  | requestTimeout (unit : U32) (dest : U16) (flow : U16) (seq : U32)
  | sequenceEntryExpiry (r : RidgeId) (unit : U32)
  | coalesceWindow (r : RidgeId) (line : U64)
  | hotWindow (r : RidgeId)
  | rateInterval (dest : U16) (line : U64)
  | rateHold (dest : U16) (line : U64)
  | eaveWindow (r : RidgeId) (dest : U16)
  -- collectives
  | collectiveStart (at_ : Arrival) (m : CollMsg)
  | go (at_ : Arrival) (m : CollMsg)
  | lease (at_ : Arrival) (m : CollMsg)
  | leaseReply (at_ : Arrival) (m : CollMsg)
  | release (at_ : Arrival) (m : CollMsg)
  | grant (at_ : Arrival) (m : CollMsg)
  | data (at_ : Arrival) (m : CollMsg)
  | result (at_ : Arrival) (m : CollMsg)
  | abort (at_ : Arrival) (m : CollMsg)
  | leaseIdle (r : RidgeId) (jobId : U64) (comm : Byte) (seq : U32)
  -- broadcast start
  | attach (child : U16) (resume : Nat) (jobId : U64)
  | detach (child : U16) (jobId : U64)
  | suspect (reporter : U16) (node : U16) (jobId : U64)
  | waiting (parent : U16) (jobId : U64)
  | chunkArrival (jobId : U64) (k : Nat) (bytes : List Byte)
  | gapTimeout (jobId : U64)
  | probe (jobId : U64) (anchor : U16)
  | probeTimeout (jobId : U64) (node : U16)
  | startTimeout (jobId : U64)
  | ready (jobId : U64) (node : U16) (status : U16)
  | run (jobId : U64)
  | shardLoadStart (slot : SlotId)
  | shardReadDone (slot : SlotId) (shard : Nat) (bytes : List Byte) (digest : List Byte)
  -- checkpoints
  | checkpointBoundary (slot : SlotId) (part : Part)
  | checkpointWriteStep (slot : SlotId) (ok : Bool)
  | commitTimeout (slot : SlotId)
  -- training, coupling, batcher
  | trainingTotals (slot : SlotId)
  | memberTotals (slot : SlotId) (t : Totals)
  | decisionExpiry (slot : SlotId)
  | stateVector (slot : SlotId) (step : Nat) (withheld : Bool) (vec : List Byte)
  | evaluation (slot : SlotId)
  | forwardTransfer (slot : SlotId)
  | returnTransfer (slot : SlotId)
  | inferenceBatchClose (slot : SlotId) (rows : Nat) (windowExpired : Bool)
  -- power, reset, bring-up
  | pgInHigh
  | railUp
  | inputOutOfRange (vin : U32)
  | powerDown (cause : TripCause) (vin : U32)
  | pkgResetNAssert
  | resetRelease (x : Straps)
  | sensorReading (r : Readings)
  | stepDecision (d : DieId) (averageOver : Bool)
  | clusterPowerRamp
  | bringupTestDone (bit : ReadyBit) (failed : List UnitRef) (usable : Bool)
  | sleepEntryDone
  | wakeDone (cycles : U32)
  -- safety monitor
  | lockstepMismatch (pair : Fin 2)
  | pairRestartDone (pair : Fin 2)
  | pairHeartbeat (missed : Option (Fin 2))
  | buristHeartbeat
  | buristHeartbeatTimeout
  | watchdogSample (slot : SlotId)
  | clockMonitor (fault : Bool) (reference : Bool)
  | heartbeatSend
  | heartbeat (at_ : Arrival) (m : SafetyMsg)
  | safeNotice (at_ : Arrival) (m : SafetyMsg)
  | memberSilence (slot : SlotId) (node : U16)
  -- later rows of the table
  | cpDrainBound (c : CoreId)
  | channelDrainBound (n : ChanId)
  | hostLinkDown
  | loadPacingWindow (slot : SlotId)
  | tapInstruction (x : TapOp)
  deriving DecidableEq, Repr

end Sys2Proof
end

