-- ==== Sys2Proof/Decode.lean ====
section
/-! DEFINITION. Decoding of table words. The part takes commands, not words: no row of spec/opcode_table.json gives bits. -/

namespace Sys2Proof

/-- No word spells a command. -/
def decodeTableWord (_nbits _w : Nat) : Option Instr := none

end Sys2Proof
end

