-- ==== Sys2Proof/Config.lean ====
section
/-! DEFINITION. What an implementation fixes and what the manual leaves open. A constant without a body is a free value:
nothing can evaluate it, and a claim holds whatever it is. The first argument of the free values is the model's own
counter `free` of the state, so that each command draws fresh ones. -/

namespace Sys2Proof.Config

/-- Gable cycles at which an event is logged (R431 TIME), by counter and event number. -/
opaque freeTime : Nat → Nat → U64

/-- A count of cycles that depends on timing: counters and cycle fields of records. The second argument tells the uses of
one command apart. -/
opaque freeCycles : Nat → Nat → U64

/-- State of a generator at the draw start of an operation outside Jade mode: counter, unit ID, generator (R139, R141). -/
opaque freeGen : Nat → Nat → Nat → U64

/-- A result where the rule of a function states none: a VE function (R133) by operation, element format and operand code;
NORM_A_MAX of a matrix that holds a NaN (R189). -/
opaque fnUnstated : Nat → Nat → Nat → U64

/-- A choice that the device makes among stated outcomes (R33, R141, R237, R253, R296), as a number. -/
opaque freeChoice : Nat → Nat → Nat

/-- Remaining expiry cycles of a watch at a dump (R269). -/
opaque freeRemaining : Nat → Nat → U32

/-- Bytes that Beryl or the package draws at random: nonces, session secrets (R421, R472). -/
opaque freeBytes : Nat → Nat → Nat → Byte

/-- The bytes of a message whose layout no chapter gives (link-state updates, the notes between Burists, the fields that
START and LEASE carry). -/
opaque freeMessage : Nat → Nat → List Byte

/-- What a storage endpoint holds where a DAP frame carries a LOAD or START: offset and bytes, by counter (R47, R408). -/
opaque storedExtents : Nat → List (Nat × List Byte)

/-- The public key that a KEY_ID names, where a client enrols itself in an empty key table (R476). -/
opaque keyOf : List Byte → List Byte

/-- The 16-byte serial of the part (R436). -/
opaque serial : Nat → Byte

/-- Which two physical clusters of a Slate die are disabled, as a number (R19, R435). -/
opaque factoryClusters : Nat → Nat

/-- The text and number entries of the identity object 0x1000 by subindex (R436). -/
opaque identity : Nat → List Byte

/-- ML-DSA-87: whether a signature over a message verifies under a public key. -/
opaque verify : List Byte → List Byte → List Byte → Bool

/-- Signatures by the device key and by the job-signing key of this part (R472). -/
opaque deviceSign : List Byte → List Byte
opaque jobSign : List Byte → List Byte

/-- ML-KEM-1024: the ciphertext that answers a client's key with a nonce, and the shared secret (R421). -/
opaque kemCipher : List Byte → List Byte → List Byte
opaque kemSecret : List Byte → List Byte → List Byte

/-- Keys of the part and of its maker: device public key and certificate, job public key and certificate, firmware-signing
and manufacturing root keys (R472). -/
opaque devicePublicKey : List Byte
opaque deviceCert : List Byte
opaque jobPublicKey : List Byte
opaque jobKeyCert : List Byte
opaque firmwareKey : List Byte
opaque rootKey : List Byte

/-- The signature that a self-test pass of a healthy array gives, from the pattern set of the installed safety-pair
firmware (R471). -/
opaque selftestSignature : U32

/-- Whether FLAGS governs ROUND and SAT of a CVTB whose conversion block states other ones (R84, R132; log entry 96). -/
opaque cvtbByFlags : Bool

/-- Column j of an array's signature register after test n: array, test, column (R115 gives neither operands nor width; free
value, log entry 93). -/
opaque freeColumn : Nat → Nat → Nat → U32

/-- What lowering is a function of, R54: the bundle, the Burist version, the disabled units (object index × 256 + subindex),
G3 compatibility and Jade mode. -/
structure LowerInput where
  bundle : List Byte
  version : U32
  disabled : List Nat
  g3 : Bool
  jade : Bool
  deriving DecidableEq, Repr

/-! What lowering reads in the PTO programs, whose encoding no chapter gives. -/

/-- Stage 5: the TENSOR_ID on which the programs and LAYOUT disagree. -/
opaque ptoShapeError : List Byte → Option Nat
/-- Objects that the program of a role names, and the number of its PTO events (R262). -/
opaque ptoNamed : LowerInput → Nat → List Nat
opaque ptoEvents : LowerInput → Nat → Nat
/-- Greatest tile-register demand of a role's program, local memory that it needs, and HBM that the programs need on a Slate stack
beside tensors and working copies when the activations of some entries are recomputed (R53, R174). -/
opaque ptoTiles : LowerInput → Nat → Nat
opaque ptoLocal : LowerInput → Nat → Nat
opaque ptoHbm : LowerInput → List Nat → Nat → Nat
/-- Cycles of rerunning the forward segment of an activation entry, and whether that segment draws generator bits (R174). -/
opaque ptoRerun : LowerInput → Nat → Nat
opaque ptoDraws : LowerInput → Nat → Bool
/-- The program of a role holds a solver problem that exceeds the units' limits, or an operation that has no lowering (causes 3 and
5 of R53). -/
opaque ptoSolverTooBig : LowerInput → Nat → Bool
opaque ptoNoLowering : LowerInput → Nat → Bool
/-- Communicators 1 on: member nodes; and the issuing core of each communicator from 0 (R333). -/
opaque ptoComms : LowerInput → List (List Nat)
opaque ptoIssuing : LowerInput → Nat → Nat
/-- Controlled products of a bundle's programs, as kind (0 F, 1 B, 2 U) and the TENSOR_IDs of W, X and dY (R146). -/
opaque ptoProducts : List Byte → List (Nat × List Nat)
/-- The numbers of the PTO events that are a role's boundary and gate objects (R399). -/
opaque ptoBoundary : LowerInput → Nat → Nat × Nat
/-- A role is a training role, R162. -/
opaque ptoTraining : LowerInput → Nat → Bool
/-- Tiles of a product in a step that runs it in a class (R155). -/
opaque ptoTileCount : LowerInput → Nat → Nat → Nat
/-- Where lowering puts what Burist reads and writes for training, as a core and an offset in its local memory: S_d and S_r of the
sample that a tile of a product gives (R157); T_d and T_r of that sample's window of an operand, and the scale bytes of that
window (R159, R160); results of the RED AMAX of R161; variant slots of a product, and what they hold for a class (R168); the
word by which the update pass learns that its step is withheld (R161). -/
opaque ptoSampleSlot : LowerInput → Nat → Nat → Nat × Nat
opaque ptoWindowSlot : LowerInput → Nat → Nat → Nat → Nat × Nat
opaque ptoScaleSlot : LowerInput → Nat → Nat → Nat → Nat × Nat
opaque ptoFlags : LowerInput → List (Nat × Nat)
opaque ptoVariants : LowerInput → Nat → List (Nat × Nat)
opaque ptoVariantCode : LowerInput → Nat → Nat → List Byte
opaque ptoWithheld : LowerInput → List (Nat × Nat)

/-- Copies of a piece of a controlled weight: the Slate stack, and offsets in its DATA region of the working PB4_SQ copy, the
published copy, their conversion block and the BF16 copy (R150, R176). -/
structure WeightCopy where
  stack : Nat
  work : Nat
  published : Nat
  block : Nat
  bf16 : Nat
  deriving DecidableEq, Repr, Inhabited

opaque ptoCopies : LowerInput → Nat → Nat → WeightCopy
/-- Conversion blocks of the B-row CVTBs, as a core and an offset in its local memory (R177). -/
opaque ptoRowBlocks : LowerInput → List (Nat × Nat)
/-- The place of a region of the job among those where it fits: by Slate stack and class (R52, R219). -/
opaque ptoRegion : LowerInput → Nat → Nat
/-- A role belongs to the surrogate part of a coupled job (R32, R399). -/
opaque ptoSurrogate : LowerInput → Nat → Bool
/-- ORIGIN of a member's piece of a tensor within the global tensor, dimension 0 to 5 (R404). -/
opaque ptoOrigin : LowerInput → Nat → Nat → List Nat
/-- The order in which the loader places tensors (R52). -/
opaque ptoPlace : LowerInput → Nat → Nat

/-- The anchor's notice that begins a broadcast at a member, whose form no chapter gives: PARENT, ALT_PARENT and anchor, by
JOB_ID and member node (R388, R390). -/
opaque treeNotice : U64 → Nat → Nat × Nat × Nat
/-- The member index that the anchor gives a spare (R386, R392). -/
opaque spareIndex : U64 → Nat → Nat

end Sys2Proof.Config
end

