-- ==== Sys2Proof/Machine/Sparse.lean ====
section
/-! DEFINITION. Sparse maps from numbers to values with one default, held as a list of pairs in a canonical form: keys
strictly rising, no entry equal to the default. Memory, tile registers, the dictionary's words and every numbered set of
units are such maps, so equal contents are equal data. -/

namespace Sys2Proof

/-- Pairs of a key and a value; a key that is not listed holds the map's default. -/
abbrev SMap (α : Type) := List (Nat × α)

namespace SMap

variable {α : Type}

/-- The value at key `k`; `d` where `k` is not listed. -/
def get (d : α) : SMap α → Nat → α
  | [], _ => d
  | (j, v) :: t, k => if j = k then v else get d t k

/-- Put `(k, v)` at its place among rising keys, over an entry of the same key. -/
def insert : SMap α → Nat → α → SMap α
  | [], k, v => [(k, v)]
  | (j, w) :: t, k, v =>
    if k < j then (k, v) :: (j, w) :: t
    else if k = j then (k, v) :: t
    else (j, w) :: insert t k v

/-- Write `v` at `k`: writing the default takes the entry out. -/
def set [DecidableEq α] (d : α) (m : SMap α) (k : Nat) (v : α) : SMap α :=
  if v = d then m.filter (fun p => p.1 ≠ k) else m.insert k v

/-- Number the elements of a list from `a`. -/
def number : Nat → List α → List (Nat × α)
  | _, [] => []
  | a, v :: t => (a, v) :: number (a + 1) t

/-- Write a run of values from key `a` on. -/
def setRange [DecidableEq α] (d : α) (m : SMap α) (a : Nat) (vs : List α) : SMap α :=
  m.filter (fun p => p.1 < a) ++ (number a vs).filter (fun p => p.2 ≠ d)
    ++ m.filter (fun p => a + vs.length ≤ p.1)

/-- The `n` values from key `a` on. -/
def getRange (d : α) (m : SMap α) (a n : Nat) : List α :=
  (List.range n).map (fun i => get d m (a + i))

/-- The canonical form: keys strictly rising and no entry equal to the default. -/
def wf [DecidableEq α] (d : α) : SMap α → Bool
  | [] => true
  | (j, v) :: t => v ≠ d && t.all (fun p => j < p.1) && wf d t

end SMap

end Sys2Proof
end

