-- ==== Sys2Proof/Machine/Bytes.lean ====
section
/-! DEFINITION. Byte order and bit fields: every value of the part is little-endian (R37, R64, R415). -/

namespace Sys2Proof

/-- The `n` low bytes of `v`, lowest first. -/
def leBytes : Nat → Nat → List Byte
  | 0, _ => []
  | n + 1, v => BitVec.ofNat 8 v :: leBytes n (v / 256)

/-- The number that little-endian bytes spell. -/
def leNat : List Byte → Nat
  | [] => 0
  | b :: t => b.toNat + 256 * leNat t

/-- Bits [hi:lo] of a number. -/
def bits (v hi lo : Nat) : Nat := (v / 2 ^ lo) % 2 ^ (hi - lo + 1)

/-- Bit `i` of a number. -/
def bit (v i : Nat) : Bool := v.testBit i

/-- The `n` bytes at offset `o` of a record as a number; bytes past the end read as 0. -/
def field (r : List Byte) (o n : Nat) : Nat := leNat ((r.drop o).take n)

/-- Round `n` up to a multiple of `k`. -/
def roundUp (n k : Nat) : Nat := (n + k - 1) / k * k

def ceilDiv (n k : Nat) : Nat := (n + k - 1) / k

/-- Two's complement reading of the low `w` bits. -/
def signedOf (w v : Nat) : Int :=
  let v := v % 2 ^ w
  if v < 2 ^ (w - 1) then v else (v : Int) - 2 ^ w

/-- Two's complement code of an integer in `w` bits, wrapping. -/
def wrapTo (w : Nat) (i : Int) : Nat := (i % (2 ^ w : Int)).toNat

def boolNat (b : Bool) : Nat := if b then 1 else 0

end Sys2Proof
end

