-- ==== Sys2Proof/Machine/Codes.lean ====
section
/-! DEFINITION. Status codes (spec/00_scope.md R15) and unit identifiers (spec/09_synchronisation.md R246, object
references of spec/06_four_bit_training.md R152). -/

namespace Sys2Proof.Code

def ok : Nat := 0x0000
def resourceExceeded : Nat := 0x0101
def signatureInvalid : Nat := 0x0102
def shapeMismatch : Nat := 0x0103
def versionUnsupported : Nat := 0x0104
def pivotRegularised : Nat := 0x0201
def overflowRescaled : Nat := 0x0202
def refinementStalled : Nat := 0x0203
def deadlineShifted : Nat := 0x0204
def deadlinePartial : Nat := 0x0205
def formatPromoted : Nat := 0x0206
def corrected : Nat := 0x0301
def uncorrectable : Nat := 0x0302
def guardStall : Nat := 0x0303
def pathLost : Nat := 0x0401
def partitionMinority : Nat := 0x0402
def peerUnreachable : Nat := 0x0403
def slotUnavailable : Nat := 0x0404
def watchExpired : Nat := 0x0501
def broadcastReparented : Nat := 0x0601
def checkpointUncommitted : Nat := 0x0602
def resliced : Nat := 0x0603
def unitDraining : Nat := 0x0701
def unitDisabled : Nat := 0x0702
def noSuchObject : Nat := 0x0801
def accessDenied : Nat := 0x0802
def typeMismatch : Nat := 0x0803
def outOfRange : Nat := 0x0804
def stateConflict : Nat := 0x0805
def locked : Nat := 0x0806
def checkMismatch : Nat := 0x0901
def aliveStale : Nat := 0x0902

/-- The codes of R15. -/
def listed : List Nat :=
  [ok, resourceExceeded, signatureInvalid, shapeMismatch, versionUnsupported, pivotRegularised, overflowRescaled,
   refinementStalled, deadlineShifted, deadlinePartial, formatPromoted, corrected, uncorrectable, guardStall, pathLost,
   partitionMinority, peerUnreachable, slotUnavailable, watchExpired, broadcastReparented, checkpointUncommitted, resliced]
  ++ [unitDraining, unitDisabled, noSuchObject, accessDenied, typeMismatch, outOfRange, stateConflict, locked,
   checkMismatch, aliveStale]

/-- The first of two codes that is not OK. -/
def first (a b : Nat) : Nat := if a = 0 then b else a

/-- A code when a check fails. -/
def need (c : Bool) (code : Nat) : Nat := if c then 0 else code

/-- The first code of a list of checks that is not OK. -/
def firstOf : List Nat → Nat
  | [] => 0
  | c :: t => if c = 0 then firstOf t else c

end Sys2Proof.Code

namespace Sys2Proof

/-- A unit ID, R246. -/
def mkUnit (kind node unit : Nat) : Nat := kind * 2 ^ 28 + node % 2 ^ 14 * 2 ^ 14 + unit % 2 ^ 14

def unitKind (u : Nat) : Nat := bits u 31 28
def unitNode (u : Nat) : Nat := bits u 27 14
def unitNumber (u : Nat) : Nat := bits u 13 0

/-- The object that a reference of R152 names: 64c + i, or 16384 + i for G:i. -/
def objOfRef (r : Nat) : Nat := if bit r 15 then 16384 + bits r 9 0 else bits r 13 0

/-- A reference obeys the encoding of R152. -/
def refOk (r : Nat) : Bool := if bit r 15 then bits r 14 10 = 0 else !bit r 14

/-- The reference of an object. -/
def refOfObj (o : Nat) : Nat := if 16384 ≤ o then 0x8000 + (o - 16384) else o

/-- Fields of a global address, R9. -/
def addrClass (a : Nat) : Nat := a / 2 ^ 62
def addrNode (a : Nat) : Nat := bits a 61 48
def addrOff (a : Nat) : Nat := bits a 47 0

/-- Offsets of R28. -/
def hbmEnd : Nat := 0x6C00000000
def localBase : Nat := 0x010000000000
def localEnd : Nat := 0x010020000000
def stackBytes : Nat := 0x1B00000000
def coreBytes : Nat := 0x200000
def localOf (c : Nat) : Nat := localBase + coreBytes * c

end Sys2Proof
end

