-- ==== Sys2Proof/Machine/Float.lean ====
section
/-! DEFINITION. Exact values of floating-point data and the one rounding function: spec/03_number_formats.md R67 to R73,
R80 to R82. A finite value is held exactly as sign, magnitude and power of two. Arithmetic is exact and `FVal.round`
narrows once at the end. -/

namespace Sys2Proof

/-- An exact value: ±m × 2^e, an infinity, or NaN (payloads are not carried, R68). -/
inductive FVal where
  | nan
  | inf (neg : Bool)
  | fin (neg : Bool) (m : Nat) (e : Int)
  deriving DecidableEq, Repr

/-- A floating-point encoding: exponent bits, mantissa bits, bias, largest finite magnitude code; `ieee` says that
exponent field all ones holds infinities and NaN (R67, R70), `nan7F` that only the all-ones code is NaN (E4M3). -/
structure FpFmt where
  ebits : Nat
  mbits : Nat
  bias : Nat
  maxCode : Nat
  ieee : Bool
  nan7F : Bool
  deriving DecidableEq, Repr

def fp64 : FpFmt := ⟨11, 52, 1023, 0x7FEFFFFFFFFFFFFF, true, false⟩
def fp32 : FpFmt := ⟨8, 23, 127, 0x7F7FFFFF, true, false⟩
def bf16 : FpFmt := ⟨8, 7, 127, 0x7F7F, true, false⟩
def fp16 : FpFmt := ⟨5, 10, 15, 0x7BFF, true, false⟩
def e5m2 : FpFmt := ⟨5, 2, 15, 0x7B, true, false⟩
def e4m3 : FpFmt := ⟨4, 3, 7, 0x7E, false, true⟩
def e2m3 : FpFmt := ⟨2, 3, 1, 0x1F, false, false⟩
def e3m2 : FpFmt := ⟨3, 2, 3, 0x1F, false, false⟩
def e2m1 : FpFmt := ⟨2, 1, 1, 0x7, false, false⟩

namespace FpFmt

/-- The exponent of the subnormal spacing. -/
def emin (f : FpFmt) : Int := 1 - (f.bias : Int) - f.mbits

def width (f : FpFmt) : Nat := 1 + f.ebits + f.mbits

def signBit (f : FpFmt) : Nat := 2 ^ (f.ebits + f.mbits)

/-- The exact value of a magnitude code (no sign), finite codes only. -/
def finMag (f : FpFmt) (code : Nat) : Nat × Int :=
  let e := code / 2 ^ f.mbits
  let m := code % 2 ^ f.mbits
  if e = 0 then (m, f.emin) else (2 ^ f.mbits + m, f.emin + (e - 1 : Int))

/-- The exact value of a code. -/
def decode (f : FpFmt) (code : Nat) : FVal :=
  let neg := f.signBit ≤ code % (2 * f.signBit)
  let mag := code % f.signBit
  if mag ≤ f.maxCode then let p := f.finMag mag; .fin neg p.1 p.2
  else if f.ieee && mag = f.maxCode + 1 then .inf neg
  else .nan

/-- The canonical NaN of the format, R68. -/
def nanCode (f : FpFmt) : Nat :=
  if f.ieee then f.maxCode + 1 + 2 ^ (f.mbits - 1) else f.signBit - 1

/-- The code of the largest finite value of a sign. -/
def maxFinite (f : FpFmt) (neg : Bool) : Nat := f.maxCode + (if neg then f.signBit else 0)

end FpFmt

/-- The rounding modes of R80, with the 16-bit draw of R81 for SR. -/
inductive Rounding where
  | rne
  | sr (draw : Nat)
  | rz
  deriving DecidableEq, Repr

/-- Round the rational num / den to an integer, R80 and R81. -/
def roundRat (r : Rounding) (num den : Nat) : Nat :=
  let q := num / den
  let rem := num % den
  match r with
  | .rz => q
  | .rne => if 2 * rem < den then q else if den < 2 * rem then q + 1 else q + q % 2
  | .sr d => if d < 65536 * rem / den then q + 1 else q

/-- num / den scaled by 2^-u, as a fraction. -/
def scaleRat (num den : Nat) (u : Int) : Nat × Nat :=
  if 0 ≤ u then (num, den * 2 ^ u.toNat) else (num * 2 ^ (-u).toNat, den)

/-- floor (log2 (num / den)) for num > 0. -/
def floorLog2 (num den : Nat) : Int :=
  let g : Int := (Nat.log2 num : Int) - (Nat.log2 den : Int)
  let p := scaleRat num den g
  if p.1 < p.2 then g - 1 else g

/-- Round num / den onto the grid of `p` significant bits and spacing at least 2^emin, unbounded above: magnitude and
exponent of the result. -/
def roundGrid (r : Rounding) (p : Nat) (emin : Int) (num den : Nat) : Nat × Int :=
  if num = 0 then (0, emin)
  else
    let u := max (floorLog2 num den - (p - 1 : Int)) emin
    let f := scaleRat num den u
    (roundRat r f.1 f.2, u)

namespace FVal

def isNan : FVal → Bool
  | .nan => true
  | _ => false

def isFinite : FVal → Bool
  | .fin _ _ _ => true
  | _ => false

def isZero : FVal → Bool
  | .fin _ 0 _ => true
  | _ => false

def neg : FVal → FVal
  | .nan => .nan
  | .inf n => .inf !n
  | .fin n m e => .fin (!n) m e

def abs : FVal → FVal
  | .nan => .nan
  | .inf _ => .inf false
  | .fin _ m e => .fin false m e

def isNeg : FVal → Bool
  | .nan => false
  | .inf n => n
  | .fin n _ _ => n

def zero : FVal := .fin false 0 0
def one : FVal := .fin false 1 0

/-- The magnitude brought to exponent `e`, for e at most the value's own. -/
def magAt (m : Nat) (e0 e : Int) : Nat := m * 2 ^ (e0 - e).toNat

/-- The signed magnitude at a common exponent. -/
def intAt (n : Bool) (m : Nat) (e0 e : Int) : Int := if n then -(magAt m e0 e : Int) else (magAt m e0 e : Int)

/-- Exact sum; the sign of an exact zero is that of IEEE 754 under round to nearest (R67, R105). -/
def add : FVal → FVal → FVal
  | .nan, _ => .nan
  | _, .nan => .nan
  | .inf a, .inf b => if a = b then .inf a else .nan
  | .inf a, _ => .inf a
  | _, .inf b => .inf b
  | .fin a m e, .fin b n f =>
    let g := min e f
    let s := intAt a m e g + intAt b n f g
    if s = 0 then .fin (a && b) 0 0 else .fin (decide (s < 0)) s.natAbs g

def sub (x y : FVal) : FVal := add x y.neg

/-- Exact product. -/
def mul : FVal → FVal → FVal
  | .nan, _ => .nan
  | _, .nan => .nan
  | .inf a, .inf b => .inf (a != b)
  | .inf a, .fin b n _ => if n = 0 then .nan else .inf (a != b)
  | .fin a m _, .inf b => if m = 0 then .nan else .inf (a != b)
  | .fin a m e, .fin b n f => .fin (a != b) (m * n) (e + f)

/-- Exact order of two values that are not NaN: negative, zero or positive. -/
def cmp : FVal → FVal → Int
  | .inf a, .inf b => if a = b then 0 else if a then -1 else 1
  | .inf a, _ => if a then -1 else 1
  | _, .inf b => if b then 1 else -1
  | .fin a m e, .fin b n f =>
    let g := min e f
    let s := intAt a m e g - intAt b n f g
    if s < 0 then -1 else if s = 0 then 0 else 1
  | _, _ => 0

def lt (x y : FVal) : Bool := !x.isNan && !y.isNan && cmp x y < 0
def le (x y : FVal) : Bool := !x.isNan && !y.isNan && cmp x y ≤ 0
def eqv (x y : FVal) : Bool := !x.isNan && !y.isNan && cmp x y = 0

/-- MIN and MAX of R132: NaN if either operand is NaN, and −0 below +0. -/
def min2 (x y : FVal) : FVal :=
  if x.isNan || y.isNan then .nan
  else if cmp x y < 0 then x else if 0 < cmp x y then y
  else if x.isNeg then x else y

def max2 (x y : FVal) : FVal :=
  if x.isNan || y.isNan then .nan
  else if cmp x y < 0 then y else if 0 < cmp x y then x
  else if x.isNeg then y else x

/-- The value of the magnitude m × 2^e after rounding onto the grid of `f`, as the largest finite value allows;
`none` where the rounded magnitude lies above it (R82, R83). -/
def fits (f : FpFmt) (m : Nat) (e : Int) : Bool :=
  let p := f.finMag f.maxCode
  let g := min e p.2
  magAt m e g ≤ magAt p.1 p.2 g

/-- Round num / den with a sign into `f`; a finite overflow gives an infinity. -/
def ofRat (f : FpFmt) (neg : Bool) (num den : Nat) : FVal :=
  let p := roundGrid .rne (f.mbits + 1) f.emin num den
  if fits f p.1 p.2 then .fin neg p.1 p.2 else .inf neg

/-- Round an exact value to `f` by nearest-even: the `rne32` and `rne64` of the spec. -/
def round (f : FpFmt) : FVal → FVal
  | .nan => .nan
  | .inf n => .inf n
  | .fin n m e => let q := scaleRat m 1 (-e); ofRat f n q.1 q.2

/-- Correctly rounded quotient. -/
def div (f : FpFmt) : FVal → FVal → FVal
  | .nan, _ => .nan
  | _, .nan => .nan
  | .inf _, .inf _ => .nan
  | .inf a, .fin b _ _ => .inf (a != b)
  | .fin a _ _, .inf b => .fin (a != b) 0 0
  | .fin a m e, .fin b n g =>
    if n = 0 then if m = 0 then .nan else .inf (a != b)
    else let q := scaleRat m n (g - e); ofRat f (a != b) q.1 q.2

/-- `fma(x, y, z)`, rounded once. -/
def fma (f : FpFmt) (x y z : FVal) : FVal := round f (add (mul x y) z)

def addR (f : FpFmt) (x y : FVal) : FVal := round f (add x y)
def mulR (f : FpFmt) (x y : FVal) : FVal := round f (mul x y)

/-- 2^k. -/
def pow2 (k : Int) : FVal := .fin false 1 k

/-- floor (log2 |x|) of a finite value that is not zero; 0 otherwise. -/
def ilog2 : FVal → Int
  | .fin _ m e => if m = 0 then 0 else (Nat.log2 m : Int) + e
  | _ => 0

/-- The code in `f` of a value that lies on its grid (the result of `round f`); NaN is canonical. -/
def code (f : FpFmt) : FVal → Nat
  | .nan => f.nanCode
  | .inf n => f.maxCode + 1 + (if n then f.signBit else 0)
  | .fin n m e =>
    let s := if n then f.signBit else 0
    if m = 0 then s
    else
      let k := (Nat.log2 m : Int) + e
      let u := max (k - f.mbits) f.emin
      let q := if u ≤ e then m * 2 ^ (e - u).toNat else m / 2 ^ (u - e).toNat
      s + q + ((u - f.emin).toNat) * 2 ^ f.mbits

/-- An integer as a value. -/
def ofInt (i : Int) : FVal := .fin (decide (i < 0)) i.natAbs 0

end FVal

/-- The FP32 value of a code. -/
def f32 (c : Nat) : FVal := fp32.decode c
/-- The FP64 value of a code. -/
def f64 (c : Nat) : FVal := fp64.decode c

end Sys2Proof
end

