-- ==== Sys2Proof/Machine/Formats.lean ====
section
/-! DEFINITION. Format codes, scales and the output conversion: spec/03_number_formats.md R62 to R89, R496 to R498. -/

namespace Sys2Proof

/-- How an element's bits are read (R62). -/
inductive ElemKind where
  | float (f : FpFmt)
  | int (w : Nat)
  | mxint8
  deriving DecidableEq, Repr

/-- The fine scale of a block format (R62). -/
inductive FineKind where
  | none | e8m0 | ue5m3
  deriving DecidableEq, Repr

/-- Whether a tensor of the format has a coarse scale (R62, R77). -/
inductive CoarseKind where
  | none | optional | required
  deriving DecidableEq, Repr

/-- One row of the table of R62. -/
structure Fmt where
  code : Nat
  kind : ElemKind
  bits : Nat
  block : Nat
  square : Bool
  fine : FineKind
  coarse : CoarseKind
  deriving DecidableEq, Repr

namespace Fmt

/-- The table of R62. -/
def table : List Fmt :=
  [⟨0x01, .float fp64, 64, 0, false, .none, .none⟩,
   ⟨0x02, .float fp32, 32, 0, false, .none, .none⟩,
   ⟨0x03, .float bf16, 16, 0, false, .none, .none⟩,
   ⟨0x04, .float fp16, 16, 0, false, .none, .none⟩,
   ⟨0x05, .float e4m3, 8, 0, false, .none, .optional⟩,
   ⟨0x06, .float e5m2, 8, 0, false, .none, .optional⟩,
   ⟨0x07, .int 32, 32, 0, false, .none, .none⟩,
   ⟨0x08, .int 8, 8, 0, false, .none, .none⟩,
   ⟨0x10, .float e4m3, 8, 32, false, .e8m0, .optional⟩,
   ⟨0x11, .float e5m2, 8, 32, false, .e8m0, .optional⟩,
   ⟨0x12, .float e2m3, 6, 32, false, .e8m0, .optional⟩,
   ⟨0x13, .float e3m2, 6, 32, false, .e8m0, .optional⟩,
   ⟨0x14, .float e2m1, 4, 32, false, .e8m0, .optional⟩,
   ⟨0x15, .mxint8, 8, 32, false, .e8m0, .optional⟩,
   ⟨0x20, .float e2m1, 4, 16, false, .ue5m3, .required⟩,
   ⟨0x21, .float e2m1, 4, 16, true, .ue5m3, .required⟩]

/-- The row of a code; `none` for a code that R62 refuses. -/
def ofCode? (c : Nat) : Option Fmt := table.find? (fun f => f.code = c)

def valid (c : Nat) : Bool := (ofCode? c).isSome

/-- The row of a code that has passed its check; FP32's row otherwise. -/
def ofCode (c : Nat) : Fmt := (ofCode? c).getD ⟨0x02, .float fp32, 32, 0, false, .none, .none⟩

def scaled (f : Fmt) : Bool := f.fine != .none
def hasCoarse (f : Fmt) : Bool := f.coarse != .none
def isPB4 (f : Fmt) : Bool := f.fine == .ue5m3

/-- The innermost dimension padded to whole blocks, R65. -/
def padded (f : Fmt) (n : Nat) : Nat := if f.block = 0 then n else roundUp n f.block

/-- Bytes of one row of `n` elements, R64 and R65. -/
def rowBytes (f : Fmt) (n : Nat) : Nat := f.padded n * f.bits / 8

/-- The rows of a plane padded to whole blocks, R65. -/
def paddedRows (f : Fmt) (m : Nat) : Nat := if f.square then roundUp m 16 else m

/-- Blocks along one row of blocks, R66. -/
def blocksPerRow (f : Fmt) (n : Nat) : Nat := if f.block = 0 then 0 else f.padded n / f.block

/-- Fine scales of a plane of m rows and n columns, R66. -/
def scaleCount (f : Fmt) (m n : Nat) : Nat :=
  if f.square then (f.paddedRows m / 16) * f.blocksPerRow n else m * f.blocksPerRow n

/-- The number of the block that holds element (i, j), R66. -/
def blockOf (f : Fmt) (n i j : Nat) : Nat :=
  if f.square then (i / 16) * f.blocksPerRow n + j / 16 else i * f.blocksPerRow n + j / f.block

end Fmt

/-- The exact value of an element code, before any scale (R67 to R73). -/
def elemValue (f : Fmt) (c : Nat) : FVal :=
  match f.kind with
  | .float g => g.decode c
  | .int w => FVal.ofInt (signedOf w c)
  | .mxint8 => FVal.mul (FVal.ofInt (signedOf 8 c)) (FVal.pow2 (-6))

/-- The value of an E8M0 byte, R75. -/
def e8m0Value (b : Nat) : FVal := if b = 0xFF then .nan else FVal.pow2 ((b : Int) - 127)

/-- The value of a UE5M3 byte, R76. -/
def ue5m3Value (b : Nat) : FVal :=
  if b = 0xFF then .nan
  else if b < 8 then .fin false b (-17)
  else .fin false (8 + b % 8) ((b / 8 : Int) - 18)

/-- The value of a fine scale byte; 1 where the format has none. -/
def fineValue (f : Fmt) (b : Nat) : FVal :=
  match f.fine with
  | .none => FVal.one
  | .e8m0 => e8m0Value b
  | .ue5m3 => ue5m3Value b

/-- Element × fine scale, exactly: what a feeder forms (R79). A scale of 0 makes every element zero (R76), an invalid
scale makes it NaN (R75, R76). -/
def scaledValue (f : Fmt) (c s : Nat) : FVal := FVal.mul (elemValue f c) (fineValue f s)

/-- The decoded value of R78 in a wide format, rounded once (R79); exact in FP64. -/
def decodeTo (g : FpFmt) (f : Fmt) (c s : Nat) (coarse : FVal) : FVal :=
  let x := scaledValue f c s
  FVal.round g (if f.hasCoarse then FVal.mul x coarse else x)

/-! ## Packing, R64 -/

/-- Concatenate codes of `w` bits, lowest first. -/
def packNat (w : Nat) : List Nat → Nat
  | [] => 0
  | c :: t => c % 2 ^ w + 2 ^ w * packNat w t

/-- The bytes of a run of codes. -/
def packCodes (w : Nat) (cs : List Nat) : List Byte :=
  if w = 8 then cs.map (BitVec.ofNat 8)
  else if 8 < w then cs.flatMap (fun c => leBytes (w / 8) c)
  else leBytes (cs.length * w / 8) (packNat w cs)

/-- Code number `j` of a run of packed codes. -/
def codeAt (w : Nat) (bs : List Byte) (j : Nat) : Nat :=
  let lo := j * w / 8
  field bs lo (ceilDiv (j * w % 8 + w) 8) / 2 ^ (j * w % 8) % 2 ^ w

/-- The first `n` codes of a run of packed codes. -/
def unpackCodes (w : Nat) (bs : List Byte) (n : Nat) : List Nat :=
  (List.range n).map (codeAt w bs)

/-! ## Rounding into a destination, R80 to R83, R496, R497 -/

/-- Overflow, R83: the code written for a rounded result beyond the largest finite value. -/
def overflowCode (f : FpFmt) (sat neg : Bool) : Nat :=
  if sat then f.maxFinite neg
  else if f.ieee then FVal.code f (.inf neg)
  else if f.nan7F then f.nanCode
  else f.maxFinite neg

/-- A zero result loses its sign in the E2M1, E2M3 and E3M2 formats (R74). -/
def keepsZeroSign (f : FpFmt) : Bool := f.ieee || f.nan7F

/-- Round ±num/den into a floating-point destination, R80 to R83. -/
def convFloat (f : FpFmt) (r : Rounding) (sat neg : Bool) (num den : Nat) : Nat :=
  let p := roundGrid r (f.mbits + 1) f.emin num den
  if FVal.fits f p.1 p.2 then
    FVal.code f (.fin (neg && (p.1 ≠ 0 || keepsZeroSign f)) p.1 p.2)
  else overflowCode f sat neg

/-- Clamp a signed magnitude into [lo, hi] and give its two's complement code of `w` bits. -/
def clampInt (w : Nat) (lo hi : Int) (neg : Bool) (m : Nat) : Nat :=
  let i : Int := if neg then -(m : Int) else m
  wrapTo w (min (max i lo) hi)

/-- Round ±num/den into a destination's element code, R83. `den` is not 0. -/
def convRat (f : Fmt) (r : Rounding) (sat neg : Bool) (num den : Nat) : Nat :=
  match f.kind with
  | .float g => convFloat g r sat neg num den
  | .int w => clampInt w (-(2 ^ (w - 1) : Int)) (2 ^ (w - 1) - 1) neg (roundRat r num den)
  | .mxint8 => clampInt 8 (-127) 127 neg (roundRat r (num * 64) den)

/-- Convert one value that has no block scale (R83's rows for unscaled destinations). -/
def convValue (f : Fmt) (r : Rounding) (sat : Bool) (v : FVal) : Nat :=
  match v with
  | .fin n m e => let q := scaleRat m 1 (-e); convRat f r sat n q.1 q.2
  | .inf n =>
    match f.kind with
    | .float g => if g.ieee then FVal.code g (.inf n) else if sat then g.maxFinite n else g.nanCode
    | .int w => wrapTo w (if n then -(2 ^ (w - 1) : Int) else 2 ^ (w - 1) - 1)
    | .mxint8 => 0
  | .nan =>
    match f.kind with
    | .float g => g.nanCode
    | _ => 0

/-- Convert one element of a block whose fine scale is the value `s`: the exact quotient t / s, rounded once. -/
def convScaled (f : Fmt) (r : Rounding) (sat : Bool) (v s : FVal) : Nat :=
  match v, s with
  | .fin n m e, .fin _ k g =>
    if k = 0 then 0 else let q := scaleRat m k (g - e); convRat f r sat n q.1 q.2
  | _, _ => 0

/-! ## Block scales, R86 and R87 -/

/-- The largest magnitude of a block; `none` where an element is NaN or infinite. -/
def blockMax : List FVal → Option FVal
  | [] => some FVal.zero
  | v :: t =>
    match blockMax t with
    | none => none
    | some m => if v.isFinite then some (FVal.max2 m v.abs) else none

/-- The smallest UE5M3 byte with 6 × s ≥ m, R86. -/
def ue5m3For (m : FVal) : Nat :=
  ((List.range' 1 0xFE).find? (fun b => FVal.le m (FVal.mul (.fin false 6 0) (ue5m3Value b)))).getD 0xFE

/-- emax of R87. -/
def mxEmax (f : Fmt) : Int :=
  match f.code with
  | 0x10 => 8 | 0x11 => 15 | 0x12 => 2 | 0x13 => 4 | 0x14 => 2 | _ => 0

/-- The fine scale byte of a block, R86 and R87; 0xFF for an invalid block. -/
def blockScale (f : Fmt) (vs : List FVal) : Nat :=
  match blockMax vs with
  | none => 0xFF
  | some m =>
    if m.isZero then 0
    else match f.fine with
      | .ue5m3 => ue5m3For m
      | _ => (min (max (m.ilog2 - mxEmax f) (-127)) 127 + 127).toNat

/-- The element code of a value in a block of scale byte `s`: code 0 in an invalid block or one of scale 0 in PB4. -/
def blockCode (f : Fmt) (r : Rounding) (sat : Bool) (s : Nat) (v : FVal) : Nat :=
  if s = 0xFF then 0
  else if f.fine == .ue5m3 && s = 0 then 0
  else convScaled f r sat v (fineValue f s)

/-! ## A plane of values into codes and scales -/

/-- Codes and fine scales of a converted plane; `codes` holds whole padded rows. -/
structure Plane2 where
  codes : List (List Nat)
  scales : List Nat
  deriving DecidableEq, Repr

/-- Element (i, j) of a list of rows. -/
def at2 (d : α) (rows : List (List α)) (i j : Nat) : α := (rows.getD i []).getD j d

/-- The elements of block (bi, bj) that are not padding. -/
def blockElems (f : Fmt) (rows : List (List FVal)) (bi bj : Nat) : List FVal :=
  if f.square then ((rows.drop (16 * bi)).take 16).flatMap (fun r => (r.drop (16 * bj)).take 16)
  else ((rows.getD bi []).drop (f.block * bj)).take f.block

/-- Convert rows of `n` values each into format `f`; `mode i j` is the rounding (with its draw) of position (i, j).
Padding positions are written as code 0 (R65). -/
def convPlane (f : Fmt) (mode : Nat → Nat → Rounding) (sat : Bool) (n : Nat) (rows : List (List FVal)) : Plane2 :=
  if f.scaled then
    let bw := f.blocksPerRow n
    let brows := if f.square then f.paddedRows rows.length / 16 else rows.length
    let scales := (List.range brows).flatMap (fun bi => (List.range bw).map (fun bj => blockScale f (blockElems f rows bi bj)))
    let codes := (List.range (f.paddedRows rows.length)).map (fun i =>
      (List.range (f.padded n)).map (fun j =>
        if i < rows.length && j < n then
          blockCode f (mode i j) sat (scales.getD (f.blockOf n i j) 0) (at2 FVal.zero rows i j)
        else 0))
    ⟨codes, scales⟩
  else
    ⟨(List.range rows.length).map (fun i => (List.range n).map (fun j =>
        convValue f (mode i j) sat (at2 FVal.zero rows i j))), []⟩

/-! ## The conversion block, R84 -/

/-- The 32-byte conversion block of R84; FP32 fields hold their codes. -/
structure Conv where
  dst : Nat
  round : Nat
  sat : Bool
  biasEn : Bool
  clipEn : Bool
  coarseMode : Nat
  amaxEn : Bool
  reserved : Nat
  outScale : Nat
  clipLo : Nat
  clipHi : Nat
  coarseOut : Nat
  amaxRef : Nat
  amaxOut : Nat
  biasTensor : Nat
  deriving DecidableEq, Repr

namespace Conv

/-- Read the 32 bytes of a conversion block. -/
def ofBytes (b : List Byte) : Conv :=
  let c := field b 0 4
  { dst := bits c 7 0, round := bits c 9 8, sat := bit c 10, biasEn := bit c 11, clipEn := bit c 12,
    coarseMode := bits c 14 13, amaxEn := bit c 15, reserved := bits c 31 16,
    outScale := field b 4 4, clipLo := field b 8 4, clipHi := field b 12 4, coarseOut := field b 16 4,
    amaxRef := field b 20 4, amaxOut := field b 24 4, biasTensor := field b 28 4 }

def fmt (c : Conv) : Fmt := Fmt.ofCode c.dst

/-- A supplied coarse scale is finite, positive and normal, R77. -/
def coarseOk (code : Nat) : Bool := 0x00800000 ≤ code && code ≤ 0x7F7FFFFF

/-- D of R88. -/
def divisor (c : Conv) : Nat :=
  match c.dst with
  | 0x05 => 448 | 0x06 => 57344 | _ => 1536

def refZero (c : Conv) : Bool := (f32 c.amaxRef).isZero

/-- The check of R84 and R498: whether the conversion is refused with VALUE_OUT_OF_RANGE. `engine` says that a copy
engine runs it (COARSE_MODE 2 is refused in an output conversion). -/
def ok (c : Conv) (engine : Bool) : Bool :=
  Fmt.valid c.dst && c.round ≠ 3 && c.coarseMode ≠ 3 && c.reserved = 0
  && (f32 c.outScale).isFinite
  && !(f32 c.clipLo).isNan && !(f32 c.clipHi).isNan && FVal.le (f32 c.clipLo) (f32 c.clipHi)
  && (c.coarseMode = 0 || c.dst = 0x05 || c.dst = 0x06 || c.dst = 0x20 || c.dst = 0x21)
  && (c.coarseMode ≠ 2 || engine)
  && (f32 c.amaxRef).isFinite && ((f32 c.amaxRef).isZero || !(f32 c.amaxRef).isNeg)
  && (c.biasEn || c.biasTensor = 0)
  && (!(c.fmt.hasCoarse && (c.coarseMode = 0 || (c.coarseMode = 1 && c.refZero))) || coarseOk c.coarseOut)

/-- Keep a derived coarse scale within R77, R498. -/
def clampCoarse (v : FVal) : Nat :=
  match v with
  | .inf _ => 0x7F7FFFFF
  | .nan => 0x7F7FFFFF
  | _ => let k := FVal.code fp32 v; if k < 0x00800000 then 0x00800000 else k

/-- The coarse scale a conversion uses, R88; `a` is the largest finite |y3| that mode 2 found. -/
def coarseUsed (c : Conv) (a : FVal) : Nat :=
  let d : FVal := .fin false c.divisor 0
  match c.coarseMode with
  | 1 => if c.refZero then c.coarseOut else clampCoarse (FVal.div fp32 (f32 c.amaxRef) d)
  | 2 => if a.isZero then 0x3F800000 else clampCoarse (FVal.div fp32 a d)
  | _ => c.coarseOut

/-- y3 of R85 for the value `a` in working format `wf`. -/
def y3 (c : Conv) (wf : FpFmt) (bias : FVal) (a : FVal) : FVal :=
  let y1 := FVal.mulR wf a (f32 c.outScale)
  let y2 := if c.biasEn then FVal.addR wf y1 bias else y1
  if c.clipEn then FVal.min2 (FVal.max2 y2 (f32 c.clipLo)) (f32 c.clipHi) else y2

/-- t of R85. -/
def tOf (c : Conv) (coarse : Nat) (y : FVal) : FVal :=
  if c.fmt.hasCoarse then FVal.mulR fp32 y (FVal.div fp32 FVal.one (f32 coarse)) else y

/-- Whether the unit tracks amax, R89. -/
def tracks (c : Conv) : Bool := c.amaxEn || c.coarseMode = 1

end Conv

/-- The largest finite magnitude of a list, from +0 on (R89). -/
def amaxOf (vs : List FVal) : FVal :=
  vs.foldl (fun m v => if v.isFinite then FVal.max2 m v.abs else m) FVal.zero

/-- ru32 of R89: toward +infinity to FP32, never above the largest finite value. -/
def ru32 (v : FVal) : Nat :=
  match v with
  | .fin _ m e =>
    let q := scaleRat m 1 (-e)
    let p := roundGrid .rz 24 fp32.emin q.1 q.2
    if FVal.fits fp32 p.1 p.2 then
      let k := FVal.code fp32 (.fin false p.1 p.2)
      if FVal.lt (.fin false p.1 p.2) (.fin false m e) then min (k + 1) 0x7F7FFFFF else k
    else 0x7F7FFFFF
  | _ => 0x7F7FFFFF

/-- The working format of a copy engine's conversion, R85. -/
def engineWorking (src : Nat) : FpFmt := if src = 0x01 || src = 0x07 then fp64 else fp32

end Sys2Proof
end

