-- ==== Sys2Proof/Machine/Hash.lean ====
section
/-! DEFINITION. The check codes and digests the part computes: CRC-32C (R279, R360), CRC-64 (R360), SHA3-256, SHA3-512
and KMAC256 (R39, R40, R422, R473). The rules name these functions; FIPS 202 and SP 800-185 are their definitions. -/

namespace Sys2Proof

/-- The bytes of an ASCII text. -/
def ascii (s : String) : List Byte := s.toList.map (fun c => BitVec.ofNat 8 c.toNat)

/-! ## CRC -/

/-- One bit of a reflected CRC register. -/
def crcBit (poly v : Nat) : Nat := if v % 2 = 1 then (v / 2) ^^^ poly else v / 2

/-- One byte into a reflected CRC register. -/
def crcByte (poly v : Nat) (b : Byte) : Nat :=
  let step := crcBit poly
  step (step (step (step (step (step (step (step (v ^^^ b.toNat))))))))

/-- CRC-32C of R279 and R360: polynomial 0x1EDC6F41 reflected. -/
def crc32c (bs : List Byte) : Nat := (bs.foldl (crcByte 0x82F63B78) 0xFFFFFFFF) ^^^ 0xFFFFFFFF

/-- CRC-64 of R360: polynomial 0x42F0E1EBA9EA3693 reflected. -/
def crc64 (bs : List Byte) : Nat :=
  (bs.foldl (crcByte 0xC96C5795D7870F42) 0xFFFFFFFFFFFFFFFF) ^^^ 0xFFFFFFFFFFFFFFFF

/-! ## Keccak -/

namespace Keccak

/-- A lane turned left by n of its 64 places. -/
def turn (n v : Nat) : Nat := v * 2 ^ n % 2 ^ 64 + v * 2 ^ n / 2 ^ 64

/-- The shift register of FIPS 202 behind the round constants: x⁸ + x⁶ + x⁵ + x⁴ + 1. -/
def feed (r : Nat) : Nat := if r < 128 then 2 * r else (2 * r - 256) ^^^ 0x71

/-- The constant of one round, drawn from the register: draw j sets bit 2^j − 1. -/
def drawConstant : Nat → Nat → Nat × Nat
  | 0, r => (0, r)
  | n + 1, r =>
    let r' := feed r
    let rest := drawConstant n r'
    (rest.1 + (if r' / 2 % 2 = 1 then 2 ^ (2 ^ (6 - n) - 1) else 0), rest.2)

/-- The constants of n rounds from a register. -/
def iotas : Nat → Nat → List Nat
  | 0, _ => []
  | n + 1, r => (drawConstant 7 r).1 :: iotas n (drawConstant 7 r).2

/-- The walk over the 24 lanes off the origin: step t goes from column x, row y to column y, row 2x + 3y, and turns the lane
it leaves by (t + 1)(t + 2) / 2. Each entry: the lane left, the lane entered, the turn. -/
def walk : Nat → Nat → Nat → Nat → List (Nat × Nat × Nat)
  | 0, _, _, _ => []
  | n + 1, t, x, y =>
    let y' := (2 * x + 3 * y) % 5
    (x + 5 * y, y + 5 * y', (t + 1) * (t + 2) / 2 % 64) :: walk n (t + 1) y y'

/-- Add to every lane the parities of the two columns beside it. -/
def mixColumns (s : List Nat) : List Nat :=
  let parity (x : Nat) : Nat := (s.zipIdx).foldl (fun p e => if e.2 % 5 = x % 5 then p ^^^ e.1 else p) 0
  let near := [0, 1, 2, 3, 4].map (fun x => parity (x + 4) ^^^ turn 1 (parity (x + 1)))
  s.zipIdx.map (fun e => e.1 ^^^ near.getD (e.2 % 5) 0)

/-- Turn and move the lanes along the walk. -/
def moveLanes (s : List Nat) : List Nat :=
  (walk 24 0 1 0).foldl (fun r w => r.set w.2.1 (turn w.2.2 (s.getD w.1 0))) s

/-- The nonlinear step: what place i of a row keeps of itself and of the two places behind it. -/
def bend (s : List Nat) (i : Nat) : Nat :=
  let at_ (k : Nat) : Nat := s.getD (5 * (i / 5) + (i % 5 + k) % 5) 0
  at_ 0 ^^^ (at_ 2 - (at_ 1 &&& at_ 2))

/-- One round of Keccak-f[1600] over 25 lanes. -/
def round (s : List Nat) (constant : Nat) : List Nat :=
  let v := moveLanes (mixColumns s)
  (List.range 25).map (fun i => if i = 0 then bend v i ^^^ constant else bend v i)

def permute (s : List Nat) : List Nat := (iotas 24 1).foldl round s

/-- Exclusive-or the eight-byte lanes of a block into the state. -/
def xorLanes : List Nat → List Nat → List Nat
  | s :: t, b :: u => (s ^^^ b) :: xorLanes t u
  | s, _ => s

/-- The lanes of a run of bytes. -/
def lanes : Nat → List Byte → List Nat
  | 0, _ => []
  | n + 1, bs => leNat (bs.take 8) :: lanes n (bs.drop 8)

/-- Absorb whole blocks of `rate` bytes. -/
def absorb (rate : Nat) : Nat → List Nat → List Byte → List Nat
  | 0, s, _ => s
  | n + 1, s, bs => absorb rate n (permute (xorLanes s (lanes (rate / 8) (bs.take rate)))) (bs.drop rate)

/-- Pad a message to whole blocks with a domain suffix byte. -/
def pad (rate suffix : Nat) (m : List Byte) : List Byte :=
  let q := rate - m.length % rate
  if q = 1 then m ++ [BitVec.ofNat 8 (suffix ^^^ 0x80)]
  else m ++ BitVec.ofNat 8 suffix :: List.replicate (q - 2) 0 ++ [0x80]

/-- The first `n` output bytes, for n at most the rate. -/
def sponge (rate suffix n : Nat) (m : List Byte) : List Byte :=
  let p := pad rate suffix m
  ((absorb rate (p.length / rate) (List.replicate 25 0) p).flatMap (leBytes 8)).take n

end Keccak

def sha3_512 (m : List Byte) : List Byte := Keccak.sponge 72 0x06 64 m
def sha3_256 (m : List Byte) : List Byte := Keccak.sponge 136 0x06 32 m

/-- The minimal big-endian bytes of a number, one byte at least. -/
def beBytes (v : Nat) : List Byte :=
  let n := max 1 (ceilDiv (if v = 0 then 0 else Nat.log2 v + 1) 8)
  (leBytes n v).reverse

def leftEncode (v : Nat) : List Byte := let b := beBytes v; BitVec.ofNat 8 b.length :: b
def rightEncode (v : Nat) : List Byte := let b := beBytes v; b ++ [BitVec.ofNat 8 b.length]
def encodeString (s : List Byte) : List Byte := leftEncode (8 * s.length) ++ s

/-- Fill to a multiple of `w` bytes behind the encoding of `w`. -/
def bytepad (x : List Byte) (w : Nat) : List Byte :=
  let z := leftEncode w ++ x
  z ++ List.replicate ((w - z.length % w) % w) 0

/-- KMAC256(K, X, 256, S), R422. -/
def kmac256 (k x : List Byte) (s : String) : List Byte :=
  let newX := bytepad (encodeString k) 136 ++ x ++ rightEncode 256
  Keccak.sponge 136 0x04 32 (bytepad (encodeString (ascii "KMAC") ++ encodeString (ascii s)) 136 ++ newX)

end Sys2Proof
end

