-- ==== Sys2Proof/Machine/Jobs.lean ====
section
/-! DEFINITION. What a package holds of a job: the bundle's records (spec/02_execution_contract.md R41 to R46,
spec/06_four_bit_training.md R152 and R153, spec/15_jobs_and_checkpoints.md R387 to R398) and the job's running state. -/

namespace Sys2Proof

/-- A tensor of the LAYOUT section, R44, with the places the loader chose and its tensor descriptor's coarse scale. -/
structure Tensor where
  id : Nat
  fmt : Nat
  rank : Nat
  access : Nat
  region : Nat
  dims : List Nat
  placeKind : Nat
  stack : Nat
  splitDim : Nat
  splitCount : Nat
  scalePlace : Nat
  scaleStack : Nat
  coarse : U32
  /-- Node offsets of the element pieces and of their scale planes, piece by piece. -/
  pieces : List (Nat × Nat)
  deriving DecidableEq, Repr

/-- RESOURCES, R43. -/
structure Resources where
  solvers : BitVec 64
  localMem : Nat
  hbm : List Nat
  tileRegs : Nat
  objects : Nat
  services : BitVec 1024
  channels : BitVec 256
  engines : Nat
  features : BitVec 64
  deriving DecidableEq, Repr

/-- CHECKPOINT_POLICY, R398. -/
structure CkptPolicy where
  interval : Nat
  storage : Nat
  baseA : Nat
  baseB : Nat
  manifestBytes : Nat
  memberBytes : Nat
  deriving DecidableEq, Repr

/-- One shard entry of LOAD_PACING, R395. -/
structure ShardEntry where
  tensor : Nat
  storage : Nat
  base : Nat
  stride : Nat
  digests : Nat
  deriving DecidableEq, Repr

/-- LOAD_PACING, R395. -/
structure Pacing where
  rateCap : Nat
  stagger : Nat
  waves : Nat
  shards : List ShardEntry
  deriving DecidableEq, Repr

/-- One entry of the TRAINING record, R153. -/
structure TrainEntry where
  tensor : Nat
  kind : Nat
  weightClass : Nat
  initial : Nat
  floor : Nat
  ceiling : Nat
  pinned : Bool
  coarseIn : U32
  outlierThresh : U32
  outlierMax : Nat
  saveMode : Nat
  bRound : Nat
  deriving DecidableEq, Repr

/-- The TRAINING record with its defaults filled in, R152. -/
structure Training where
  controlEn : Bool
  rotEn : Bool
  rotSize : Nat
  shadowPeriod : Nat
  demoteSteps : Nat
  backoffMax : Nat
  promoteSteps : Nat
  nonfiniteLimit : Nat
  eps4Hi : U32
  eps4Lo : U32
  eps8Hi : U32
  eps8Lo : U32
  rangeHi : U32
  doneObj : Nat
  decisionObj : Nat
  stepObj : Nat
  evalInterval : Nat
  evalRole : Nat
  evalLoss : Nat
  evalGate : U32
  entries : List TrainEntry
  deriving DecidableEq, Repr

/-- A controlled product, R146: its kind (0 F, 1 B, 2 U), and the entry numbers of W, X and dY. -/
structure Product where
  kind : Nat
  operands : List Nat
  deriving DecidableEq, Repr

/-- The controller's state for one entry, R177. -/
structure EntryState where
  state : Nat
  qualifying : Nat
  promoRun : Nat
  hold : Nat
  lastDemotion : Option Nat
  /-- 0 where the state was not reached by demotion; otherwise one more than the steps held since. -/
  heldSince : Nat
  deriving DecidableEq, Repr

/-- The training controller of a job: R162 to R169, R176, R177. -/
structure Controller where
  entries : List EntryState
  withheldRun : Nat
  lossRef : Option U64
  step : Nat
  /-- Totals received for the step in progress, by node (anchor). -/
  totals : List Totals
  /-- Whether this member has sent its totals of the step. -/
  sent : Bool
  /-- The variant slot of each entry (R168). -/
  variants : List Nat
  /-- Member nodes silent at the last decision (R411). -/
  silent : List Nat
  /-- The event number at the last totals; the step whose input field failed its check (R370); the training steps whose
  evaluation has been judged (R176). -/
  mark : Nat := 0
  badInput : Option Nat := none
  evaluated : Nat := 0
  /-- The last decision withheld its step (R161). -/
  withheld : Bool := false
  deriving DecidableEq, Repr

/-- A data shard in progress, R401: its stack and piece, its place in memory and in the member's storage area, the engine and
SEQ of its guarded copy, and its digest once the copy has ended. -/
structure CkptCopy where
  stack : Nat
  piece : Nat
  base : Nat
  bytes : Nat
  offset : Nat
  engine : Nat
  seq : Nat
  done : Bool
  digest : List Byte
  deriving DecidableEq, Repr

/-- Where a checkpoint in progress stands: R399 to R406. -/
structure CkptRun where
  step : Nat
  /-- 0: waiting for boundaries; 1 to 4: the write step of R402 that is running. -/
  phase : Nat
  /-- Parts whose boundary has been reached. -/
  parts : List Part
  snapshot : List (Nat × U64)
  copies : List CkptCopy
  failed : Nat
  /-- One-member job without a policy (R400): no storage writes follow. -/
  quiesced : Bool
  /-- The controller and the coupler's conversion blocks at the boundary (R177, R401). -/
  controller : Option Controller := none
  blocks : List Byte := []
  /-- Write step 1 has been sent. -/
  begun : Bool := false
  deriving DecidableEq, Repr

/-- A member's place in a start, R388 to R393. -/
structure MemberState where
  node : Nat
  index : Nat
  ready : Bool
  spare : Bool
  suspect : Bool
  /-- The anchor holds its stage-8 result (R51). -/
  loaded : Bool
  deriving DecidableEq, Repr

/-- A restore in progress, R408: the selected record and its manifest, the shards still to be read (by table number) and those
read, and whether it is same-shape (R409). -/
structure Restore where
  epoch : Nat
  step : Nat
  gen : Nat
  seq : Nat
  manifest : List Byte
  same : Bool
  want : List Nat
  got : List (Nat × List Byte)
  deriving DecidableEq, Repr

/-- The two disabled physical clusters of a Slate die, 0 to 17: what the part's FACTORY_CLUSTERS word says (R19, R435). They differ
whatever the free value is. -/
def factoryClusters (d : Nat) : Nat × Nat :=
  let v := Config.factoryClusters d
  (v % 18, (v % 18 + 1 + v / 18 % 17) % 18)

/-- The physical core of a logical core, numbered 72 to a die: logical clusters are a die's enabled ones in rising order (R12, R20). -/
def physicalCore (c : Nat) : Nat :=
  let off := factoryClusters (c / 64)
  let k := ((List.range 18).filter (fun k => k ≠ off.1 && k ≠ off.2)).getD (c / 4 % 16) 0
  72 * (c / 64) + 4 * k + c % 4

/-- One direction of the field coupler, R367 and R370. -/
structure Direction where
  next : Nat
  /-- The node offset of its conversion block. -/
  block : Nat
  badRun : Nat
  /-- The engine that carries the running transfer. -/
  engine : Option Nat
  deriving DecidableEq, Repr

/-- The inference batcher of a serving job, R114: its window, the batches it has closed, and the rows that the last of them gives
the STREAM of each weight tile. -/
structure Batcher where
  window : Nat
  closed : Nat
  rows : Nat
  deriving DecidableEq, Repr

/-- A communicator of a job, R333: its number, its member nodes in ascending order, the core whose CP stream issues its
collectives on this package, and the Batten die of its staging. -/
structure Comm where
  comm : Nat
  members : List Nat
  issuing : Nat
  die : Nat
  deriving DecidableEq, Repr

/-- An admitted job of a slot. -/
structure Job where
  jobId : U64
  members : List Nat
  anchor : Nat
  ownIndex : Nat
  roles : List (Nat × BitVec 256)
  coupling : Option Nat
  /-- Tensor IDs of F0, F1, C0, C1, I0, I1, K0, K1 (R30) and the objects of R34 in its order. -/
  fields : List Nat
  exchange : List Nat
  /-- G_FWD, V_FWD, G_RET and V_RET of a coupled job, R369. -/
  bind : List Nat
  tree : List (Nat × Nat)
  pacing : Option Pacing
  policy : Option CkptPolicy
  spareMode : Nat
  spares : List Nat
  training : Option Training
  reproducible : Bool
  genMix : Bool
  res : Resources
  tensors : List Tensor
  jobSeed : List Byte
  roleSeeds : List (Nat × List Byte)
  /-- CONTENT_DIGEST, and the signer's KEY_ID (zero if unsigned). -/
  digest : List Byte
  signer : List Byte
  /-- What lowering was a function of, with the bundle (R54). -/
  lower : Config.LowerInput
  comms : List Comm
  products : List Product
  /-- Activation entries marked for recomputation (R174). -/
  recomputed : List Nat := []
  /-- The physical core of each logical core of the job (R20, R52). -/
  physical : List (Nat × Nat) := []
  /-- Boundary and gate objects of each core of a job with CHECKPOINT_POLICY: core, boundary, gate (R399). -/
  boundary : List (Nat × Nat × Nat)
  memberStates : List MemberState
  /-- The anchor's LOAD waits for the members' stage-8 results (R388, R427). -/
  loading : Bool := false
  reparented : Bool := false
  restore : Option Restore := none
  /-- The newest checkpoint that this package committed as acting anchor: epoch, step and manifest (R411). -/
  committed : Option (Nat × Nat × List Byte) := none
  /-- Members lost while running, and the cause (R411). -/
  lost : List Nat := []
  lostCode : Nat := 0
  /-- Initial PB4_SQ copies are being written (R151). -/
  seeding : Bool := false
  /-- JOB_STATE to return to when a frozen job resumes (R305). -/
  thawTo : Nat := 3
  /-- The job has started: its streams run or have run. -/
  started : Bool := false
  /-- Started commands that have not completed: CMD and COMMAND_ID. -/
  waits : List (Nat × Nat) := []
  /-- Requests that wait for a step boundary, R35. -/
  pauseReq : Bool := false
  /-- The code that a pause of the coupler shows (R370). -/
  pauseCode : Nat := 0
  stopReq : Bool := false
  ckptReq : Bool := false
  afterCommit : Bool := false
  /-- The step that a CHECKPOINT command has selected, the step last skipped, and the gates signalled to each part (R399,
  R400). -/
  selected : Option Nat := none
  skipStep : Option Nat := none
  gates : List Nat := [0, 0, 0]
  ckpt : Option CkptRun := none
  /-- The generation that the next checkpoint writes and its SEQUENCE, R402, R405. -/
  nextGen : Nat := 0
  ckptSeq : Nat := 0
  /-- The live set of the last evaluation, R304. -/
  live : List Nat := []
  controller : Option Controller
  forward : Direction
  ret : Direction
  batcher : Batcher
  /-- Data shards still to read, those read once with a wrong digest (also of a restore, which follow the data shards in
  number), whether the reads have begun, and the bytes that may be asked for (R396, R397). -/
  shardsLeft : List Nat := []
  retried : List Nat := []
  reading : Bool := false
  asked : Nat := 0
  /-- The step and drawing ordinal of Burist's copies, R375 and R376. -/
  buristStep : Nat := 0
  buristOrdinal : Nat := 0
  wdArmed : Bool := false
  wdLast : Option U64 := none
  deriving DecidableEq, Repr

/-- A bundle that arrives by broadcast, R388 to R391: its chunks by sequence number, the tree around this package, the
children with the chunk that each gets next, and the stage-2 failures. -/
structure Broadcast where
  jobId : U64
  parent : Nat
  alt : Nat
  anchor : Nat
  chunks : SMap (List Byte) := []
  children : List (Nat × Nat) := []
  left : List Nat := []
  fails : Nat := 0
  /-- The package holds every chunk: it is admitted or is the anchor. -/
  complete : Bool := false
  /-- HBM taken on each Slate stack. -/
  share : List Nat := [0, 0, 0, 0]
  deriving DecidableEq, Repr

end Sys2Proof
end

