-- ==== Sys2Proof/Machine/Bundle.lean ====
section
/-! DEFINITION. Spaer bundles: container, manifest, resources, layout and seeds, with the checks of admission stages 1 to 5 that
need nothing but the bytes (spec/02_execution_contract.md R37 to R47; records of spec/06_four_bit_training.md R152 to R154 and
spec/15_jobs_and_checkpoints.md R387, R392, R395, R398). -/

namespace Sys2Proof

/-- A refusal of admission: stage, code, section-table index and ITEM (R47, R50). -/
structure Refused where
  stage : Nat
  code : Nat
  section_ : Nat
  item : Nat
  deriving DecidableEq, Repr

/-- An entry of the section table with its index, R38. -/
structure Section where
  index : Nat
  ty : Nat
  role : Nat
  flags : Nat
  off : Nat
  size : Nat
  reserved : Nat
  deriving DecidableEq, Repr

/-- A record of the framing of R41. -/
structure Record where
  tag : Nat
  value : List Byte
  deriving DecidableEq, Repr

namespace Bundle

/-- A refusal where a check fails. -/
def need (ok : Bool) (stage code sec item : Nat) : Option Refused := if ok then none else some ⟨stage, code, sec, item⟩

/-- The first refusal of a list of checks. -/
def first : List (Option Refused) → Option Refused
  | [] => none
  | some r :: _ => some r
  | none :: t => first t

/-- The bytes [o, o + n) of a byte image. -/
def slice (b : List Byte) (o n : Nat) : List Byte := (b.drop o).take n

def zeros (b : List Byte) : Bool := b.all (fun x => x = 0)

/-! ## Container, R37 to R40 -/

def sectionAt (b : List Byte) (t i : Nat) : Section :=
  let e := slice b (t + 32 * i) 32
  ⟨i, field e 0 2, field e 2 2, field e 4 4, field e 8 8, field e 0x10 8, field e 0x18 8⟩

def sections (b : List Byte) : List Section := (List.range (field b 6 2)).map (sectionAt b (field b 0x18 8))

def body (b : List Byte) (x : Section) : List Byte := slice b x.off x.size

def ofType (b : List Byte) (ty : Nat) : List Section := (sections b).filter (fun x => x.ty = ty)

/-- The body of the one section of a type, and its index. -/
def the (b : List Byte) (ty : Nat) : List Byte := ((ofType b ty).head?.map (body b)).getD []
def theIx (b : List Byte) (ty : Nat) : Nat := ((ofType b ty).head?.map (·.index)).getD 0xFF

def signed (b : List Byte) : Bool := bit (field b 0x0C 4) 0

/-- Sections by ascending OFFSET. -/
def byOffset (l : List Section) : List Section := l.mergeSort (fun x y => x.off ≤ y.off)

/-- Every byte between the parts of the container is zero (R39). -/
def paddingZero (b : List Byte) : Nat → List (Nat × Nat) → Bool
  | pos, [] => zeros (b.drop pos)
  | pos, (a, n) :: t => (decide (a ≤ pos) || zeros (slice b pos (a - pos))) && paddingZero b (max pos (a + n)) t

/-- A section obeys R38 by itself. -/
def sectionOk (total : Nat) (x : Section) : Bool :=
  (x.ty ∈ [1, 2, 3, 4, 5, 6, 0xFF]) && (if x.ty = 2 then 1 ≤ x.role && x.role ≤ 255 else x.role = 0)
    && x.flags = 0 && x.off % 4096 = 0 && decide (1 ≤ x.size) && decide (x.off + x.size ≤ total) && x.reserved = 0

def meet (a b : Nat × Nat) : Bool := decide (a.1 < b.1 + b.2) && decide (b.1 < a.1 + a.2)

/-- Stage 1: MAGIC, FORMAT_VERSION, then the limits of R37 and R38. `size` is the number of bytes submitted. -/
def stage1 (b : List Byte) : Option Refused :=
  let v := Code.outOfRange
  let n := field b 6 2
  let t := field b 0x18 8
  let ss := sections b
  let parts := (0, 128) :: (t, 32 * n) :: (byOffset ss).map (fun x => (x.off, x.size))
  let one (ty : Nat) : Bool := (ofType b ty).length = 1
  first [
    need (decide (128 ≤ b.length) && field b 0 4 = 0x53504152) 1 v 0xFF 0,
    need (field b 4 2 = 1) 1 Code.versionUnsupported 0xFF 0,
    need (decide (5 ≤ n) && decide (n ≤ 1024) && decide (field b 0x0C 4 < 2) && field b 0x10 8 = b.length
      && decide (b.length ≤ 2 ^ 38) && t % 64 = 0 && decide (128 ≤ t) && decide (t + 32 * n ≤ b.length)
      && zeros (slice b 0x60 32)) 1 v 0xFF 0,
    first (ss.map (fun x => need (sectionOk b.length x) 1 v x.index 0)),
    first (ss.map (fun x => need (!meet (x.off, x.size) (0, 128) && !meet (x.off, x.size) (t, 32 * n)
      && ss.all (fun y => y.index = x.index || !meet (x.off, x.size) (y.off, y.size))) 1 v x.index 0)),
    need (one 1 && one 3 && one 4 && one 5 && decide (1 ≤ (ofType b 2).length)
      && decide (((ofType b 2).map (·.role)).Nodup)
      && (if signed b then one 0xFF && ((byOffset ss).getLast?.map (·.ty)) = some 0xFF else (ofType b 0xFF).isEmpty)) 1 v 0xFF 0,
    need (paddingZero b 0 (parts.mergeSort (fun x y => x.1 ≤ y.1))) 1 v 0xFF 0]

/-- CONTENT_DIGEST recomputed, R39. -/
def digest (b : List Byte) : List Byte :=
  sha3_512 (slice b 0 0x20 ++ slice b (field b 0x18 8) (32 * field b 6 2)
    ++ ((byOffset (sections b)).filter (fun x => x.ty ≠ 0xFF)).flatMap (body b))

/-- The digest that the header holds. -/
def stated (b : List Byte) : List Byte := slice b 0x20 64

/-- The signer's KEY_ID; 32 zero bytes of an unsigned bundle (R40, R480). -/
def signer (b : List Byte) : List Byte := if signed b then slice (the b 0xFF) 4 32 else List.replicate 32 0

/-- Stage 2: the digest, then the signature under the policy (R47, R477). A SIGNATURE section whose reserved bytes are not 0, or
whose SIZE is not the 4,663 bytes of R40, is no signature: SIGNATURE_INVALID (DESIGN CHOICE, log entry 81). -/
def stage2 (policy : Nat) (keys : List (List Byte × Nat × List Byte)) (b : List Byte) : Option Refused :=
  let s := the b 0xFF
  let ok := if !signed b then policy = 0
    else field s 0 2 = 0x87 && field s 2 2 = 0 && s.length = 4663
      && (match keys.find? (fun k => k.1 = slice s 4 32) with
        | some k => bit k.2.1 3 && Config.verify k.2.2 (slice b 0 128) (slice s 36 4627)
        | none => false)
  first [need (digest b = stated b) 2 Code.signatureInvalid 0xFF 0,
    need ok 2 Code.signatureInvalid (theIx b 0xFF) 0]

/-! ## Records, R41 -/

/-- The records of a section, and whether the framing holds to its end; where it does not, the last record is the one that
breaks it, with no value. -/
def records : Nat → List Byte → List Record × Bool
  | 0, b => ([], b.isEmpty)
  | n + 1, b =>
    if b.isEmpty then ([], true)
    else
      let len := field b 4 4
      let pad := (8 - len % 8) % 8
      if b.length < 8 + len + pad || field b 2 2 ≠ 0 || !zeros (slice b (8 + len) pad) then ([⟨field b 0 2, []⟩], false)
      else
        let r := records n (b.drop (8 + len + pad))
        (⟨field b 0 2, slice b 8 len⟩ :: r.1, r.2)

def recordsOf (b : List Byte) (ty : Nat) : List Record × Bool := let x := the b ty; records (x.length / 8 + 1) x

def manifest (b : List Byte) : List Record := (recordsOf b 1).1

/-- The tag of the record that breaks the framing of a list of records. -/
def lastTag (rs : List Record) : Nat := (rs.getLast?.map (·.tag)).getD 0

/-- The value of a manifest record. -/
def rec? (b : List Byte) (tag : Nat) : Option (List Byte) := ((manifest b).find? (fun r => r.tag = tag)).map (·.value)

/-- Stage 3: PTO_VERSION, then unknown required tags (R41, R56, R59). -/
def stage3 (g3 : Bool) (b : List Byte) : Option Refused :=
  let major := field b 0x0A 2
  let minor := field b 8 2
  let v := Code.versionUnsupported
  first [need ((major = 2 && decide (minor ≤ 4)) || (major = 3 && decide (minor ≤ 2) && !g3)) 3 v 0xFF 0,
    need ((manifest b).all (fun r => (1 ≤ r.tag && r.tag ≤ 0x0E) || bit r.tag 15)) 3 v (theIx b 1) 0]

/-- The little-endian words of `w` bytes of a value. -/
def words (w : Nat) (v : List Byte) : List Nat := (List.range (v.length / w)).map (fun i => field v (w * i) w)

/-- The chunks of `w` bytes of a value. -/
def chunks (w : Nat) (v : List Byte) : List (List Byte) := (List.range (v.length / w)).map (fun i => slice v (w * i) w)

def jobId (b : List Byte) : Nat := field ((rec? b 1).getD []) 0 8
def members (b : List Byte) : List Nat := words 2 ((rec? b 2).getD [])
def anchor (b : List Byte) : Nat := field ((rec? b 3).getD []) 0 2
def roles (b : List Byte) : List (Nat × BitVec 256) :=
  (chunks 34 ((rec? b 4).getD [])).map (fun c => (field c 0 2, BitVec.ofNat 256 (leNat (c.drop 2))))
def coupling (b : List Byte) : Option Nat := (rec? b 5).map (fun v => field v 0 1)
def fields (b : List Byte) : List Nat := words 4 ((rec? b 6).getD [])
def exchange (b : List Byte) : List Nat :=
  let l := words 2 ((rec? b 7).getD [])
  if l.getD 6 0 = 0xFFFF then l.take 6 else l
def tree (b : List Byte) : List (Nat × Nat) := (chunks 4 ((rec? b 8).getD [])).map (fun c => (field c 0 2, field c 2 2))
def reproducible (b : List Byte) : Bool := field ((rec? b 0x0D).getD []) 0 1 = 1
def genMix (b : List Byte) : Bool := field ((rec? b 0x0E).getD []) 0 1 = 1

/-! ## Resources, R43 -/

/-- The width of a KIND. -/
def kindWidth (k : Nat) : Option Nat :=
  match k with
  | 1 => some 8 | 2 => some 8 | 3 => some 32 | 4 => some 1 | 5 => some 1 | 6 => some 128 | 7 => some 32 | 8 => some 1
  | 9 => some 8 | _ => none

def resourceValue (b : List Byte) (k : Nat) : List Byte := (((recordsOf b 3).1.find? (fun r => r.tag = k)).map (·.value)).getD []

/-- Round a byte count up to the 2 MiB unit of HBM. -/
def unit2M (n : Nat) : Nat := roundUp n 0x200000

def resources (b : List Byte) : Resources :=
  let num (k : Nat) : Nat := leNat (resourceValue b k)
  { solvers := BitVec.ofNat 64 (num 1), localMem := num 2
    hbm := (List.range 4).map (fun d => unit2M (field (resourceValue b 3) (8 * d) 8))
    tileRegs := num 4, objects := num 5, services := BitVec.ofNat 1024 (num 6), channels := BitVec.ofNat 256 (num 7)
    engines := num 8, features := BitVec.ofNat 64 (num 9) }

def kindOk (r : Record) : Bool :=
  kindWidth r.tag = some r.value.length
    && (match r.tag with
      | 2 => decide (leNat r.value ≤ 0x200000)
      | 3 => (words 8 r.value).all (fun n => n ≤ stackBytes)
      | 4 => decide (1 ≤ leNat r.value) && decide (leNat r.value ≤ 64)
      | 5 => decide (leNat r.value ≤ 64)
      | 8 => decide (leNat r.value ≤ 2)
      | _ => true)

def checkResources (b : List Byte) : Option Refused :=
  let rs := recordsOf b 3
  let sec := theIx b 3
  let v := Code.outOfRange
  first [
    first (rs.1.map (fun r => need (kindOk r && (rs.1.filter (fun q => q.tag = r.tag)).length = 1) 4 v sec r.tag)),
    need rs.2 4 v sec (lastTag rs.1),
    need (rs.1.any (fun r => r.tag = 4)) 4 v sec 4]

/-! ## Layout, R44 -/

def tensorOf (t : List Byte) : Tensor :=
  { id := field t 0 4, fmt := field t 4 1, rank := field t 5 1, access := field t 6 1, region := field t 7 1
    dims := words 8 (slice t 8 48), placeKind := field t 0x38 1, stack := field t 0x39 1, splitDim := field t 0x3A 1
    splitCount := field t 0x3B 1, scalePlace := field t 0x3C 1, scaleStack := field t 0x3D 1
    coarse := BitVec.ofNat 32 (field t 0x40 4), pieces := [] }

def layout (b : List Byte) : List Tensor := (chunks 128 (the b 4)).map tensorOf

def dim (t : Tensor) (i : Nat) : Nat := t.dims.getD i 1
def outer (t : Tensor) : Nat := (t.dims.take 4).foldl (· * ·) 1
/-- Number of elements. -/
def elements (t : Tensor) : Nat := t.dims.foldl (· * ·) 1
/-- Blocks of rows of one outer index: the rows of a 1-D block format, the block rows of PB4_SQ (R66). -/
def scaleRows (t : Tensor) : Nat :=
  if (Fmt.ofCode t.fmt).square then (Fmt.ofCode t.fmt).paddedRows (dim t 4) / 16 else dim t 4
/-- Bytes of the element plane and of the scale plane, R65 and R66. -/
def elemBytes (t : Tensor) : Nat :=
  outer t * (Fmt.ofCode t.fmt).paddedRows (dim t 4) * (Fmt.ofCode t.fmt).rowBytes (dim t 5)
def scaleBytes (t : Tensor) : Nat := outer t * (Fmt.ofCode t.fmt).scaleCount (dim t 4) (dim t 5)
def tensorBytes (t : Tensor) : Nat := elemBytes t + scaleBytes t

/-- Placement of R44: whole, or split into 2 or 4 pieces of whole blocks. -/
def placeOk (t : Tensor) : Bool :=
  let f := Fmt.ofCode t.fmt
  let piece := dim t t.splitDim / t.splitCount
  decide (t.stack ≤ 3)
    && (if t.placeKind = 0 then t.splitDim = 0 && t.splitCount = 0
      else t.placeKind = 1 && decide (6 - t.rank ≤ t.splitDim) && decide (t.splitDim ≤ 5)
        && (t.splitCount = 2 || t.splitCount = 4) && decide (t.stack + t.splitCount ≤ 4)
        && dim t t.splitDim % t.splitCount = 0
        && (if f.square then decide (t.splitDim < 4) || piece % 16 = 0
          else f.block = 0 || decide (t.splitDim < 5) || piece % f.block = 0))
    && (if t.scalePlace = 0 then t.scaleStack = 0 else t.scalePlace = 1 && f.scaled && decide (t.scaleStack ≤ 3))

def tensorOk (r : List Byte) : Bool :=
  let t := tensorOf r
  t.id ≠ 0 && Fmt.valid t.fmt && decide (1 ≤ t.rank) && decide (t.rank ≤ 6) && decide (t.access ≤ 1)
    && (t.region = 1 || t.region = 2) && (t.dims.take (6 - t.rank)).all (fun n => n = 1) && t.dims.all (fun n => 1 ≤ n)
    && placeOk t && field r 0x3E 2 = 0
    && (if (Fmt.ofCode t.fmt).hasCoarse then Conv.coarseOk t.coarse.toNat else t.coarse = 0) && zeros (slice r 0x44 60)

def checkLayout (b : List Byte) : Option Refused :=
  let x := the b 4
  let ids := (layout b).map (·.id)
  let v := Code.outOfRange
  first [need (x.length % 128 = 0) 4 v (theIx b 4) 0,
    first ((chunks 128 x).map (fun r =>
      need (tensorOk r && ids.count (field r 0 4) = 1) 4 v (theIx b 4) (field r 0 2)))]

def tensor? (b : List Byte) (id : Nat) : Option Tensor := (layout b).find? (fun t => t.id = id)

/-! ## Seeds, R45: the model's layout is JOB_SEED, then a ROLE (U16) with 32 bytes for each override. -/

def jobSeed (b : List Byte) : List Byte := slice (the b 5) 0 32
def roleSeeds (b : List Byte) : List (Nat × List Byte) := (chunks 34 ((the b 5).drop 32)).map (fun c => (field c 0 2, c.drop 2))

/-- A SEEDS section that does not have that layout, or has two overrides of a ROLE or one of a ROLE that ROLE_MAP does not list,
is refused at stage 4 with VALUE_OUT_OF_RANGE and ITEM 0 (DESIGN CHOICE, log entry 82: R45 gives no stage, code or ITEM). -/
def checkSeeds (b : List Byte) : Option Refused :=
  let rs := (roleSeeds b).map Prod.fst
  need (decide (32 ≤ (the b 5).length) && ((the b 5).length - 32) % 34 = 0 && decide (rs.length ≤ 255) && decide rs.Nodup
    && rs.all (fun r => (roles b).any (fun e => e.1 = r))) 4 Code.outOfRange (theIx b 5) 0

/-! ## Manifest records -/

/-- A reference obeys R152 and names an object that the job holds by its declaration (R247). -/
def refHeld (b : List Byte) (r : Nat) : Bool :=
  refOk r && (if bit r 15 then (resources b).services.getLsbD (bits r 9 0)
    else (roles b).any (fun e => e.2.getLsbD (bits r 13 6)) && decide (bits r 5 0 < (resources b).objects))

/-- From a member, PARENT links reach the anchor without passing node `bar`. -/
def climbs (ms : List Nat) (tr : List (Nat × Nat)) (anchor bar : Nat) : Nat → Nat → Bool
  | 0, n => n = anchor && n ≠ bar
  | k + 1, n => n ≠ bar && (n = anchor || climbs ms tr anchor bar k ((tr.getD (ms.idxOf n) (0xFFFF, 0)).1))

/-- BROADCAST_TREE, R387. -/
def treeOk (b : List Byte) : Bool :=
  let ms := members b
  let tr := tree b
  ((rec? b 8).getD []).length = 4 * ms.length
    && (List.range ms.length).all (fun i =>
      let n := ms.getD i 0
      let e := tr.getD i (0, 0)
      if n = anchor b then e = (0xFFFF, 0xFFFF)
      else ms.contains e.1 && ms.contains e.2 && climbs ms tr (anchor b) 0xFFFF ms.length n
        && e.2 ≠ e.1 && climbs ms tr (anchor b) n ms.length e.2)

/-- LOAD_PACING, R395. -/
def pacing (v : List Byte) : Pacing :=
  { rateCap := field v 0 4, stagger := field v 4 4, waves := field v 8 2
    shards := (chunks 32 (v.drop 16)).map (fun e => ⟨field e 0 4, field e 4 2, field e 8 8, field e 0x10 8, field e 0x18 8⟩) }

def pacingOk (b v : List Byte) : Bool :=
  let p := pacing v
  decide (16 ≤ v.length) && v.length = 16 + 32 * field v 0x0A 2 && decide (field v 0x0A 2 ≤ 4096) && field v 0x0C 4 = 0
    && decide (p.stagger ≤ 2 ^ 30) && decide (1 ≤ p.waves) && decide (p.waves ≤ 13848)
    && (chunks 32 (v.drop 16)).all (fun e =>
      decide (13848 ≤ field e 4 2) && decide (field e 4 2 ≤ 16383) && field e 6 2 = 0
        && (match tensor? b (field e 0 4) with
          | some t => decide (tensorBytes t ≤ field e 0x10 8)
          | none => false))

/-- CHECKPOINT_POLICY, R398. -/
def policy (v : List Byte) : CkptPolicy :=
  ⟨field v 0 4, field v 4 2, field v 8 8, field v 0x10 8, field v 0x18 8, field v 0x20 8⟩

/-- Bytes that a generation spans. -/
def genSpan (m : Nat) (p : CkptPolicy) : Nat := 8192 + p.manifestBytes + m * p.memberBytes

def policyOk (b v : List Byte) : Bool :=
  let p := policy v
  let m := (members b).length
  let data := (layout b).filter (fun t => t.region = 1)
  let span := genSpan m p
  v.length = 40 && decide (13848 ≤ p.storage) && decide (p.storage ≤ 16383) && field v 6 2 = 0
    && p.baseA % 65536 = 0 && p.baseB % 65536 = 0 && p.manifestBytes % 4096 = 0
    && decide (64 + m * (16 + 96 * 129 + 128 * data.length) ≤ p.manifestBytes) && p.memberBytes % 65536 = 0
    && decide (0x100000 + (data.map (fun t => unit2M (tensorBytes t))).sum ≤ p.memberBytes)
    && !meet (p.baseA, span) (p.baseB, span)

/-- SPARE_POLICY, R392. -/
def spareOk (b v : List Byte) : Bool :=
  decide (4 ≤ v.length) && decide (field v 0 1 ≤ 1) && field v 1 1 = 0 && decide (field v 2 2 ≤ 1024)
    && v.length = 4 + 2 * field v 2 2 && !(field v 0 1 = 1 && field v 2 2 = 0)
    && (words 2 (v.drop 4)).all (fun n => decide (n < 13848) && !(members b).contains n)

def spares (b : List Byte) : List Nat := words 2 (((rec? b 0x0B).getD []).drop 4)

/-- A field that takes its default where it is written as 0. -/
def dflt (d v : Nat) : Nat := if v = 0 then d else v

/-- TRAINING, R152 and R153, with its defaults. -/
def training (v : List Byte) : Training :=
  let w (d v : Nat) : U32 := BitVec.ofNat 32 (dflt d v)
  { controlEn := bit (field v 2 1) 0, rotEn := bit (field v 2 1) 1, rotSize := dflt 4 (field v 3 1)
    shadowPeriod := dflt 64 (field v 4 2), demoteSteps := dflt 32 (field v 6 2), backoffMax := dflt 1024 (field v 8 2)
    promoteSteps := dflt 1 (field v 0x0A 1), nonfiniteLimit := dflt 2 (field v 0x0B 1)
    eps4Hi := w 0x3E800000 (field v 0x0C 4), eps4Lo := w 0x3E400000 (field v 0x10 4)
    eps8Hi := w 0x3D800000 (field v 0x14 4), eps8Lo := w 0x3D400000 (field v 0x18 4), rangeHi := w 0x3C800000 (field v 0x1C 4)
    doneObj := objOfRef (field v 0x20 2), decisionObj := objOfRef (field v 0x22 2), stepObj := objOfRef (field v 0x24 2)
    evalInterval := field v 0x26 2, evalRole := field v 0x28 2, evalLoss := field v 0x2C 4, evalGate := w 0x3F800000 (field v 0x30 4)
    entries := (chunks 24 (v.drop 64)).map (fun e =>
      { tensor := field e 0 4, kind := field e 4 1, weightClass := field e 5 1, initial := field e 6 1
        floor := bits (field e 7 1) 1 0, ceiling := bits (field e 7 1) 3 2, pinned := bit (field e 7 1) 4
        coarseIn := w 0x3F800000 (field e 8 4), outlierThresh := BitVec.ofNat 32 (field e 0x0C 4), outlierMax := field e 0x10 1
        saveMode := field e 0x11 1, bRound := field e 0x12 1 }) }

/-- A pair of thresholds, 0 < LO < HI ≤ 1, as FP32 codes. -/
def epsOk (lo hi : U32) : Bool := decide (0 < lo.toNat) && decide (lo.toNat < hi.toNat) && decide (hi.toNat ≤ 0x3F800000)

def entryOk (b e : List Byte) : Bool :=
  let k := field e 4 1
  let lim := field e 7 1
  let fin (v : Nat) : Bool := decide (0 < v) && decide (v < 0x7F800000)
  (tensor? b (field e 0 4)).isSome && decide (k ≤ 2) && (if k = 0 then decide (field e 5 1 ≤ 1) else field e 5 1 = 0)
    && decide (field e 6 1 ≤ 2) && bits lim 7 5 = 0 && decide (bits lim 1 0 ≤ field e 6 1)
    && decide (field e 6 1 ≤ bits lim 3 2) && decide (bits lim 3 2 ≤ 2)
    && (field e 8 4 = 0 || (k ≠ 0 && Conv.coarseOk (field e 8 4)))
    && (field e 0x0C 4 = 0 || (k = 1 && fin (field e 0x0C 4)))
    && decide (field e 0x10 1 ≤ 8) && (decide (field e 0x10 1 ≠ 0) == decide (field e 0x0C 4 ≠ 0))
    && (if k = 1 then decide (field e 0x11 1 ≤ 4) else field e 0x11 1 = 0)
    && (if k = 2 then decide (field e 0x12 1 ≤ 1) else field e 0x12 1 = 0) && zeros (slice e 0x13 5)

/-- The checks of R154, stage 4. -/
def trainingOk (b v : List Byte) : Bool :=
  let t := training v
  let n := field v 0 2
  let feat := (resources b).features
  let pow2 := (List.range 13).any (fun i => t.shadowPeriod = 2 ^ i)
  let es := chunks 24 (v.drop 64)
  decide (64 ≤ v.length) && v.length = 64 + 24 * n && decide (1 ≤ n) && decide (n ≤ 2048) && decide (field v 2 1 < 4)
    && (!t.rotEn || (decide (1 ≤ t.rotSize) && decide (t.rotSize ≤ 4))) && (pow2 || t.shadowPeriod = 0xFFFF)
    && decide (t.demoteSteps ≤ 4096) && decide (t.demoteSteps ≤ t.backoffMax) && decide (t.promoteSteps ≤ 16)
    && decide (t.nonfiniteLimit ≤ 16) && epsOk t.eps4Lo t.eps4Hi && epsOk t.eps8Lo t.eps8Hi
    && decide (t.rangeHi.toNat ≤ 0x3F800000)
    && refHeld b (field v 0x20 2) && refHeld b (field v 0x22 2) && bit (field v 0x22 2) 15 && refHeld b (field v 0x24 2)
    && (t.evalRole = 0 || (roles b).any (fun r => r.1 = t.evalRole)) && field v 0x2A 2 = 0
    && (t.evalLoss = 0 || ((tensor? b t.evalLoss).map (·.fmt)) = some 2)
    && decide (0x3F800000 ≤ t.evalGate.toNat) && decide (t.evalGate.toNat < 0x7F800000) && zeros (slice v 0x34 12)
    && es.all (entryOk b)
    && ((coupling b).isNone || field v 0x24 2 = (exchange b).getD 6 0xFFFF)
    && (if t.controlEn then feat.getLsbD 1 && feat.getLsbD 2
      else !t.entries.any (fun e => e.initial = 0) || feat.getLsbD 2)

/-- The job has a step object, R376. -/
def hasStep (b : List Byte) : Bool := (rec? b 0x0C).isSome || (coupling b).isSome

/-- The range checks of one manifest record. -/
def recordOk (b : List Byte) (r : Record) : Bool :=
  let v := r.value
  let ms := members b
  match r.tag with
  | 0x01 => v.length = 8 && leNat v ≠ 0
  | 0x02 => v.length % 2 = 0 && decide (1 ≤ ms.length) && decide (ms.length ≤ 13848) && ms.all isPackageNode && decide ms.Nodup
  | 0x03 => v.length = 2 && ms.contains (leNat v)
  | 0x04 => v.length % 34 = 0 && (roles b).all (fun e => 1 ≤ e.1 && e.1 ≤ 255) && decide (((roles b).map Prod.fst).Nodup)
  | 0x05 => v.length = 1 && decide (leNat v ≤ 1)
  | 0x06 => v.length = 32
  | 0x07 => (v.length = 14 || v.length = 12) && (exchange b).length = (if (rec? b 0x0C).isSome then 7 else 6)
    && (exchange b).all (refHeld b)
  | 0x08 => treeOk b
  | 0x09 => pacingOk b v
  | 0x0A => policyOk b v
  | 0x0B => spareOk b v
  | 0x0C => trainingOk b v
  | 0x0D => v.length = 1 && decide (leNat v ≤ 1)
  | 0x0E => v.length = 1 && decide (leNat v ≤ 1)
  | _ => true
where isPackageNode (n : Nat) : Bool := n < 13848

/-- R42: no core in two roles, and one program for each role. -/
def rolesOk (b : List Byte) : Bool :=
  let rs := roles b
  decide (rs.Pairwise (fun x y => x.2 &&& y.2 = 0))
    && rs.all (fun r => (ofType b 2).any (fun s => s.role = r.1)) && (ofType b 2).all (fun s => rs.any (fun r => r.1 = s.role))

/-- Stage 4, but for the package's own state. -/
def stage4 (b : List Byte) : Option Refused :=
  let v := Code.outOfRange
  let sec := theIx b 1
  let rs := recordsOf b 1
  let has (t : Nat) : Bool := (rec? b t).isSome
  first [
    first (rs.1.map (fun r => need ((rs.1.filter (fun q => q.tag = r.tag)).length = 1 && decide (r.value.length ≤ 16777216)) 4 v sec r.tag)),
    need rs.2 4 v sec (lastTag rs.1),
    first ([1, 2, 3, 4].map (fun t => need (has t) 4 v sec t)),
    first ([5, 6, 7].map (fun t => need (has t = (has 5 || has 6 || has 7)) 4 v sec t)),
    need (rolesOk b) 4 v sec 4,
    checkResources b, checkLayout b, checkSeeds b,
    first ((List.range' 1 14).flatMap (fun t => (rs.1.filter (fun r => r.tag = t)).map (fun r => need (recordOk b r) 4 v sec t))),
    need ((members b).length = 1 || has 8) 4 v sec 8,
    need (!has 0x0A || hasStep b) 4 Code.stateConflict sec 0x0A]

/-! ## Stage 5 -/

/-- Two field buffers of one name: like shapes, formats and sizes; a converted copy is like its source in its number of elements
alone (DESIGN CHOICE, log entry 84: R47 names FIELD_BUFFERS at stage 5 and does not say what consistent means). -/
def sameBuffer (b : List Byte) (x y : Nat) (like : Bool) : Bool :=
  match tensor? b x, tensor? b y with
  | some s, some t => elements s = elements t && (!like || (s.fmt = t.fmt && s.dims = t.dims))
  | _, _ => false

/-- Three tensors W, X and dY of matching shapes (R146): W is K × N, X is M × K and dY is M × N in the two innermost dimensions. -/
def productShapes (b : List Byte) (ids : List Nat) : Bool :=
  match ids.map (tensor? b) with
  | [some w, some x, some y] => dim w 4 = dim x 5 && dim w 5 = dim y 5 && dim x 4 = dim y 4
  | _ => false

/-- The entries of the TRAINING record; none without the record. -/
def trainEntries (b : List Byte) : List TrainEntry := ((rec? b 0x0C).map (fun v => (training v).entries)).getD []

/-- A controlled product names a weight, an activation and a gradient of matching shapes, and each has exactly one entry of its
KIND (R146, R154). `p` gives its kind and its three TENSOR_IDs. A bundle without the record has no entry at all. -/
def productOk (b : List Byte) (p : Nat × List Nat) : Bool :=
  decide (p.1 ≤ 2) && p.2.length = 3
    && (SMap.number 0 p.2).all (fun o =>
      ((trainEntries b).filter (fun e => e.tensor = o.2)).map (·.kind) = [o.1])
    && productShapes b p.2

/-- Stage 5 for the controlled products of the programs; no tensor has two entries (R154). -/
def checkProducts (b : List Byte) (products : List (Nat × List Nat)) : Option Refused :=
  need (products.all (productOk b) && decide (((trainEntries b).map (·.tensor)).Nodup)) 5 Code.shapeMismatch (theIx b 1) 0x0C

/-- A controlled product by the numbers of its entries. -/
def productOf (b : List Byte) (p : Nat × List Nat) : Product :=
  ⟨p.1, p.2.map (fun id => (trainEntries b).findIdx (fun e => e.tensor = id))⟩

/-- Stage 5, but for what the PTO programs say: FIELD_BUFFERS and INITIAL_DATA against LAYOUT. Reserved bytes of an INITIAL_DATA
section that are not 0 are refused with its size (DESIGN CHOICE, log entry 83: R46 names no refusal for them). -/
def stage5 (b : List Byte) : Option Refused :=
  let f (i : Nat) : Nat := (fields b).getD i 0
  let sm := Code.shapeMismatch
  let buf (i j : Nat) (like : Bool) : Option Refused :=
    need ((rec? b 6).isNone || sameBuffer b (f i) (f j) like) 5 sm (theIx b 1) 6
  first [buf 0 1 true, buf 2 3 true, buf 4 5 true, buf 6 7 true, buf 0 4 false, buf 2 6 false,
    first ((ofType b 6).map (fun s =>
      let d := body b s
      need (field d 4 4 = 0 && (match tensor? b (field d 0 4) with
        | some t => d.length = 8 + tensorBytes t
        | none => false)) 5 sm s.index (field d 0 2)))]

end Bundle

end Sys2Proof
end

