-- ==== Sys2Proof/Machine/Control.lean ====
section
/-! DEFINITION. The state of the control side: safety monitor (spec/18_safety_and_security.md R461 to R469), Beryl and boot
(R472 to R480; spec/17_power_clocks_and_bringup.md R450 to R453), power policy (R447), flash (R434, R435, R450) and DAP
(spec/16_object_dictionary.md R420 to R432). -/

namespace Sys2Proof

/-- The safety monitor. -/
structure Monitor where
  /-- DETECTIONS of classes 1 to 11, R461. -/
  detections : List U32 := List.replicate 11 0
  /-- PAIR_STATE, failed restarts in a row and heartbeats missed, per lockstep pair (R466). -/
  pairState : List Nat := [1, 1]
  pairFails : List Nat := [0, 0]
  pairMissed : List Nat := [0, 0]
  /-- A Burist heartbeat lies within the last 2^22 safety-pair cycles, R464 and R467. -/
  buristBeat : Bool := true
  /-- A class 8 condition persists; the 25 MHz reference has been lost, R462. -/
  clockFault : Bool := false
  refLost : Bool := false
  /-- SEQ of the last safety message sent to, and accepted from, each node (R469). -/
  txSeq : SMap U32 := []
  rxSeq : SMap U32 := []
  deriving DecidableEq, Repr

/-- An entry of KEY_TABLE, R475. -/
structure KeyEntry where
  keyId : List Byte
  use : Nat
  publicKey : List Byte
  deriving DecidableEq, Repr

/-- What the substrate flash and the one-time-programmable store keep through PKG_RESET_N, R434, R450, R474, R476. -/
structure Flash where
  node : Nat := 0xFFFF
  keys : List KeyEntry := []
  changes : U32 := 0
  floors : List U32 := List.replicate 8 0
  advances : Nat := 64
  /-- Units disabled at run time (R434) and the boot image, R450 and R451. -/
  disabled : List UnitRef := []
  image : List Component := []
  deriving DecidableEq, Repr

/-- Boot and attestation, R451 to R453, R473, R480. -/
structure Boot where
  /-- 0x1001: Burist and the seven die-firmware versions in the order of FLOORS. -/
  versions : List U32 := List.replicate 8 0
  measurement : List Byte := List.replicate 64 0
  mlog : List (List Byte) := []
  /-- A bundle component of the boot image, R452. -/
  bundle : Option (List Byte) := none
  /-- The boot bundle has been submitted, R455. -/
  submitted : Bool := false
  report : List Byte := []
  deriving DecidableEq, Repr

/-- The staging object, R430 and R452: bytes staged, by offset. -/
structure Staging where
  data : SMap Byte := []
  /-- HBM that the staging takes on each Slate stack. -/
  share : List Nat := [0, 0, 0, 0]
  /-- The last LOAD read it. -/
  reading : Bool := false
  deriving DecidableEq, Repr

/-- Power policy values that are not plain words, R447 and R448. -/
structure Power where
  slateStep : List Nat := [16, 16, 16, 16]
  tj : List U16 := List.replicate 7 0
  lastTrip : List Byte := List.replicate 16 0
  /-- The last reading: input voltage outside 52 to 72 V; peak condition of R448. -/
  vinBand : Bool := false
  peak : Bool := false
  /-- Cluster steps of R446 still to make: cluster and whether it powers up. -/
  ramps : List (Nat × Bool) := []
  clusterOn : SMap Bool := []
  deriving DecidableEq, Repr

/-- A subscription, R432. -/
structure Subscription where
  id : Nat
  classMask : Nat
  slotMask : Nat
  pkg : Bool
  /-- SEQ of the next record to consider; records sent and not acknowledged; matching records lost. -/
  next : Nat
  sent : List Nat
  lost : Nat
  deriving DecidableEq, Repr

/-- The request that a recovery test answers, R117 and R420: session, client and frame. -/
structure Origin where
  sid : Nat
  who : Client
  frame : DapFrame
  deriving DecidableEq, Repr

/-- A DAP session, R420 to R423. -/
structure Session where
  sid : Nat
  role : Role
  transport : Transport
  node : Nat
  keyId : List Byte
  clientKey : List Byte
  /-- False between ACCEPT and CONFIRM. -/
  isOpen : Bool
  transcript : List Byte
  signature : List Byte
  keyIn : List Byte
  keyOut : List Byte
  seqIn : Nat
  seqOut : Nat
  /-- The last 64 responses, newest first: REQUEST_ID and frame. -/
  kept : List (U32 × DapFrame)
  subs : List Subscription
  deriving DecidableEq, Repr

/-- DAP as a whole. -/
structure Dap where
  sessions : List Session := []
  nextSid : Nat := 1
  /-- Next slots of the H2P and P2H rings and P2H slots with VALID = 1 (R424). -/
  h2p : Nat := 0
  p2h : Nat := 0
  p2hValid : List Nat := []
  /-- (TARGET_NODE, SESSION_ID) of sessions a bridge forwards, R425. -/
  forwarded : List (Nat × Nat) := []
  /-- Frames dropped because they break the table of R420. -/
  dropped : Nat := 0
  deriving DecidableEq, Repr

/-- The command queue's entries, R427 and R428: the command with its writer. -/
structure Queued where
  cmd : Nat
  who : Client
  block : CommandBlock
  store : List Extent
  deriving DecidableEq, Repr

end Sys2Proof
end

