-- ==== Sys2Proof/Machine/SolverMath.lean ====
section
/-! DEFINITION. The arithmetic of a solver unit: descriptors, assembly, scaling, factorisation and refinement.
spec/07_solver_units.md R184 to R197, R202, R204, R502, R503. Vectors and matrices hold FP64 or FP32 codes. -/

namespace Sys2Proof

/-- A solve descriptor, R184. -/
structure SolveDesc where
  version : Nat
  structure_ : Nat
  gang : Nat
  flags : Nat
  n : Nat
  paramA : Nat
  paramB : Nat
  nrhs : Nat
  fillPolicy : Nat
  shift : Nat
  blockLen : Nat
  deadline : Nat
  maxIter : Nat
  tauExp : Nat
  refactCore : Nat
  reserved1 : Nat
  startObj : Nat
  signalObj : Nat
  startValue : Nat
  reserved2 : Nat
  rtol : Nat
  accept : Nat
  program : Nat
  xAddr : Nat
  prevAddr : Nat
  fillAddr : Nat
  completion : Nat
  refactAddr : Nat
  seq : Nat
  reserved3 : Nat
  deriving DecidableEq, Repr

namespace SolveDesc

/-- Read the 128 bytes of a descriptor. -/
def ofBytes (b : List Byte) : SolveDesc :=
  { version := field b 0 1, structure_ := field b 1 1, gang := field b 2 1, flags := field b 3 1, n := field b 4 4,
    paramA := field b 8 2, paramB := field b 0x0A 2, nrhs := field b 0x0C 1, fillPolicy := field b 0x0D 1,
    shift := field b 0x0E 2, blockLen := field b 0x10 4, deadline := field b 0x14 4, maxIter := field b 0x18 1,
    tauExp := field b 0x19 1, refactCore := field b 0x1A 1, reserved1 := field b 0x1B 1, startObj := field b 0x1C 2,
    signalObj := field b 0x1E 2, startValue := field b 0x20 4, reserved2 := field b 0x24 4, rtol := field b 0x28 8,
    accept := field b 0x30 8, program := field b 0x38 8, xAddr := field b 0x40 8, prevAddr := field b 0x48 8,
    fillAddr := field b 0x50 8, completion := field b 0x58 8, refactAddr := field b 0x60 8, seq := field b 0x68 8,
    reserved3 := field b 0x70 16 }

def refactEn (d : SolveDesc) : Bool := bit d.flags 0
def prevValid (d : SolveDesc) : Bool := bit d.flags 1
def paired (d : SolveDesc) : Bool := bit d.flags 2
def symmetric (d : SolveDesc) : Bool := d.structure_ = 2 || d.structure_ = 4 || d.structure_ = 5
def iterLimit (d : SolveDesc) : Nat := if d.maxIter = 0 then 8 else d.maxIter
/-- τ of R184. -/
def tau (d : SolveDesc) : FVal := FVal.pow2 (-((if d.tauExp = 0 then 12 else d.tauExp : Nat) : Int))

/-- Stored elements S, R191. -/
def stored (d : SolveDesc) : Nat :=
  match d.structure_ with
  | 3 => d.n * (2 * d.paramA + d.paramB + 1)
  | 4 => d.n * (d.paramA + 1)
  | 5 => 2 * d.paramB * (roundUp d.paramA 32) ^ 2
  | _ => d.n * d.n / max d.gang 1

/-- The size limits of R191. -/
def sizeOk (d : SolveDesc) : Bool :=
  match d.structure_ with
  | 3 => d.paramA ≤ 256 && d.paramB ≤ 256 && d.stored ≤ 1048576
  | 4 => d.paramA ≤ 256 && d.paramB = d.paramA && d.stored ≤ 1048576
  | 5 => 1 ≤ d.paramA && d.paramA ≤ 128 && 2 ≤ d.paramB && d.paramB ≤ 1024 && d.n = d.paramA * d.paramB
      && d.stored ≤ 1048576
  | _ => d.paramA = 0 && d.paramB = 0
      && ((d.gang = 1 && d.n ≤ 1024) || (d.gang = 2 && d.n ≤ 1408) || (d.gang = 4 && d.n ≤ 2048))

/-- An object reference of R152, or 0xFFFF. -/
def refOk (r : Nat) : Bool := r = 0xFFFF || (if bit r 15 then bits r 14 10 = 0 else !bit r 14)

def aligned (a k : Nat) : Bool := a % k = 0 && a / 2 ^ 62 = 0

/-- Addresses of a descriptor use ACCESS_CLASS 00 (R184). -/
def classesOk (d : SolveDesc) : Bool :=
  [d.program, d.xAddr, d.completion, if d.prevValid then d.prevAddr else 0, d.fillAddr, d.refactAddr].all (fun a => bits a 63 62 = 0)

/-- The field ranges of R184, R185, R191 and, for DESC_VERSION 1, R212: the second row of R182 but for addresses. -/
def fieldsOk (d : SolveDesc) : Bool :=
  let v1 := d.version = 1
  (d.version = 1 || d.version = 2) && d.reserved1 = 0 && d.reserved2 = 0 && d.reserved3 = 0 && d.flags / 8 = 0
  && 1 ≤ d.structure_ && d.structure_ ≤ (if v1 then 4 else 5)
  && (d.gang = 1 || ((d.gang = 2 || d.gang = 4) && d.structure_ ≤ 2 && !v1))
  && 1 ≤ d.n && d.n ≤ 16384 && 1 ≤ d.nrhs && d.nrhs ≤ (if v1 then 4 else 8) && d.n * d.nrhs ≤ 16384
  && d.fillPolicy ≤ 2 && (decide (d.fillAddr ≠ 0) == decide (d.fillPolicy = 2))
  && 1 ≤ d.blockLen && d.blockLen ≤ d.n && d.n % d.blockLen = 0 && d.shift ≤ d.n / d.blockLen
  && d.maxIter ≤ 32 && (d.tauExp = 0 || (!v1 && 4 ≤ d.tauExp && d.tauExp ≤ 24))
  && (d.refactCore ≤ 3 || d.refactCore = 0xFF)
  && (!d.refactEn || (d.refactCore ≠ 0xFF && !v1)) && (d.refactEn || d.refactAddr = 0)
  && (!d.paired || (d.gang = 1 && !v1))
  && FVal.le (FVal.pow2 (-52)) (f64 d.rtol) && FVal.le (f64 d.rtol) (f64 d.accept) && FVal.le (f64 d.accept) (FVal.pow2 (-1))
  && refOk d.startObj && refOk d.signalObj && d.classesOk
  && aligned d.program 32 && aligned d.xAddr 8 && aligned d.prevAddr 8 && aligned d.fillAddr 8 && aligned d.refactAddr 8
  && d.sizeOk

end SolveDesc

namespace Solve

/-- A code of FP64 as a value, and back. -/
def val (c : U64) : FVal := f64 c.toNat
def cod (v : FVal) : U64 := BitVec.ofNat 64 (FVal.code fp64 v)

/-! ## Patterns, R188 -/

/-- Whether (i, j) lies in the pattern of A. -/
def inPattern (d : SolveDesc) (i j : Nat) : Bool :=
  i < d.n && j < d.n &&
  match d.structure_ with
  | 3 => i ≤ j + d.paramA && j ≤ i + d.paramB
  | 4 => i ≤ j + d.paramA && j ≤ i + d.paramA
  | 5 => i / d.paramA ≤ j / d.paramA + 1 && j / d.paramA ≤ i / d.paramA + 1
  | _ => true

/-- The last row that column j of the elimination reaches. -/
def lowReach (d : SolveDesc) (j : Nat) : Nat :=
  match d.structure_ with
  | 3 => min (d.n - 1) (j + d.paramA)
  | 4 => min (d.n - 1) (j + d.paramA)
  | 5 => min (d.n - 1) ((j / d.paramA + 2) * d.paramA - 1)
  | _ => d.n - 1

/-- The last column that row j of the factor reaches; the upper band of structure 3 grows to KL + KU (R190). -/
def upReach (d : SolveDesc) (j : Nat) : Nat :=
  if d.structure_ = 3 then min (d.n - 1) (j + d.paramA + d.paramB) else lowReach d j

/-- The key an entry is stored under: symmetric structures keep the lower triangle (R187). -/
def key (d : SolveDesc) (i j : Nat) : Nat := if d.symmetric then max i j * d.n + min i j else i * d.n + j

/-! ## Assembly, R186 to R188, R502 -/

/-- An assembly instruction, R186. -/
structure Asm where
  op : Nat
  fmt : Nat
  target : Nat
  aflags : Nat
  rows : Nat
  cols : Nat
  row0 : Nat
  col0 : Nat
  src : Nat
  aux : Nat
  deriving DecidableEq, Repr

def Asm.ofBytes (b : List Byte) : Asm :=
  { op := field b 0 1, fmt := field b 1 1, target := field b 2 1, aflags := field b 3 1, rows := field b 4 2,
    cols := field b 6 2, row0 := field b 8 4, col0 := field b 12 4, src := field b 16 8, aux := field b 24 8 }

/-- How assembly fails: the code that ends the descriptor, and the offset of the poisoned byte that a read met. -/
abbrev AsmFail := Nat × Option Nat

/-- Bytes of a global address as the unit reads them. -/
abbrev Reader := Nat → Nat → Except AsmFail (List Byte)

/-- The program from `addr` on, through END; 1 to 256 instructions. -/
def fetchProgram (read : Reader) : Nat → Nat → Except AsmFail (List Asm)
  | 0, _ => .error (0x0804, none)
  | k + 1, addr =>
    match read addr 32 with
    | .error c => .error c
    | .ok b =>
      let i := Asm.ofBytes b
      if i.op = 0x0F then .ok [i]
      else match fetchProgram read k (addr + 32) with
        | .error c => .error c
        | .ok t => .ok (i :: t)

/-- The width in bytes of a source format of R186. -/
def fmtBytes (f : Nat) : Nat := match f with | 1 => 8 | 2 => 4 | _ => 2

/-- Target positions (row, column) of an instruction, with the transposed ones of SYM after each; TARGET 1 positions are
(row, right-hand side). SCATTER_ADD takes its positions from its list. -/
def cells (i : Asm) : List (Nat × Nat) :=
  if i.target = 1 then (List.range i.rows).map (fun r => (i.row0 + r, i.cols))
  else if i.op = 5 then (List.range i.rows).map (fun r => (i.row0 + r, i.row0 + r))
  else (List.range i.rows).flatMap (fun r => (List.range i.cols).map (fun c => (i.row0 + r, i.col0 + c)))

def sym (i : Asm) : Bool := bit i.aflags 0 && (i.op = 2 || i.op = 3)
def negated (i : Asm) : Bool := bit i.aflags 1

/-- The index list of a SCATTER_ADD. -/
def pairs (b : List Byte) (n : Nat) : List (Nat × Nat) :=
  (List.range n).map (fun k => (field b (8 * k) 4, field b (8 * k + 4) 4))

/-- Whether a position lies in the pattern of the instruction's target. -/
def posOk (d : SolveDesc) (i : Asm) (p : Nat × Nat) : Bool :=
  if i.target = 1 then p.1 < d.n && p.2 < d.nrhs else inPattern d p.1 p.2

/-- The static checks of R188 and R502 on one instruction (not REPEAT or END). -/
def asmOk (d : SolveDesc) (i : Asm) : Bool :=
  1 ≤ i.op && i.op ≤ 7 && i.target ≤ 1 && i.aflags / 4 = 0
  && (i.aux = 0 || i.op = 4 || i.op = 5 || i.op = 7)
  && (i.op = 1 || i.op = 5 || i.op = 7 || (1 ≤ i.fmt && i.fmt ≤ 4))
  && (i.target = 0 || !bit i.aflags 0)
  && (i.op ≠ 5 || i.target = 0) && (i.op ≠ 6 || i.target = 1)
  && (i.op = 1 || i.op = 4 ||
      (1 ≤ i.rows && (i.target = 1 || i.op = 5 || 1 ≤ i.cols) && (cells i).all (posOk d i)
        && (!sym i || ((i.row0 + i.rows ≤ i.col0 || i.col0 + i.cols ≤ i.row0)
            && (cells i).all (fun p => posOk d i (p.2, p.1))))))

/-- The instructions that a program runs, REPEAT unrolled; an illegal program gives a code (R188). -/
def unroll (d : SolveDesc) : List Asm → Except AsmFail (List Asm)
  | [] => .error (0x0804, none)
  | [e] => if e.op = 0x0F && e.target = 0 && e.aflags / 4 = 0 && e.aux = 0 then .ok [] else .error (0x0804, none)
  | i :: j :: t =>
    if i.op = 0x08 then
      if 1 ≤ i.rows && i.rows ≤ 4096 && i.target = 0 && i.aflags / 4 = 0 && i.aux = 0 && j.op ≠ 0x08 && j.op ≠ 0x0F then
        let run := (List.range i.rows).map (fun k =>
          { j with row0 := j.row0 + k * i.row0, col0 := j.col0 + k * i.row0, src := (j.src + k * i.src) % 2 ^ 64 })
        if run.all (asmOk d) then
          match unroll d t with
          | .error c => .error c
          | .ok r => .ok (run ++ r)
        else .error (0x0804, none)
      else .error (0x0804, none)
    else if asmOk d i then
      match unroll d (j :: t) with
      | .error c => .error c
      | .ok r => .ok (i :: r)
    else .error (0x0804, none)

/-- The matrix store and the right-hand sides under assembly. -/
structure Store where
  a : SMap U64
  b : SMap U64
  deriving DecidableEq, Repr

def getA (d : SolveDesc) (s : SMap U64) (i j : Nat) : FVal := val (SMap.get 0 s (key d i j))

/-- Combine a value into a position: add, write or multiply. -/
def combine (op : Nat) (old v : FVal) : FVal :=
  match op with
  | 3 => v
  | 7 => FVal.mulR fp64 old v
  | _ => FVal.addR fp64 old v

def putCell (d : SolveDesc) (i : Asm) (s : Store) (p : Nat × Nat) (v : FVal) : Store :=
  if i.target = 1 then
    let k := d.n * p.2 + p.1
    { s with b := SMap.set 0 s.b k (cod (combine i.op (val (SMap.get 0 s.b k)) v)) }
  else
    let k := key d p.1 p.2
    { s with a := SMap.set 0 s.a k (cod (combine i.op (val (SMap.get 0 s.a k)) v)) }

/-- Run one instruction. -/
def runAsm (d : SolveDesc) (read : Reader) (s : Store) (i : Asm) : Except AsmFail Store :=
  let srcVal (b : List Byte) (k : Nat) : FVal :=
    let w := fmtBytes i.fmt
    let v := (Fmt.ofCode i.fmt)
    let x := elemValue v (field b (w * k) w)
    if negated i then x.neg else x
  match i.op with
  | 1 => .ok (if i.target = 1 then { s with b := [] } else { s with a := [] })
  | 5 => .ok ((cells i).foldl (fun s p => putCell d i s p (f64 i.aux)) s)
  | 7 => .ok ((cells i).foldl (fun s p => putCell d i s p (f64 i.aux)) s)
  | 4 =>
    match read i.aux (8 * i.rows) with
    | .error c => .error c
    | .ok lb =>
      let ps := pairs lb i.rows
      if ps.all (posOk d i) then
        match read i.src (fmtBytes i.fmt * i.rows) with
        | .error c => .error c
        | .ok b => .ok ((SMap.number 0 ps).foldl (fun s q => putCell d i s q.2 (srcVal b q.1)) s)
      else .error (0x0804, none)
  | _ =>
    let ps := cells i
    match read i.src (fmtBytes i.fmt * ps.length) with
    | .error c => .error c
    | .ok b =>
      let s1 := (SMap.number 0 ps).foldl (fun s q => putCell d i s q.2 (srcVal b q.1)) s
      .ok (if sym i then (SMap.number 0 ps).foldl (fun s q => putCell d i s (q.2.2, q.2.1) (srcVal b q.1)) s1 else s1)

def runProgram (d : SolveDesc) (read : Reader) : List Asm → Store → Except AsmFail Store
  | [], s => .ok s
  | i :: t, s =>
    match runAsm d read s i with
    | .error c => .error c
    | .ok s' => runProgram d read t s'

/-- The whole assembly, R186 to R188. -/
def assemble (d : SolveDesc) (read : Reader) : Except AsmFail Store :=
  match fetchProgram read 256 d.program with
  | .error c => .error c
  | .ok p =>
    match unroll d p with
    | .error c => .error c
    | .ok is => runProgram d read is ⟨[], []⟩

/-! ## Scaling, R189 -/

/-- Largest magnitude of a map of codes. -/
def maxAbs (m : SMap U64) : FVal := m.foldl (fun v p => FVal.max2 v (val p.2).abs) FVal.zero

def hasNan (m : SMap U64) : Bool := m.any (fun p => match val p.2 with | .nan => true | _ => false)

def allFinite (m : SMap U64) : Bool := m.all (fun p => (val p.2).isFinite)

/-- −log2 σ of R189: floor (log2 M), or 0. -/
def scaleExp (a : SMap U64) : Int := (maxAbs a).ilog2

/-- Multiply every entry by 2^k, exactly. -/
def shiftAll (m : SMap U64) (k : Int) : SMap U64 := m.map (fun p => (p.1, cod (FVal.mulR fp64 (val p.2) (FVal.pow2 k))))

/-- ‖A‖max and ‖A‖∞ (row sums in ascending column order). -/
def normMax (a : SMap U64) : FVal := maxAbs a

def normInf (d : SolveDesc) (a : SMap U64) : FVal :=
  (List.range d.n).foldl (fun m i =>
    FVal.max2 m ((List.range d.n).foldl (fun s j =>
      if inPattern d i j then FVal.addR fp64 s (getA d a i j).abs else s) FVal.zero)) FVal.zero

/-- θ of R192. -/
def theta (d : SolveDesc) (a : SMap U64) : FVal :=
  let m := normMax a
  FVal.round fp32 (if m.isZero then d.tau else FVal.mul d.tau m)

/-! ## Factorisation, R190, R192, R503 -/

/-- A factor: rows of values (multipliers below the diagonal), the columns that each row has a multiplier of, the row permutation,
pivots regularised, overflow, and the pivot at which the work then stops. -/
structure Factor where
  rows : List (List FVal)
  low : List (List Nat)
  perm : List Nat
  reg : Nat
  overflow : Bool
  stop : Nat
  deriving DecidableEq, Repr

def at_ (rows : List (List FVal)) (i j : Nat) : FVal := (rows.getD i []).getD j FVal.zero

def swapAt {α : Type} (l : List α) (d : α) (i j : Nat) : List α := (l.set i (l.getD j d)).set j (l.getD i d)

/-- The row of partial pivoting for column j: largest magnitude, lowest row on a tie. -/
def pivotRow (d : SolveDesc) (rows : List (List FVal)) (j : Nat) : Nat :=
  (List.range' (j + 1) (lowReach d j - j)).foldl
    (fun p i => if FVal.lt (at_ rows p j).abs (at_ rows i j).abs then i else p) j

/-- Eliminate below pivot j in format g. -/
def eliminate (d : SolveDesc) (g : FpFmt) (j : Nat) (rows : List (List FVal)) : List (List FVal) :=
  let p := at_ rows j j
  let prow := rows.getD j []
  if d.symmetric then
    let c := (List.range d.n).map (fun i => at_ rows i j)
    (SMap.number 0 rows).map (fun q =>
      if j < q.1 && q.1 ≤ lowReach d j then
        let l := FVal.div g (c.getD q.1 FVal.zero) p
        (SMap.number 0 q.2).map (fun e =>
          if e.1 = j then l
          else if j < e.1 && e.1 ≤ q.1 then FVal.fma g l.neg (c.getD e.1 FVal.zero) e.2
          else e.2)
      else q.2)
  else
    (SMap.number 0 rows).map (fun q =>
      if j < q.1 && q.1 ≤ lowReach d j then
        let l := FVal.div g (q.2.getD j FVal.zero) p
        (SMap.number 0 q.2).map (fun e =>
          if e.1 = j then l
          else if j < e.1 && e.1 ≤ upReach d j then FVal.fma g l.neg (prow.getD e.1 FVal.zero) e.2
          else e.2)
      else q.2)

/-- Columns of a step of the factorisation (R193). -/
def stepCols (d : SolveDesc) : Nat := if d.version = 1 then 32 else 64

/-- One pivot: selection, interchange, regularisation, elimination. After an overflow the work ends with its step (R193). -/
def pivotStep (d : SolveDesc) (g : FpFmt) (th : FVal) (f : Factor) (j : Nat) : Factor :=
  if f.overflow && f.stop ≤ j then f
  else
    let p := if d.symmetric then j else pivotRow d f.rows j
    let rows := swapAt f.rows [] j p
    let v := at_ rows j j
    let small := FVal.lt v.abs th
    let v' := if small then (if v.isNeg && !v.isZero then th.neg else th) else v
    let rows1 := rows.set j ((rows.getD j []).set j v')
    let rows2 := eliminate d g j rows1
    let low := (SMap.number 0 (swapAt f.low [] j p)).map (fun q =>
      if j < q.1 && q.1 ≤ lowReach d j then q.2 ++ [j] else q.2)
    { rows := rows2, low := low, perm := swapAt f.perm 0 j p, reg := f.reg + boolNat small,
      overflow := f.overflow || (g == fp32 && rows2.any (fun r => r.any (fun x => !x.isFinite))),
      stop := if f.overflow then f.stop else (j / stepCols d + 1) * stepCols d }

/-- Factor A_s in format g: rounded entries, lower triangle only for symmetric structures. An entry that overflows in
the rounding counts as an overflow of the factorisation. -/
def factor (d : SolveDesc) (g : FpFmt) (a : SMap U64) : Factor :=
  let rows := (List.range d.n).map (fun i => (List.range d.n).map (fun j =>
    if inPattern d i j && (!d.symmetric || j ≤ i) then FVal.round g (getA d a i j) else FVal.zero))
  (List.range d.n).foldl (pivotStep d g (theta d a))
    { rows := rows, low := List.replicate d.n [], perm := List.range d.n, reg := 0,
      overflow := g == fp32 && rows.any (fun r => r.any (fun x => !x.isFinite)), stop := stepCols d }

/-- Power-of-two scale 2^-k of a row or column maximum; 1 for zeros. -/
def scaleOf (m : FVal) : Int := if m.isZero then 0 else -(m.ilog2)

/-- Re-equilibration, R193: the row and column exponents (D_r, D_c). -/
def equil (d : SolveDesc) (a : SMap U64) : List Int × List Int :=
  let rowMax (i : Nat) : FVal := (List.range d.n).foldl (fun m j =>
    if inPattern d i j then FVal.max2 m (getA d a i j).abs else m) FVal.zero
  if d.symmetric then
    let s := (List.range d.n).map (fun i => let m := rowMax i; if m.isZero then (0 : Int) else -(m.ilog2 / 2))
    (s, s)
  else
    let r := (List.range d.n).map (fun i => scaleOf (rowMax i))
    let c := (List.range d.n).map (fun j => scaleOf ((List.range d.n).foldl (fun m i =>
      if inPattern d i j then FVal.max2 m (FVal.mul (getA d a i j).abs (FVal.pow2 (r.getD i 0))) else m) FVal.zero))
    (r, c)

/-- D_r A_s D_c, exactly. -/
def applyEquil (d : SolveDesc) (a : SMap U64) (e : List Int × List Int) : SMap U64 :=
  a.map (fun p => (p.1, cod (FVal.mulR fp64 (val p.2)
    (FVal.pow2 (e.1.getD (p.1 / d.n) 0 + e.2.getD (p.1 % d.n) 0)))))

/-! ## Triangular solves and refinement, R194, R503 -/


def forward (d : SolveDesc) (g : FpFmt) (f : Factor) (b : List FVal) : List FVal :=
  (List.range d.n).foldl (fun y i =>
    y.set i ((List.range i).foldl (fun acc j =>
      if (f.low.getD i []).contains j then FVal.fma g (at_ f.rows i j).neg (y.getD j FVal.zero) acc else acc)
      (y.getD i FVal.zero))) (f.perm.map (fun p => b.getD p FVal.zero))

def backward (d : SolveDesc) (g : FpFmt) (f : Factor) (y : List FVal) : List FVal :=
  (List.range d.n).reverse.foldl (fun x i =>
    let acc := (List.range' (i + 1) (upReach d i - i)).foldl (fun acc k =>
      FVal.fma g (if d.symmetric then at_ f.rows k i else at_ f.rows i k).neg (x.getD k FVal.zero) acc)
      (x.getD i FVal.zero)
    x.set i (if d.symmetric then acc else FVal.div g acc (at_ f.rows i i))) y

/-- solve (factor, b) in format g. -/
def solve (d : SolveDesc) (g : FpFmt) (f : Factor) (b : List FVal) : List FVal :=
  let y := forward d g f b
  let z := if d.symmetric then (SMap.number 0 y).map (fun e => FVal.div g e.2 (at_ f.rows e.1 e.1)) else y
  backward d g f z

def vecMax (v : List FVal) : FVal := v.foldl (fun m x => FVal.max2 m x.abs) FVal.zero

/-- solve (factor, rne (e v)) / e with e = 2^-floor (log2 ‖v‖), R194; the zero vector takes e = 1. -/
def scaledSolve (d : SolveDesc) (g : FpFmt) (f : Factor) (v : List FVal) : List FVal :=
  let m := vecMax v
  let k := if m.isZero then 0 else m.ilog2
  (solve d g f (v.map (fun x => FVal.round g (FVal.mul x (FVal.pow2 (-k)))))).map
    (fun x => FVal.mulR fp64 x (FVal.pow2 k))

/-- r = b − A x, one row at a time. -/
def residual (d : SolveDesc) (a : SMap U64) (b x : List FVal) : List FVal :=
  (List.range d.n).map (fun i => (List.range d.n).foldl (fun acc j =>
    if inPattern d i j then FVal.fma fp64 (getA d a i j).neg (x.getD j FVal.zero) acc else acc) (b.getD i FVal.zero))

/-- ω of R194 over all right-hand sides; each operation rounds to FP64. -/
def omega (na : FVal) (rs xs bs : List (List FVal)) : FVal :=
  (List.range rs.length).foldl (fun m k =>
    let den := FVal.addR fp64 (FVal.mulR fp64 na (vecMax (xs.getD k []))) (vecMax (bs.getD k []))
    let w := if den.isZero then FVal.zero else FVal.div fp64 (vecMax (rs.getD k [])) den
    FVal.max2 m w) FVal.zero

/-- x + d per element. -/
def addVec (x dv : List FVal) : List FVal :=
  (SMap.number 0 x).map (fun e => FVal.addR fp64 e.2 (dv.getD e.1 FVal.zero))

/-- Column j of the right-hand sides. -/
def column (d : SolveDesc) (b : SMap U64) (j : Nat) : List FVal :=
  (List.range d.n).map (fun i => val (SMap.get 0 b (d.n * j + i)))

/-- The shifted previous solution of R197, as FP64 codes. -/
def shifted (d : SolveDesc) (prev fill : List U64) : List U64 :=
  let q := d.n / d.blockLen
  (List.range d.nrhs).flatMap (fun j => (List.range q).flatMap (fun m =>
    if m + d.shift < q then (prev.drop (d.n * j + d.blockLen * (m + d.shift))).take d.blockLen
    else match d.fillPolicy with
      | 0 => (prev.drop (d.n * j + d.blockLen * (q - 1))).take d.blockLen
      | 1 => List.replicate d.blockLen 0
      | _ => (fill.drop (d.blockLen * j)).take d.blockLen))

/-- FP64 codes of a run of bytes. -/
def codes (b : List Byte) (n : Nat) : List U64 := (List.range n).map (fun k => BitVec.ofNat 64 (field b (8 * k) 8))

end Solve

end Sys2Proof
end

