-- ==== Sys2Proof/Machine/Units.lean ====
section
/-! DEFINITION. The state of a core's units: streams (R248 to R256, R375, R376), matrix arrays (R90, R103, R104, R116), the
running VE instruction (R127) and synchronisation objects (R245, R251, R269). -/

namespace Sys2Proof

/-- A check record, R361. -/
structure CheckRec where
  valid : Bool := false
  poly : Nat := 0
  producer : Nat := 0
  alive : Nat := 0
  length : Nat := 0
  check : Nat := 0
  deriving DecidableEq, Repr

/-- A stream of a core. -/
structure Stream where
  /-- STREAM_STATUS: the first non-OK code since admission, R99. -/
  status : Nat := 0
  /-- Halted by an expired wait, R256. -/
  halted : Bool := false
  /-- Stopped at an entry boundary: pause, freeze or an on-command checkpoint (R265, R400, R427). -/
  stopped : Bool := false
  /-- The WAIT in progress, and whether its registration has reached the home. -/
  waiting : Option SyncOp := none
  /-- The scope of the FENCE in progress, its index, and the code it will complete with (R259). -/
  fencing : Option Nat := none
  fenceIndex : Nat := 0
  fenceCode : Nat := 0
  /-- Index of the WAIT or SIGNAL in progress. -/
  syncIndex : Nat := 0
  /-- The conversion block that the entry at the head, checked and not yet issued, holds in use (R499). -/
  claim : Option Nat := none
  /-- A SIGNAL entry that its home has not applied yet. -/
  signalling : Bool := false
  /-- Entries that wait behind what holds the stream. -/
  held : List Instr := []
  /-- Entries that have reached the head, R99. -/
  count : Nat := 0
  /-- Step and drawing ordinal, R375 and R376. -/
  step : Nat := 0
  ordinal : Nat := 0
  /-- The accepted CVERIFY that holds a CP stream, the index of its entry, and the check record it read when it obtained
  its channel (R364, R365). -/
  verify : Option (CverifyCmd × Nat × Option CheckRec) := none
  deriving DecidableEq, Repr

/-- A weight plane, R103 and R500: the operand format that last filled it (`none`: zeros of no class), its tile geometry,
for each output column its K pairs of element code and fine scale byte, and the K positions and columns that the WLOAD loaded. -/
structure Plane where
  fmt : Option Nat := none
  k : Nat := 0
  n : Nat := 0
  cells : List (List (Nat × Nat)) := []
  loadedK : Nat := 0
  loadedN : Nat := 0
  deriving DecidableEq, Repr

/-- An array command in flight: what completion needs. -/
structure ArrayRun where
  signalObj : Nat
  index : Nat
  status : Nat
  /-- FP32 lines that a STREAM writes or a DRAIN reads (R104, R108). -/
  lines : List Nat := []
  /-- DRAIN: conversion block, coarse scale used, the maximum found (R88, R89), destination ranges by first byte and
  length, and the same in the flat tile file. -/
  conv : Option Nat := none
  coarse : Nat := 0
  amax : FVal := FVal.zero
  outs : List (Nat × Nat) := []
  tileOut : Option (Nat × Nat) := none
  /-- The failing address of the status (R220, R223). -/
  bad : Option Nat := none
  deriving DecidableEq, Repr

/-- A matrix array. -/
structure Arr where
  active : Plane := {}
  shadow : Plane := {}
  /-- Accumulator storage in FP32 words: FP32 line l, column c is word 64 l + c; FP64 line l is words 128 l on (R104). -/
  acc : SMap U32 := []
  wload : Option ArrayRun := none
  streams : List ArrayRun := []
  drain : Option ArrayRun := none
  /-- Self-test (R116, R471): a pass is due; it must take the next command boundary; the planes a pass saved. -/
  due : Bool := false
  takeNext : Bool := false
  testing : Option (Plane × Plane) := none
  /-- The signature that the last self-test compared. -/
  signature : U32 := 0
  /-- The test whose outputs the 256-column signature register holds (R115): 0 is the start-up self-test. -/
  columns : Nat := 0
  deriving DecidableEq, Repr

/-- A VE instruction that occupies the VE or has not completed. -/
structure VeRun where
  signalObj : Nat
  index : Nat
  status : Nat
  /-- The failing address of the status (R220, R223). -/
  bad : Option Nat := none
  conv : Option Nat := none
  coarse : Nat := 0
  amax : FVal := FVal.zero
  /-- Ranges written in local memory and in the flat tile file. -/
  outs : List (Nat × Nat) := []
  tileOut : Option (Nat × Nat) := none
  deriving DecidableEq, Repr

/-- A watch on an object's list, R251 and R269. -/
structure Watch where
  waiter : Waiter
  unit : U32
  target : U64
  flags : Nat
  remaining : U32
  deriving DecidableEq, Repr

/-- A synchronisation object, R245. Its WATCH_COUNT and FIRST_WAITER are read from the watch list. -/
structure Obj where
  value : U64 := 0
  last : U32 := 0
  owner : Byte := 0xFF
  count : U64 := 0
  watches : List Watch := []
  deriving DecidableEq, Repr

/-- A signal on its way to its home: object, amount, signaller, and the stream whose SIGNAL entry waits for it. -/
structure Posted where
  obj : ObjIx
  amount : U64
  unit : U32
  entry : Option (CoreId × StreamIx)
  /-- The job whose objects a copy descriptor is confined to; 0xFF for none (R247). -/
  slot : Nat := 0xFF
  /-- Remote writes that Burist, the safety monitor or a collective engine had uncompleted then, by destination, flow and SEQ
  (R258). -/
  after : List (Nat × Nat × Nat) := []
  deriving DecidableEq, Repr

/-- A registration or a cancel on its way to a home, R251 and R255. -/
structure Registration where
  waiter : Waiter
  obj : ObjIx
  unit : U32
  target : U64
  flags : Nat
  remaining : U32
  deriving DecidableEq, Repr

/-- A copy descriptor in a queue of an engine, R232 to R236. -/
structure CopyRun where
  desc : CopyDesc
  /-- Job slot, 0xFF for work of no job. -/
  slot : Nat
  /-- The CP stream that submitted it, with the entry's index; `none` for Burist. -/
  from_ : Option (CoreId × Nat)
  /-- Drawing step and ordinal taken at acceptance, R375. -/
  step : Nat
  ordinal : Nat
  started : Bool := false
  /-- Whether it waits for its check-value channel, or holds it (R357, R362). -/
  asked : Bool := false
  holds : Bool := false
  /-- All its data effects are done, but for remote messages still in flight. -/
  done : Bool := false
  status : Nat := 0
  written : Nat := 0
  amax : FVal := FVal.zero
  coarse : Nat := 0
  guardStalls : Nat := 0
  /-- Granules of a guarded source not yet taken. -/
  granules : List Nat := []
  /-- Granules in the staging buffer, oldest first: promoted or not, and its messages still to send (R241). -/
  staged : List (Bool × Nat) := []
  /-- The conversion block as read at the start (R89). -/
  block : List Byte := []
  /-- Destination bytes, for the check value and the checkpoint digest: data bytes, then scale bytes. -/
  fed : List Byte := []
  /-- Remote source: ranges still to ask for, and the bytes that have come, by node offset. -/
  toRead : List (Nat × Nat) := []
  got : SMap Byte := []
  /-- Remote destination: writes still to send, by global address. -/
  toSend : List (Nat × List Byte) := []
  /-- The arrival signal of a remote copy is still to be sent. -/
  arrival : Bool := false
  /-- What Burist submitted it for: 0 nothing further, 1 forward transfer, 2 return transfer, 3 checkpoint, 4 region fill,
  5 shard load, 6 published copy. -/
  purpose : Nat := 0
  /-- The failing address of the status (R220, R223). -/
  bad : Option Nat := none
  deriving DecidableEq, Repr

/-- A write held back by a guard, R240: the writers' unit IDs, address and bytes; an atomic is kept as its message, and reads
its cell when the guard lets it go; one that is to be seen after the writers' earlier writes waits for those as well. -/
structure StalledWrite where
  units : List Nat
  addr : Nat
  bytes : List Byte
  atomic : Option Msg := none
  after : Bool := false
  deriving DecidableEq, Repr

/-- A copy engine, R232 and R240. -/
structure Engine where
  job : List CopyRun := []
  service : List CopyRun := []
  promoted : List Nat := []
  stalled : List StalledWrite := []
  /-- Work of Burist that waits for an entry of the service queue or a staging buffer, oldest first (R232, R241). -/
  waiting : List CopyRun := []
  deriving DecidableEq, Repr

/-- Who uses or waits for a check-value channel, R357. -/
inductive ChanUser where
  | copy (e : EngineId) (q : EngineQueue)
  | verify (c : CoreId)
  deriving DecidableEq, Repr

/-- A check-value channel, R357 to R361, R371. -/
structure Chan where
  slot0 : CheckRec := {}
  slot1 : CheckRec := {}
  busy : Option ChanUser := none
  waiting : List ChanUser := []
  lastFail : List Byte := List.replicate 32 0
  deriving DecidableEq, Repr

/-- Where a solve descriptor stands, R183 to R198: `queued` behind or before its start, `waiting` on START_OBJ, `ready` with
that wait satisfied. -/
inductive SolvePhase where
  | queued | waiting | ready | assembly | factor | refine | refact | deliver
  deriving DecidableEq, Repr

/-- What a unit will deliver: STATUS, DELIVERY, ITERATIONS, OMEGA and X (R196, R202). -/
structure SolveOutcome where
  status : Nat
  delivery : Nat
  iterations : Nat
  omega : Nat
  x : List U64
  deriving DecidableEq, Repr

/-- An iterate with its number and its ω, R194. -/
structure Iterate where
  number : Nat
  omega : FVal
  cols : List (List FVal)
  deriving DecidableEq, Repr

/-- An accepted solve descriptor, R181 to R204. On a gang member or a pair partner it only holds the queue entry of its
lead (R206, R208). -/
structure SolveRun where
  desc : SolveDesc
  slot : Nat
  core : Nat
  lead : Nat
  ticket : Nat
  phase : SolvePhase := .queued
  /-- The shifted previous solution, formed at the start; `none` where it could not be read (R504). -/
  substitute : Option (List U64) := some []
  a : SMap U64 := []
  b : SMap U64 := []
  factor : Option Solve.Factor := none
  inFp64 : Bool := false
  rescaled : Bool := false
  colExp : List Int := []
  current : Option Iterate := none
  /-- The iterate before the current one. -/
  before : Option Iterate := none
  best : Option Iterate := none
  /-- The iterate whose residual comes next. -/
  pending : Option (Nat × List (List FVal)) := none
  corrections : Nat := 0
  /-- k of the refinement in force, and its last ω. -/
  iter : Nat := 0
  lastOmega : Option FVal := none
  events : Nat := 0
  reg : Nat := 0
  scale : Int := 0
  normMax : Nat := 0
  outcome : Option SolveOutcome := none
  deriving DecidableEq, Repr

/-- An armed prefetch slot, R228 and R229. -/
structure Prefetch where
  rowBytes : Nat
  base : Nat
  rows : Nat
  distance : Nat
  stride : Nat
  /-- Bytes of the stream fetched so far. -/
  fetched : Nat
  deriving DecidableEq, Repr

/-- The stream position of the last line of the stream that a read of [off, off + n) takes (R229). -/
def Prefetch.position (p : Prefetch) (off n : Nat) : Option Nat :=
  let base := p.base % 2 ^ 48
  let last := off + n - 1
  if n = 0 || last < base then none
  else
    let r := if p.stride = 0 then 0 else min (p.rows - 1) ((last - base) / p.stride)
    let start := base + r * p.stride
    if off < start + p.rowBytes then some (r * p.rowBytes + (min last (start + p.rowBytes - 1) - start) / 64 * 64) else none

/-- One record of the event log, R431; DETAIL holds up to 40 bytes. -/
structure LogRec where
  seq : Nat
  time : U64
  code : Nat
  slot : Nat
  kind : Nat
  source : Nat
  detail : List Byte
  deriving DecidableEq, Repr

end Sys2Proof
end

