-- ==== Sys2Proof/Machine/Nifen.lean ====
section
/-! DEFINITION. The state of the fabric side: ports and links (spec/10_links_and_topology.md R273 to R287), requests in
flight and the receiving Ridges (spec/11_remote_memory.md R313 to R330) and collectives (spec/12_collectives.md R333 to
R350). -/

namespace Sys2Proof

/-- A message between Burists whose layout no chapter gives: broadcast start (R388 to R392), training (R162), quorum
(R304), checkpoints (R402). -/
inductive Note where
  | attach (jobId : U64) (resume : Nat)
  | detach (jobId : U64)
  | suspect (jobId : U64) (node : Nat)
  | waiting (jobId : U64)
  | chunk (jobId : U64) (k : Nat) (bytes : List Byte)
  | probe (jobId : U64)
  | probeReply (jobId : U64)
  | ready (jobId : U64) (status : Nat)
  | run (jobId : U64)
  | command (jobId : U64) (cmd : Nat)
  | totals (jobId : U64) (t : Totals)
  | vector (jobId : U64) (step : Nat) (withheld : Bool) (vec : List Byte)
  | epoch (jobId : U64) (e : Nat)
  | shards (jobId : U64) (bytes : List Byte)
  deriving DecidableEq, Repr

/-- A message as the switch handles it. -/
inductive Wire where
  | msg (m : Msg)
  | batch (dest src : Nat) (ms : List Msg)
  | coll (mtype : Nat) (m : CollMsg)
  | safety (mtype : Nat) (m : SafetyMsg)
  | lsdb (r : LinkRecord) (cert : Option NodeCert)
  | dap (dest src : Nat) (f : DapFrame)
  | note (dest : Nat) (n : Note)
  deriving DecidableEq, Repr

/-- A message in an output queue: its lane and hop class (R283, R297). -/
structure QMsg where
  vl : Nat
  hop : Nat
  dest : Nat
  wire : Wire
  /-- The message's bytes as sent, and the flits of it already sent. -/
  bytes : List Byte
  sent : Nat := 0
  deriving DecidableEq, Repr

/-- What a port keeps besides its dictionary words, R273 to R287. The lists of 48 run over VL 0–5 and HOP 0–7. -/
structure Port where
  peerCaps : Nat := 0
  peerSerial : Nat := 0
  peerVersion : Nat := 0
  /-- Steps of the training in progress: lanes trained, IDENT and RESYNC received (R274). -/
  lanesDone : Bool := false
  identDone : Bool := false
  /-- Dormant width is asked for, by this package or its peer (R300). -/
  dormant : Bool := false
  nextFseq : Nat := 0
  replay : List Flit := []
  /-- Flits of the replay buffer still to be resent, in order. -/
  resend : List Flit := []
  /-- FSEQs of the data flits that a RESYNC left to resend and that have not yet taken a credit again (R287). -/
  uncharged : List Nat := []
  /-- Lanes left out of the link, which the event log names (R276). -/
  leftOut : List Nat := []
  /-- Messages sent whole whose last flit, by FSEQ, is not acknowledged. -/
  unacked : List (Nat × QMsg) := []
  expected : Nat := 0
  /-- Some flit has been accepted since training, so ACK_SEQ is valid. -/
  ackOk : Bool := false
  nakSent : Bool := false
  /-- Accepted flits not yet acknowledged. -/
  sinceAck : Nat := 0
  queue : List QMsg := []
  control : List (List Byte) := []
  avail : List Nat := List.replicate 48 0
  credited : List Nat := List.replicate 48 0
  held : List Nat := List.replicate 48 0
  freed : List Nat := List.replicate 48 0
  returned : List Nat := List.replicate 48 0
  sinceAudit : Nat := 0
  /-- Flit slots run, those that carried the management lane, and what is left of the round-robin weights (R284). -/
  slot : Nat := 0
  mgmt : List Nat := []
  weights : List Nat := [4, 3, 3, 2]
  deriving DecidableEq, Repr

/-- Flow numbering of an issuing unit, R313 and R328: epoch, whether a request of it was lost, the flow counter, and for
each destination the open flow with its next SEQ. -/
structure Issuer where
  epoch : Nat := 0
  lost : Bool := false
  flowCount : Nat := 0
  flows : List (Nat × Nat × Nat) := []
  deriving DecidableEq, Repr

/-- What a request belongs to. -/
inductive ReqOwner where
  /-- RLOAD, RSTORE or RATOMIC of a CP stream: entry index, SIGNAL_OBJ, LOCAL node offset (R310). -/
  | command (c : CoreId) (index : Nat) (obj : Nat) (dst : Nat)
  /-- A SIGNAL entry that holds its stream (R249). -/
  | signal (c : CoreId) (st : StreamIx) (index : Nat)
  /-- A bulk message of the running descriptor, with its place in the copy (R330). -/
  | bulk (e : EngineId) (q : EngineQueue) (part : Nat)
  /-- The arrival signal of a remote copy. -/
  | arrival (e : EngineId) (q : EngineQueue)
  /-- The arrival signal of a descriptor that was refused or ended early: the engine, and the local object that its answer
  advances, with the job it is confined to (R234, R236). -/
  | arrivalEnd (e : EngineId) (sig : Option ObjIx) (slot : Nat)
  /-- A write or read of Burist for a checkpoint or restore of a job slot. -/
  | burist (slot : Nat) (what : Nat)
  deriving DecidableEq, Repr

/-- An uncompleted request, with the copy the unit keeps (R313). -/
structure Request where
  unit : Nat
  dest : Nat
  flow : Nat
  epoch : Nat
  seq : Nat
  msg : Msg
  owner : ReqOwner
  /-- An RLOAD's data may fill the cluster cache: no event of R317 has dropped the lines since it was sent. -/
  fill : Bool
  deriving DecidableEq, Repr

/-- A coalescing entry, R321: the line's node offset, byte masks with the unit that wrote each byte last, and the merged
writes to acknowledge. -/
structure Coalesce where
  line : Nat
  bytes : List (Nat × Byte × Nat)
  writes : List Msg
  deriving DecidableEq, Repr

/-- A receiving Ridge and its gateway, R314 to R327. -/
structure RidgeState where
  /-- Source unit, current flow, expected SEQ. -/
  seqs : List (Nat × Nat × Nat) := []
  entries : List Coalesce := []
  /-- Requests per line in the window, and the sources that RATE has gone to. -/
  hot : List (Nat × Nat) := []
  rated : List (Nat × Nat) := []
  /-- Open batches by destination, oldest first. -/
  batches : List (Nat × List Msg) := []
  tokens : Nat := 384
  deriving DecidableEq, Repr

/-- A rate entry of a source package, R323: destination and line, whether the spacing interval runs, and what waits. -/
structure RateEntry where
  dest : Nat
  line : Nat
  busy : Bool := false
  waits : List Msg := []
  deriving DecidableEq, Repr

/-- A reply that waits for a write that a guard has stalled (R241): the writers' units, the bytes written by node offset and
length, and the messages to send. -/
structure HeldReply where
  units : List Nat
  addr : Nat
  len : Nat
  msgs : List Msg
  deriving DecidableEq, Repr

/-- Entries of a link buffer that the request of a stalled write keeps (R241, R316): the port, the buffer, the flits, and the
write's units, node offset and length. -/
structure KeptEntry where
  port : Nat
  buffer : Nat
  flits : Nat
  units : List Nat
  addr : Nat
  len : Nat
  deriving DecidableEq, Repr

/-- A transfer that a member still expects: its segment number, the sender's rank, what it is for (0 a step of a ring, tree
or direct exchange, 1 an input of a segment from a member, 2 an input from a group, 3 a result), and its elements. -/
structure CollIn where
  seg : Nat
  src : Nat
  kind : Nat
  lo : Nat
  hi : Nat
  add : Bool
  deriving DecidableEq, Repr

/-- A transfer that a member still has to send; a step waits for the steps `after` it depends on. -/
structure CollOut where
  seg : Nat
  dst : Nat
  kind : Nat
  lo : Nat
  hi : Nat
  add : Bool
  after : List Nat
  deriving DecidableEq, Repr

/-- An aggregation, R348: a segment's inputs by rank (of a member, or of a group's first member where `top`), in the order
they came, and the ranks it combines. -/
structure Slot where
  seg : Nat
  top : Bool
  ranks : List Nat
  inputs : List (Nat × List Nat) := []
  result : Option (List Nat) := none
  deriving DecidableEq, Repr

/-- An accepted, uncompleted collective, R335 to R348. -/
structure CollRun where
  jobId : U64
  slot : Nat
  comm : Nat
  seq : Nat
  cmd : CollCmd
  core : Nat
  index : Nat
  /-- START has been sent; GO has come. -/
  begun : Bool := false
  going : Bool := false
  algo : Nat := 0
  jade : Bool := false
  sent : Nat := 0
  /-- Working values: codes of the accumulation type for reductions, bytes otherwise. -/
  cur : List Nat := []
  incoming : List CollIn := []
  opened : List CollIn := []
  outgoing : List CollOut := []
  /-- Grants received: segment and the receiver's node. -/
  allowed : List (Nat × Nat) := []
  /-- Steps applied, and keys received: MTYPE, SEGMENT, SRC_NODE (R339). -/
  applied : List Nat := []
  keys : List (Nat × Nat × Nat) := []
  slots : List Slot := []
  /-- Results of segments. -/
  results : List (Nat × List Nat) := []
  /-- Leader: dies whose LEASE_REPLY is awaited, dies that granted, and whether one refused. -/
  leasing : List (Nat × Nat) := []
  leased : List (Nat × Nat) := []
  refused : Bool := false
  /-- ALLGATHER: bytes of each piece written, and pieces counted in ARRIVAL_OBJ (R351). -/
  pieces : List Nat := []
  counted : Nat := 0
  /-- Code of the first write to DST that was refused (R223). -/
  code : Nat := 0
  deriving DecidableEq, Repr

/-- A START that its leader holds, by communicator and sequence number (R337). -/
structure StartMsg where
  jobId : U64
  comm : Nat
  seq : Nat
  node : Nat
  ctype : Nat
  rop : Nat
  dtype : Nat
  count : Nat
  root : Nat
  deriving DecidableEq, Repr

/-- A lease held at a Ridge die of this package, R347. -/
structure Lease where
  ridge : Nat
  jobId : U64
  comm : Nat
  seq : Nat
  tokens : Nat
  leader : Nat
  deriving DecidableEq, Repr

/-- The fabric side of the package. -/
structure Fabric where
  ports : SMap Port := []
  /-- The link-state database and the copy that the routing tables in force were built from (R294, R303). -/
  lsdb : List LinkRecord := []
  routes : List LinkRecord := []
  certs : List NodeCert := []
  /-- The database has not changed for QUORUM_SETTLE cycles (R304, R306). -/
  settled : Bool := false
  /-- Job slots not evaluated since the database last changed: they have not settled yet (R304). -/
  unsettled : List Nat := List.range 8
  /-- The serial of a package that announces this package's node number (R289). -/
  rival : Option Nat := none
  issuers : SMap Issuer := []
  requests : List Request := []
  ridges : SMap RidgeState := []
  rates : List RateEntry := []
  heldReplies : List HeldReply := []
  kept : List KeptEntry := []
  /-- Messages of batches that found no route; their requests are about to end (R297, R315). -/
  undelivered : List Msg := []
  /-- Remote lines cached by a cluster: cluster, global address of the line, bytes (R317). -/
  lines : List (Nat × Nat × List Byte) := []
  colls : List CollRun := []
  starts : List StartMsg := []
  /-- COLLs accepted on each communicator since admission: slot × 256 + comm. -/
  collSeq : SMap Nat := []
  leases : List Lease := []
  /-- Collectives whose lease was revoked: JOB_ID, COMM, SEQ (R350). -/
  revoked : List (Nat × Nat × Nat) := []
  /-- Collective messages of this package to itself. -/
  inbox : List (Nat × CollMsg) := []
  deriving DecidableEq, Repr

end Sys2Proof
end

