-- ==== Sys2Proof/Machine/Objects.lean ====
section
/-! DEFINITION. The object dictionary's table: spec/16_object_dictionary.md R414 to R416, R438, and the object tables of
every chapter. `lookup` gives the type, access code, default and range of a subindex; `none` is NO_SUCH_OBJECT. -/

namespace Sys2Proof

/-- The types of R415. `octets n` is an OCTETS object of n bytes. -/
inductive OTy where
  | bool | u8 | u16 | u32 | u64 | f32 | string
  | octets (n : Nat)
  | domain
  deriving DecidableEq, Repr

/-- The access codes of R416 that the tables use. -/
inductive OAcc where
  | ro | const | wo | rw
  deriving DecidableEq, Repr

namespace OTy

/-- TYPE code of R415. -/
def code : OTy → Nat
  | .bool => 0x01 | .u8 => 0x02 | .u16 => 0x03 | .u32 => 0x04 | .u64 => 0x05 | .f32 => 0x08
  | .string => 0x0A | .octets _ => 0x0B | .domain => 0x0C

/-- The length of a value; `none` where it varies. -/
def size : OTy → Option Nat
  | .bool => some 1 | .u8 => some 1 | .u16 => some 2 | .u32 => some 4 | .u64 => some 8 | .f32 => some 4
  | .string => none | .octets n => some n | .domain => none

/-- Types whose values stand in the register map as numbers. -/
def numeric : OTy → Bool
  | .bool | .u8 | .u16 | .u32 | .u64 | .f32 => true
  | _ => false

end OTy

/-- One subindex: type, access, default, and the least and greatest value a write may give. -/
structure OEntry where
  ty : OTy
  acc : OAcc
  dflt : Nat := 0
  lo : Nat := 0
  hi : Nat := 2 ^ 64 - 1
  deriving DecidableEq, Repr

namespace Objects

/-- A read-only number with a default. -/
def ro (t : OTy) (d : Nat := 0) : OEntry := { ty := t, acc := .ro, dflt := d }
def const (t : OTy) (d : Nat := 0) : OEntry := { ty := t, acc := .const, dflt := d }
def rw (t : OTy) (d lo hi : Nat) : OEntry := { ty := t, acc := .rw, dflt := d, lo := lo, hi := hi }
def flag (d : Nat) : OEntry := rw .bool d 0 1
def wo (t : OTy) : OEntry := { ty := t, acc := .wo }

/-- Element `i` of a list of entries; `none` past its end. -/
def pick (es : List OEntry) (sub : Nat) : Option OEntry := if sub = 0 then none else es[sub - 1]?

/-- The subindices 1 on of an object that stands alone in the map. -/
def fixed (ix : Nat) : Option (List OEntry) :=
  match ix with
  | 0x1000 => some [const .string, const .string, const .string, const (.octets 16), const .u8, const .string,
      const (.octets 6), const .u8 4]
  | 0x1001 => some [ro .u32, ro (.octets 8), ro (.octets 28), ro .u8 2, ro .u8 1]
  | 0x1002 => some [const .u16, const .u16, const .u16, const .u16, ro (.octets 32), ro (.octets 64), ro .u64,
      ro (.octets 16), ro (.octets 32), ro (.octets 64), ro .u32]
  | 0x1003 => some [wo (.octets 32), ro .domain, ro .u32]
  | 0x2010 => some [flag 0]
  | 0x2020 => some [flag 0]
  | 0x2100 => some [rw .u16 3400 1000 3400, rw .u32 250000 25000 25000000, rw .u8 8 8 16, ro .f32, ro .f32, ro .f32,
      ro .u64, ro .u32, ro .u8, ro (.octets 4), ro (.octets 14), ro .u64, ro (.octets 16)]
  | 0x2200 => some [flag 0, ro .u8, ro .u64, ro .u32]
  | 0x2300 => some [ro .u32, ro .u32, ro .u8, ro .u8, ro .u8, wo .bool]
  | 0x4001 => some [rw .u16 0xFFFF 0 0xFFFF]
  | 0x4002 => some [ro .u16 0xFFFF, ro .u8 0xFF, ro .u16, ro .u16, ro .bool]
  | 0x4010 => some [ro .bool, ro .bool, ro .u8, ro .bool]
  | 0x4020 => some [flag 1, rw .u16 96 1 1008, rw .u16 16 0 1008, rw .u32 16777216 (2 ^ 20) (2 ^ 30)]
  | 0x4030 => some [rw .u16 256 0 4096, rw .u32 1024 256 1048576, rw .u16 256 16 65535, rw .u16 64 1 65535,
      rw .u32 65536 1024 (2 ^ 26), rw .u16 512 16 65535, flag 1]
  | 0x4040 => some [flag 1, rw .u32 4096 0 16384, rw .u32 16777216 (2 ^ 20) (2 ^ 30), ro .u16 384, ro .u16 384]
  | 0x5010 => some [flag 1, rw .u32 4096 256 16777216, rw .u32 4096 256 16777216, rw .u32 1024 1 4294967295, ro .u64]
  | 0x5020 => some [rw .u16 384 1 512, rw .u16 256 0 511, rw .u32 1024 64 1048576]
  | 0x6000 => some [wo (.octets 64), ro .u8, ro .u32, ro .u32]
  | 0x6010 => some [rw .u64 0 0 (2 ^ 38), wo .domain]
  | 0x6200 => some [rw .u32 4194304 65536 1073741824, rw .u32 65536 16 1048576, ro .u64, ro .u64, ro .u16 0xFFFF]
  | 0x7800 => some [ro .u8, const (.octets 32), const (.octets 2592), const (.octets 4627), const (.octets 2592),
      const (.octets 4627), ro .domain, wo (.octets 2596), wo (.octets 32), rw .u8 0 0 1, ro (.octets 32), wo .bool,
      ro .u8, ro (.octets 64), ro .domain]
  | 0x8100 => some [rw .u8 0xFF 0 0xFF, wo .bool, flag 1, ro .u32, ro .u32, ro .domain]
  | 0x8200 => some [ro .u64, ro .u64, ro .domain, ro .u64]
  | 0x8300 => some [ro .u8, ro .u64, ro .u64, ro .u64, ro .u64, ro .u64, ro .u64]
  | _ => none

/-- The subindices of a port object, R277. -/
def port : List OEntry :=
  [flag 1, ro .u8, ro .u8, ro .u8, rw .u8 0x0F 1 0x0F, ro .u8, ro .u16 0xFFFF, ro .u8 0xFF, ro .u8, ro .u64, ro .u64,
   ro .u64, ro .u64, ro .u64, ro .u64, ro .u64, ro .u64, ro .u32, ro .u64, ro .u64]

/-- The subindices of a check-value channel, R371. -/
def channel : List OEntry :=
  [rw .u8 1 0 1, rw .u8 1 0 1, ro .u8 0xFF, ro .u64, ro .u64, ro .u64, ro .u64, ro (.octets 32)]

/-- The subindices of a region of class c, R219. -/
def region (c : Nat) : List OEntry := [ro .u64, ro .u64, ro .u8 c, ro .bool (1 - c), ro .u64, ro .u32]

/-- The entries of one job slot in 0x6001, R429. -/
def jobStatus : List OEntry :=
  [ro .u64, ro .u8, ro .u16, ro .u64 (2 ^ 64 - 1), ro .u32, ro .u16 0xFFFF, ro .u16 0xFFFF, ro .u16 0xFFFF, ro .u32,
   ro (.octets 8), ro .u32]

/-- The admission block of 0x6001, R429. -/
def admission : List OEntry := [ro .u64, ro .u8, ro .u16, ro .u32, ro .u32, ro .u8 0xFF]

/-- The entries of one job slot in 0x6100, R407. -/
def checkpoint : List OEntry :=
  [ro .u64, ro .u64, ro .u64, ro .u64 (2 ^ 64 - 1), ro .u8 0xFF, ro .bool, ro .u64, rw .u32 65536 16 1048576]

/-- The entries of one job slot in 0x8020, R170. -/
def fallback : List OEntry :=
  [ro .u64, ro .u64, ro .u64, ro .u64, ro .u64, ro .u64, ro .u64, ro .u32, ro .u32, ro .u32, ro .u64, ro .u64]

/-- The entries of 0x7000 outside the watchdogs, R461. -/
def safety : List OEntry :=
  [flag 0, ro .bool 1, ro .u8, wo .bool, rw .u16 0x0FFE 0 0xFFFF, rw .u32 134217728 (2 ^ 24) (2 ^ 30), ro (.octets 2),
   ro (.octets 44), flag 1]

/-- The watchdog entries of one job slot, R461. -/
def watchdog : List OEntry := [rw .u16 0xFFFF 0 0xFFFF, rw .u32 0 0 4294967295, ro .u32]

/-- A unit state subindex, R117. -/
def unitState : OEntry := rw .u8 1 0 1

/-- Objects of U64 counters: first index, number of objects, counters in each. -/
def counterBlocks : List (Nat × Nat × Nat) :=
  [(0x8030, 10, 2), (0x8040, 48, 64), (0x8070, 12, 64), (0x8080, 32, 16), (0x80A0, 20, 16), (0x80B8, 6, 12),
   (0x80C0, 16, 32), (0x80D0, 4, 4), (0x80E0, 16, 64), (0x80F0, 5, 2)]

/-- Whether `ix` is one of the `n` indices from `a` on. -/
def within (ix a n : Nat) : Bool := a ≤ ix && ix < a + n

/-- The block of counters that holds an index: the counters in each of its objects. -/
def counters? (ix : Nat) : Option Nat :=
  (counterBlocks.find? (fun b => within ix b.1 b.2.1)).map (fun b => b.2.2)

/-- Subindex 00 of each object of the map (R414, R438); `none` for an index outside it. -/
def highest (ix : Nat) : Option Nat :=
  match fixed ix with
  | some es => some es.length
  | none =>
    if within ix 0x3100 4 then some 64 else if within ix 0x3200 4 then some 16 else if within ix 0x3300 8 then some 64
    else if within ix 0x4100 48 then some 20 else if within ix 0x5100 64 then some 6 else if within ix 0x5200 4 then some 32
    else if ix = 0x6001 then some 0x86 else if ix = 0x6100 then some 0x78 else if ix = 0x7000 then some 0x83
    else if within ix 0x7100 256 then some 8 else if ix = 0x8010 then some 0x18 else if ix = 0x8020 then some 124
    else counters? ix

/-- Entries that repeat for each job slot, at subindex 16j + f. -/
def perSlot (es : List OEntry) (sub : Nat) : Option OEntry := if sub < 128 then pick es (sub % 16) else none

/-- The subindices above 00. -/
def above (ix sub : Nat) : Option OEntry :=
  match fixed ix with
  | some es => pick es sub
  | none =>
    if within ix 0x3100 4 then (if sub ≤ 64 then some unitState else none)
    else if within ix 0x3200 4 then (if sub ≤ 16 then some unitState else none)
    else if within ix 0x3300 8 then (if sub ≤ 64 then some unitState else none)
    else if within ix 0x5200 4 then (if sub ≤ 32 then some unitState else none)
    else if within ix 0x4100 48 then pick port sub
    else if within ix 0x5100 64 then pick (region (ix % 2)) sub
    else if within ix 0x7100 256 then pick channel sub
    else if ix = 0x6001 then (if 0x81 ≤ sub then pick admission (sub - 0x80) else perSlot jobStatus sub)
    else if ix = 0x6100 then perSlot checkpoint sub
    else if ix = 0x8020 then perSlot fallback sub
    else if ix = 0x7000 then
      (if sub ≤ 9 then pick safety sub else if 0x11 ≤ sub && sub < 0x90 then pick watchdog (sub % 16) else none)
    else if ix = 0x8010 then
      (if sub ≤ 0x0A || (0x11 ≤ sub && sub ≤ 0x18) then some (ro .u64) else none)
    else
      match counters? ix with
      | some n => if sub ≤ n then some (ro .u64) else none
      | none => none

/-- A subindex of the dictionary; `none` is NO_SUCH_OBJECT. Subindex 00 is a U8 CONST (R414). -/
def lookup (ix sub : Nat) : Option OEntry :=
  if sub = 0 then (highest ix).map (fun h => const .u8 h) else above ix sub

/-- The key of a subindex in the register map. -/
def key (ix sub : Nat) : Nat := ix * 256 + sub

/-- The default of the word at a key. -/
def dflt (k : Nat) : BitVec 64 :=
  match lookup (k / 256) (k % 256) with
  | some e => BitVec.ofNat 64 e.dflt
  | none => 0

end Objects

end Sys2Proof
end

