-- ==== Sys2Proof/Machine/State.lean ====
section
/-! DEFINITION. The state of a Gletor 4 package: everything the manual gives it, as plain data. -/

namespace Sys2Proof.Machine

/-- What a command sends outside the package. -/
inductive Out where
  /-- The dictionary server's answer: STATUS and value (R17, R420). -/
  | answer (code : Nat) (value : List Byte)
  | frame (t : Transport) (f : DapFrame)
  | flit (p : Nat) (f : Flit)
  | msix
  deriving DecidableEq, Repr

/-- The package's units, memory, dictionary and jobs. -/
structure Chip where
  /-- The model's own counter behind the free values; not state of the part. -/
  free : Nat := 0
  /-- Numeric words of the dictionary, by 256 × index + subindex; an unlisted word holds its default (R414). -/
  regs : SMap (BitVec 64) := []
  /-- The event log, newest first, R431. -/
  log : List LogRec := []
  /-- HBM and core local memory, by node offset (R28). -/
  mem : SMap Byte := []
  /-- Poisoned 64-byte lines, by line number (R223). -/
  poison : SMap Bool := []
  /-- Tile registers: byte b of register t of core c at 2^19 c + 8192 t + b (R121, R122). -/
  tiles : SMap Byte := []
  /-- Predicate registers: p of core c at 16 c + p (R128). -/
  preds : SMap (BitVec 256) := []
  /-- Stream st of core c at 4 c + st. -/
  streams : SMap Stream := []
  /-- Array a of core c at 2 c + a. -/
  arrays : SMap Arr := []
  /-- VE instructions in flight of each core, oldest first. -/
  ves : SMap (List VeRun) := []
  /-- Accepted descriptors of each solver unit, oldest first (R179, R181). -/
  solvers : SMap (List SolveRun) := []
  engines : SMap Engine := []
  channels : SMap Chan := []
  /-- Prefetch slot s of cluster k at 16 k + s. -/
  prefetch : SMap (Option Prefetch) := []
  /-- Clusters in bypass, R230. -/
  bypass : SMap Bool := []
  /-- Scrub position and passes of each HBM stack, and its corrected lines in the current pass (R224, R226). -/
  scrubAt : SMap Nat := []
  scrubPasses : SMap Nat := []
  scrubCorrected : SMap Nat := []
  objs : SMap Obj := []
  posted : List Posted := []
  registrations : List Registration := []
  wakes : List Registration := []
  cancels : List Registration := []
  /-- Registrations of Burist that are in force or on their way: up to 512 (R252). -/
  buristWaits : List Registration := []
  /-- Conversion blocks in use, by node offset (R499). -/
  convUse : List Nat := []
  /-- FIRST_ERROR of each job slot, R429: unit ID, code, reserved. -/
  firstError : SMap (List Byte) := []
  /-- Admitted jobs, by slot. -/
  jobs : SMap (Option Job) := []
  fab : Fabric := {}
  mon : Monitor := {}
  flash : Flash := {}
  boot : Boot := {}
  staging : Staging := {}
  power : Power := {}
  dap : Dap := {}
  /-- Bundles that arrive or go out by broadcast, R388. -/
  casts : List Broadcast := []
  /-- Accepted commands not yet started, R428. -/
  cmds : List Queued := []
  /-- Pending disables of coupled jobs (R434); recovery tests that run, with the request that waits for the answer
  (R117, R420). -/
  pendingOff : List UnitRef := []
  testing : List (UnitRef × Option Origin) := []
  /-- A dump that runs: REASON and scope (R268); the last dump; slots whose first expiry has been dumped. -/
  dumping : Option (Nat × Nat) := none
  dumped : List Nat := []
  /-- Slots whose first expiry came while another dump ran. -/
  dumpNext : List Nat := []
  /-- What the last command sent outside the package. -/
  out : List Out := []
  deriving DecidableEq, Repr

/-- Pins, power stage and test port: what the always-on rail keeps (spec/17_power_clocks_and_bringup.md R443 to R445, R450;
spec/19_package_and_signals.md R484, R485, R491). -/
structure Plat where
  /-- Rails in regulation, in the order of R444: 1 always-on, 2 Gable, 3 Batten and HBM, 4 Ridge, 5 Slate. -/
  rails : Nat := 5
  /-- A power-up sequence is running. -/
  rising : Bool := false
  /-- The package is down for a cause other than PG_IN, and PG_IN has not been low since (R445). -/
  latched : Bool := false
  pgIn : Bool := true
  resetN : Bool := true
  perstN : Bool := true
  /-- The internal reset of R485 is released. -/
  running : Bool := true
  /-- THERM_TRIP_N is asserted, R449. -/
  thermTrip : Bool := false
  straps : Straps := ⟨false, false, false, 0⟩
  /-- The part is a GL4-432-LF, R2. -/
  lf : Bool := false
  /-- The instruction in the TAP, R491. -/
  tap : TapOp := .bypass
  deriving DecidableEq, Repr

/-- The block: the package, its pins and power stage, and the commands that wait, oldest first. -/
structure State where
  chip : Chip := {}
  plat : Plat := {}
  pending : List Instr := []
  deriving DecidableEq, Repr

/-- The package right after its internal reset is released, with straps open and fresh flash (assumptions 1 to 3). -/
def State.reset : State := {}

/-- Why the machine stops with a fault. No rule stops the part: every refusal of the manual is a status code and every
error a state (INVENTORY.md, Faults), so no meaning raises one. -/
inductive Fault where
  /-- Raised by nothing: the part has no stop of its own. Safe. -/
  | halted
  deriving DecidableEq, Repr

/-- Why a command has no meaning. -/
inductive Refusal where
  /-- Raised by an arm of `exec` that has no meaning yet. Safe. -/
  | notModelled (mnemonic : String)
  deriving DecidableEq, Repr

end Sys2Proof.Machine
end

