-- ==== Sys2Proof/Machine/Ops.lean ====
section
/-! DEFINITION. Named operations over the state: dictionary words, the event log, jobs, memory, tile registers, streams
and signals. -/

namespace Sys2Proof.Machine

/-- The effect of a command on the package. It acts only while the internal reset is released; each command draws fresh
free values and drops what the last one sent. -/
def onChip (f : Chip → Chip) (s : State) : Host.Outcome State Fault Refusal :=
  .next (if s.plat.running then { s with chip := f { s.chip with out := [], free := s.chip.free + 1 } } else s)

/-- Core c belongs to the job (ROLE_MAP, R42). -/
def jobHasCore (x : Job) (c : Nat) : Bool := x.roles.any (fun r => r.2.getLsbD c)

/-- The role of a core, R42. -/
def jobRole (x : Job) (c : Nat) : Option Nat := (x.roles.find? (fun r => r.2.getLsbD c)).map Prod.fst

/-- The cores of the job, ascending. -/
def jobCores (x : Job) : List Nat := (List.range 256).filter (jobHasCore x)

/-- Whether the job holds object o, R247. -/
def jobHoldsObj (x : Job) (o : Nat) : Bool :=
  if o < 16384 then jobHasCore x (o / 64) && decide (o % 64 < x.res.objects) else x.res.services.getLsbD (o - 16384)

/-- Whether the job is coupled, R32. -/
def jobCoupled (x : Job) : Bool := x.coupling.isSome

/-- The step object of a job, R376. -/
def jobStepObj (x : Job) : Option Nat :=
  match x.training with
  | some t => some t.stepObj
  | none => if jobCoupled x then some (x.exchange.getD 0 0) else none

namespace Chip

/-! ## Dictionary words and counters -/

/-- The word at a subindex. -/
def reg (s : Chip) (ix sub : Nat) : Nat :=
  (SMap.get (Objects.dflt (Objects.key ix sub)) s.regs (Objects.key ix sub)).toNat

/-- Put a word at a subindex. -/
def setReg (s : Chip) (ix sub v : Nat) : Chip :=
  { s with regs := SMap.set (Objects.dflt (Objects.key ix sub)) s.regs (Objects.key ix sub) (BitVec.ofNat 64 v) }

/-- Add to a counter, wrapping at 2^64. -/
def bump (s : Chip) (ix sub n : Nat) : Chip := s.setReg ix sub (s.reg ix sub + n)

/-- Own node number, R289. -/
def node (s : Chip) : Nat := s.reg 0x4001 1
/-- G3_COMPAT and JADE_MODE. -/
def g3 (s : Chip) : Bool := s.reg 0x2010 1 = 1
def jade (s : Chip) : Bool := s.reg 0x2020 1 = 1
/-- PARTITION_ENABLE. -/
def partition (s : Chip) : Bool := s.reg 0x7000 1 = 1

/-! ## Jobs -/

def job (s : Chip) (j : Nat) : Option Job := SMap.get none s.jobs j
def setJob (s : Chip) (j : Nat) (x : Option Job) : Chip := { s with jobs := SMap.set none s.jobs j x }

/-- Change the job of a slot, where there is one. -/
def updJob (s : Chip) (j : Nat) (f : Job → Job) : Chip :=
  match s.job j with
  | some x => s.setJob j (some (f x))
  | none => s

/-- The first slot whose job satisfies a test; 0xFF for none. -/
def slotWhere (s : Chip) (p : Job → Bool) : Nat :=
  match s.jobs.find? (fun e => match e.2 with | some x => p x | none => false) with
  | some e => e.1
  | none => 0xFF

/-- The slot of the job that holds a core, solver unit, channel or a JOB_ID; 0xFF for none. -/
def slotOfCore (s : Chip) (c : Nat) : Nat := s.slotWhere (fun x => jobHasCore x c)
def slotOfSolver (s : Chip) (k : Nat) : Nat := s.slotWhere (fun x => x.res.solvers.getLsbD k)
def slotOfChannel (s : Chip) (n : Nat) : Nat := s.slotWhere (fun x => x.res.channels.getLsbD n)
def slotOfJobId (s : Chip) (id : U64) : Nat := s.slotWhere (fun x => x.jobId = id)

/-- A job uses engine 2k + e when its count covers e and it holds a core of cluster k (R43, R232). -/
def jobHasEngine (x : Job) (e : Nat) : Bool :=
  decide (e % 2 < x.res.engines) && (List.range 4).any (fun i => jobHasCore x (4 * (e / 2) + i))

def slotOfEngine (s : Chip) (e : Nat) : Nat := s.slotWhere (fun x => jobHasEngine x e)

/-- Job status entry f of slot j, R429. -/
def setStatus (s : Chip) (j f v : Nat) : Chip := s.setReg 0x6001 (16 * j + f) v
def jobState (s : Chip) (j : Nat) : Nat := s.reg 0x6001 (16 * j + 2)

/-! ## The event log, R431 -/

/-- A record matches a subscription: its class, and its slot or PKG (R432). -/
def subMatches (u : Subscription) (r : LogRec) : Bool :=
  bit u.classMask (r.code / 256) && (if r.slot = 0xFF then u.pkg else bit u.slotMask r.slot)

/-- A subscription has not had a matching record acknowledged. -/
def subAwaits (u : Subscription) (r : LogRec) : Bool := subMatches u r && (decide (u.next ≤ r.seq) || u.sent.contains r.seq)

/-- What an overwritten record leaves of a subscription: it is lost where it had not been acknowledged. -/
def subDrop (r : LogRec) (u : Subscription) : Subscription :=
  { u with next := max u.next (r.seq + 1), sent := u.sent.filter (fun n => n ≠ r.seq)
           lost := if subAwaits u r then u.lost + 1 else u.lost }

/-- The oldest record is overwritten: OLDEST_SEQ rises, and OVERWRITTEN counts it where a matching subscription had not
acknowledged it. -/
def dropOldest (s : Chip) : Chip :=
  match s.log.getLast? with
  | none => s
  | some r =>
    let subs := s.dap.sessions.flatMap (·.subs)
    let s1 := ({ s with
      log := s.log.dropLast
      dap := { s.dap with sessions := s.dap.sessions.map (fun (x : Session) => { x with subs := x.subs.map (subDrop r) }) } }).bump
        0x8200 2 1
    if subs.any (fun u => subAwaits u r) then s1.bump 0x8200 4 1 else s1

/-- Enter a record. The 65,536 newest stay. -/
def addLog (s : Chip) (code slot kind source : Nat) (detail : List Byte) : Chip :=
  let s0 := if 65536 ≤ s.log.length then s.dropOldest else s
  let n := s0.reg 0x8200 1
  { s0.setReg 0x8200 1 (n + 1) with log := ⟨n, Config.freeTime s.free n, code, slot, kind, source, detail⟩ :: s0.log }

/-! ## Non-determinism counter, R383 and R384 -/

/-- Count `n` choices under cause subindex `sub`, for job slot j (0xFF: no admitted job). -/
def countNd (s : Chip) (sub j n : Nat) : Chip :=
  let s1 := (s.bump 0x8010 1 n).bump 0x8010 sub n
  if j < 8 then s1.bump 0x8010 (0x11 + j) n else s1

/-! ## Streams, R99 -/

def stream (s : Chip) (c st : Nat) : Stream := SMap.get {} s.streams (4 * c + st)
def setStream (s : Chip) (c st : Nat) (x : Stream) : Chip := { s with streams := SMap.set {} s.streams (4 * c + st) x }
def updStream (s : Chip) (c st : Nat) (f : Stream → Stream) : Chip := s.setStream c st (f (s.stream c st))

/-- Unit ID of a stream of this package. -/
def streamUnit (s : Chip) (c st : Nat) : Nat := mkUnit 1 s.node (4 * c + st)
def solverUnit (s : Chip) (k : Nat) : Nat := mkUnit 2 s.node k
def engineUnit (s : Chip) (e : Nat) : Nat := mkUnit 3 s.node e
def buristUnit (s : Chip) : Nat := mkUnit 4 s.node 0
def collectiveUnit (s : Chip) (r : Nat) : Nat := mkUnit 6 s.node r

/-- FIRST_ERROR of a slot takes the first non-OK completion, R429. -/
def noteError (s : Chip) (j unit code : Nat) : Chip :=
  if j < 8 && SMap.get (List.replicate 8 0) s.firstError j = List.replicate 8 0 then
    { s with firstError := SMap.set (List.replicate 8 0) s.firstError j (leBytes 4 unit ++ leBytes 2 code ++ [0, 0]) }
  else s

/-- Record a completion code of a stream: the sticky STREAM_STATUS, the event log and the job status (R99). The command's
index in the stream stands in the first eight bytes of DETAIL. -/
def record (s : Chip) (c st code index : Nat) : Chip :=
  if code = 0 then s
  else
    let j := s.slotOfCore c
    let u := s.streamUnit c st
    let s1 := s.updStream c st (fun x => { x with status := Code.first x.status code })
    (s1.noteError j u code).addLog code j 0 u (leBytes 8 index)

/-- The region object that holds an offset: its index, R219. -/
def regionAt (s : Chip) (off : Nat) : Option Nat :=
  ((List.range 64).map (fun i => 0x5100 + i)).find? (fun ix =>
    decide (s.reg ix 1 ≤ off) && decide (off < s.reg ix 1 + s.reg ix 2))

/-- The HBM stack that holds a line, R29. -/
def stackOfLine (line : Nat) : Nat :=
  let d := 64 * line / stackBytes
  3 * d + (64 * line - d * stackBytes) / 4096 % 3

/-- The first byte of [off, off + n) in a poisoned line. -/
def firstPoisoned (s : Chip) (off n : Nat) : Option Nat :=
  (s.poison.find? (fun p => p.2 && decide (off < 64 * (p.1 + 1)) && decide (64 * p.1 < off + n))).map (fun p => max off (64 * p.1))

/-- A read of [off, off + n) of HBM that meets a poisoned line has returned DETECTED_UNCORRECTABLE: UNCORRECTABLE of its stack
counts it (R223, R243), once for a command, at its first poisoned line (DEDUCED, log entry 94). -/
def countBad (s : Chip) (off n : Nat) : Chip :=
  match s.firstPoisoned off n with
  | some a => if a < hbmEnd then s.bump 0x80BB (stackOfLine (a / 64) + 1) 1 else s
  | none => s

/-- DETAIL of a memory error: node offset and region index (DETAIL_KIND 2). -/
def placeDetail (s : Chip) (off : Nat) : List Byte := leBytes 8 off ++ leBytes 2 ((s.regionAt off).getD 0xFFFF)

/-- As `record`, with the failing address of R220, or the poisoned byte of R223. -/
def recordAt (s : Chip) (c st code addr : Nat) : Chip :=
  if code = 0 then s
  else
    let j := s.slotOfCore c
    let u := s.streamUnit c st
    let off := addrOff addr
    let s1 := s.updStream c st (fun x => { x with status := Code.first x.status code })
    let s2 := if code = Code.uncorrectable then s1.countBad off 1 else s1
    (s2.noteError j u code).addLog code j 2 u (s2.placeDetail off)

/-- Record a code with its failing address, where it has one. -/
def recordFault (s : Chip) (c st code index : Nat) (bad : Option Nat) : Chip :=
  match bad with
  | some a => s.recordAt c st code a
  | none => s.record c st code index

/-! ## Signals, R249 -/

/-- Remote writes of Burist, the safety monitor or a collective engine that a signal of it follows (R258). -/
def openWrites (s : Chip) (unit : Nat) : List (Nat × Nat × Nat) :=
  if unitKind unit < 4 then []
  else (s.fab.requests.filter (fun r => r.unit = unit)).map (fun r => (r.dest, r.flow, r.seq))

/-- Send a signal of `amount` to object `o` from a unit whose work is confined to the objects of a job slot (R247). -/
def postFor (s : Chip) (slot o amount unit : Nat) : Chip :=
  { s with posted := s.posted ++ [{ obj := o, amount := BitVec.ofNat 64 amount, unit := BitVec.ofNat 32 unit, entry := none
                                    slot := slot, after := s.openWrites unit }] }

/-- Send a signal of `amount` to object `o` from a unit. -/
def post (s : Chip) (o amount unit : Nat) : Chip := s.postFor 0xFF o amount unit

/-- The SIGNAL_OBJ of a command of core c: index 0–63, 0xFFFF none. -/
def postOwn (s : Chip) (c st obj : Nat) : Chip := if obj < 64 then s.post (64 * c + obj) 1 (s.streamUnit c st) else s

/-- End a command of a stream: record its code, then signal its SIGNAL_OBJ (R99, R127). -/
def finish (s : Chip) (c st code index obj : Nat) : Chip := (s.record c st code index).postOwn c st obj

/-- As `finish`, with the failing address. -/
def finishAt (s : Chip) (c st code index obj : Nat) (bad : Option Nat) : Chip :=
  (s.recordFault c st code index bad).postOwn c st obj

/-- A SIGNAL_OBJ that is an object reference. -/
def postRef (s : Chip) (r unit : Nat) : Chip := if r = 0xFFFF then s else s.post (objOfRef r) 1 unit

def obj (s : Chip) (o : Nat) : Obj := SMap.get {} s.objs o
def setObj (s : Chip) (o : Nat) (x : Obj) : Chip := { s with objs := SMap.set {} s.objs o x }

/-! ## Memory, R28, R220, R223 -/

/-- The bytes at a node offset. -/
def readMem (s : Chip) (off n : Nat) : List Byte := SMap.getRange 0 s.mem off n

/-- Whether a poisoned line meets [off, off + n). -/
def poisoned (s : Chip) (off n : Nat) : Bool :=
  s.poison.any (fun p => p.2 && decide (off < 64 * (p.1 + 1)) && decide (64 * p.1 < off + n))

/-- The bytes a unit reads at a node offset: bytes of a poisoned line are free values (R223), and the code says so. -/
def load (s : Chip) (off n : Nat) : List Byte × Nat :=
  if s.poisoned off n then
    ((List.range n).map (fun i =>
      if SMap.get false s.poison ((off + i) / 64) then Config.freeBytes s.free off i else SMap.get 0 s.mem (off + i)),
     Code.uncorrectable)
  else (s.readMem off n, 0)


def spoilTile (s : Chip) (b n : Nat) : Chip :=
  { s with tiles := SMap.setRange 0 s.tiles b ((List.range n).map (fun i => Config.freeBytes s.free b i)) }

/-- Mark or clear the poison of a line; POISONED of its region follows. -/
def setPoison (s : Chip) (line : Nat) (b : Bool) : Chip :=
  if SMap.get false s.poison line = b then s
  else
    let s1 := { s with poison := SMap.set false s.poison line b }
    match s.regionAt (64 * line) with
    | some ix => s1.setReg ix 6 (if b then s.reg ix 6 + 1 else s.reg ix 6 - 1)
    | none => s1

/-- Lines wholly inside, and lines partly inside, [off, off + n). -/
def fullLine (off n line : Nat) : Bool := decide (off ≤ 64 * line) && decide (64 * line + 64 ≤ off + n)

/-- Write bytes past all guards: a full write of a line clears its poison; a partial write to a poisoned line is refused
and does not change that line (R223). -/
def storeRaw (s : Chip) (off : Nat) (bs : List Byte) : Nat × Chip :=
  if s.poisoned off bs.length then
    let hit := (s.poison.filter (fun p => p.2 && decide (off < 64 * (p.1 + 1)) && decide (64 * p.1 < off + bs.length))).map Prod.fst
    let keep := hit.filter (fun l => !fullLine off bs.length l)
    let s1 := (hit.filter (fullLine off bs.length)).foldl (fun s l => s.setPoison l false) s
    let old (l : Nat) := s.readMem (64 * l) 64
    let s2 := { s1 with mem := SMap.setRange 0 s1.mem off bs }
    let s3 := keep.foldl (fun (t : Chip) l => { t with mem := SMap.setRange 0 t.mem (64 * l) (old l) }) s2
    (if keep.isEmpty then 0 else Code.uncorrectable, s3)
  else (0, { s with mem := SMap.setRange 0 s.mem off bs })

def engine (s : Chip) (e : Nat) : Engine := SMap.get {} s.engines e
def setEngine (s : Chip) (e : Nat) (x : Engine) : Chip := { s with engines := SMap.set {} s.engines e x }

/-- The 64 KiB granules that [off, off + n) meets. -/
def granules (off n : Nat) : List Nat :=
  if n = 0 then [] else List.range' (off / 65536) ((off + n - 1) / 65536 - off / 65536 + 1)

/-- The engine whose guard covers a byte of [off, off + n), with the granule (R240). -/
def guardAt (s : Chip) (off n : Nat) : Option (Nat × Nat) :=
  let gs := granules off n
  (s.engines.filterMap (fun e =>
    (gs.find? (fun g => e.2.service.any (fun r => r.granules.contains g))).map (fun g => (e.1, g)))).head?

/-- The parts of a write that reach one granule each. -/
def granuleParts (off : Nat) (bs : List Byte) : List (Nat × List Byte) :=
  (granules off bs.length).map (fun g =>
    let a := max off (65536 * g)
    (a, (bs.drop (a - off)).take (65536 * (g + 1) - a)))

/-- A write stalls at the guard of engine e, and its granule is promoted (R240). -/
def stallAt (s : Chip) (e g : Nat) (w : StalledWrite) : Chip :=
  let x := s.engine e
  s.setEngine e { x with
    promoted := if x.promoted.contains g then x.promoted else x.promoted ++ [g], stalled := x.stalled ++ [w] }

/-- A write that has stalled counts once for each engine and each descriptor whose guards it met (R240, R243). -/
def countStall (s : Chip) (gs : List Nat) (e : Nat) : Chip :=
  let x := s.engine e
  (s.bump (0x80CC + e / 32) (e % 32 + 1) 1).setEngine e { x with
    service := x.service.map (fun r => if gs.any (r.granules.contains ·) then { r with guardStalls := r.guardStalls + 1 } else r) }

/-- One part of a write: it stalls at the guard of its granule, or lands. -/
def storePart (units : List Nat) (atomic : Option Msg) (a : Nat × Chip) (p : Nat × List Byte) : Nat × Chip :=
  match a.2.guardAt p.1 p.2.length with
  | some (e, g) => (a.1, a.2.stallAt e g { units := units, addr := p.1, bytes := p.2, atomic := atomic })
  | none => let r := a.2.storeRaw p.1 p.2; (Code.first a.1 r.1, r.2)

/-- A write on behalf of some units to local memory or HBM. What meets a guarded granule stalls at the directory (R240). -/
def storeFor (s : Chip) (units : List Nat) (off : Nat) (bs : List Byte) (atomic : Option Msg) : Nat × Chip :=
  if bs.isEmpty then (0, s)
  else match s.guardAt off bs.length with
    | none => s.storeRaw off bs
    | some _ =>
      let gs := granules off bs.length
      let met := (gs.filterMap (fun g => (s.guardAt (65536 * g) 1).map Prod.fst)).eraseDups
      (granuleParts off bs).foldl (storePart units atomic) (0, met.foldl (fun (t : Chip) e => t.countStall gs e) s)

/-- A write by a unit. -/
def store (s : Chip) (unit off : Nat) (bs : List Byte) : Nat × Chip := s.storeFor [unit] off bs none

/-- Whether a write of the unit waits at a guard. -/
def stalledBy (s : Chip) (unit : Nat) : Bool := s.engines.any (fun e => e.2.stalled.any (fun w => w.units.contains unit))

/-- Write and drop the status. -/
def put (s : Chip) (unit off : Nat) (bs : List Byte) : Chip := (s.store unit off bs).2

/-- Write what must be visible only after the unit's earlier writes: while one of those waits at a guard, it waits behind it (R196,
R336). -/
def putAfter (s : Chip) (unit off : Nat) (bs : List Byte) : Chip :=
  match s.engines.find? (fun e => e.2.stalled.any (fun w => w.units.contains unit)) with
  | some e => s.setEngine e.1 { e.2 with stalled := e.2.stalled ++ [{ units := [unit], addr := off, bytes := bs, after := true }] }
  | none => s.put unit off bs

/-- What a stalled write of a unit still has to write, with the bytes of [off, off + n) replaced by free ones. -/
def spoilStalled (free unit off n : Nat) (w : StalledWrite) : StalledWrite :=
  if w.units.contains unit then
    { w with bytes := (SMap.number w.addr w.bytes).map (fun b =>
        if off ≤ b.1 && b.1 < off + n then Config.freeBytes free off (b.1 - off) else b.2) }
  else w

/-- Overwrite what a unit has written to a range with free bytes: what its own parity error or a failed read leaves of its outputs
(R119, R144, R236). What a guard still holds back is overwritten where it waits. -/
def spoil (s : Chip) (unit off n : Nat) : Chip :=
  let t := (granuleParts off ((List.range n).map (fun i => Config.freeBytes s.free off i))).foldl (fun (t : Chip) p =>
    if (t.guardAt p.1 p.2.length).isSome then t else { t with mem := SMap.setRange 0 t.mem p.1 p.2 }) s
  { t with engines := t.engines.map (fun e => (e.1, { e.2 with stalled := e.2.stalled.map (spoilStalled s.free unit off n) })) }

/-- Whether every byte of [a, last) lies in a region of job slot j. -/
def coveredTo (s : Chip) (j last : Nat) : Nat → Nat → Bool
  | 0, a => decide (last ≤ a)
  | k + 1, a => decide (last ≤ a) || (List.range 8).any (fun i =>
      let base := s.reg (0x5100 + 8 * j + i) 1
      let size := s.reg (0x5100 + 8 * j + i) 2
      decide (base ≤ a) && decide (a < base + size) && s.coveredTo j last k (base + size))

/-- Whether [off, off + n) lies in the regions of job slot j, R220. -/
def inRegions (s : Chip) (j off n : Nat) : Bool := s.coveredTo j (off + n) 8 off

/-- The check of R220 on a range of memory for job slot j. `own` says that the field is confined to the own node. -/
def checkRange (s : Chip) (j addr n : Nat) (own : Bool) : Nat :=
  let off := addrOff addr
  if addrClass addr = 3 || addrClass addr = 2 then Code.outOfRange
  else if addrNode addr ≠ s.node then (if own then Code.outOfRange else 0)
  else if off < hbmEnd then
    if hbmEnd < off + n then Code.outOfRange
    else if s.inRegions j off n then 0 else Code.accessDenied
  else if localBase ≤ off && off < localEnd then
    if localEnd < off + n then Code.outOfRange
    else match s.job j with
      | some x =>
        if (List.range' ((off - localBase) / coreBytes) ((off - localBase + (n - 1)) / coreBytes - (off - localBase) / coreBytes + 1)).all
          (fun c => jobHasCore x c) then 0 else Code.accessDenied
      | none => Code.accessDenied
  else Code.outOfRange

/-- Where memory changes its owner: the regions' ends, the cores' local memory, and the ends of the two ranges. -/
def borders (s : Chip) (off n : Nat) : List Nat :=
  (List.range 64).flatMap (fun i => [s.reg (0x5100 + i) 1, s.reg (0x5100 + i) 1 + s.reg (0x5100 + i) 2])
    ++ [hbmEnd, localBase, localEnd]
    ++ (if localBase ≤ off then (List.range (n / coreBytes + 2)).map (fun i => localOf ((off - localBase) / coreBytes + i)) else [])

/-- The first byte of [addr, addr + n) that a check of one byte refuses, R220. -/
def failsAt (s : Chip) (chk : Nat → Nat) (addr n : Nat) : Option Nat :=
  let off := addrOff addr
  let more := ((s.borders off n).filter (fun b => decide (off < b) && decide (b < off + n))).mergeSort (· ≤ ·)
  (addr :: more.map (fun b => addr - off + b)).find? (fun a => chk a ≠ 0)

/-- The failing address of a command that ends with a code of R220 or R223, by the ranges it reads and writes: the first byte that
the check refuses, or the first in a poisoned line. -/
def firstBad (s : Chip) (chk : Nat → Nat) (code : Nat) (ranges : List (Nat × Nat)) : Option Nat :=
  if code = Code.uncorrectable then ranges.findSome? (fun r => s.firstPoisoned (addrOff r.1) r.2)
  else if code = Code.outOfRange || code = Code.accessDenied then ranges.findSome? (fun r => s.failsAt chk r.1 r.2)
  else none

/-- The check of R95, R125 on a field that must lie in the own core's local memory, class 00: the codes of R220 first. -/
def checkOwn (s : Chip) (c addr n : Nat) : Nat :=
  let off := addrOff addr
  if addrClass addr ≠ 0 || addrNode addr ≠ s.node then Code.outOfRange
  else Code.first (s.checkRange (s.slotOfCore c) addr n true)
    (Code.need (localOf c ≤ off && off + n ≤ localOf c + coreBytes) Code.outOfRange)

/-- Whether [addr, addr + n) lies in the local memory of core c, class 00, own node. -/
def inOwnLocal (s : Chip) (c addr n : Nat) : Bool :=
  addrClass addr = 0 && decide (addrNode addr = s.node) && decide (localOf c ≤ addrOff addr)
    && decide (addrOff addr + n ≤ localOf c + coreBytes)

/-! ## Tile registers and predicates, R121, R128 -/

/-- Bytes of the flat tile file of core c from byte `b` on. -/
def readTile (s : Chip) (c b n : Nat) : List Byte := SMap.getRange 0 s.tiles (2 ^ 19 * c + b) n

def writeTile (s : Chip) (c b : Nat) (bs : List Byte) : Chip :=
  { s with tiles := SMap.setRange 0 s.tiles (2 ^ 19 * c + b) bs }

/-- p0 reads as all ones (R128). -/
def pred (s : Chip) (c p : Nat) : BitVec 256 := if p = 0 then BitVec.allOnes 256 else SMap.get 0 s.preds (16 * c + p)

/-- Write a predicate register; p0 cannot be written. -/
def setPred (s : Chip) (c p : Nat) (v : BitVec 256) : Chip :=
  if p = 0 then s else { s with preds := SMap.set 0 s.preds (16 * c + p) v }

/-- Tile registers that the core's job declared (R121, KIND 0x0004). -/
def tileCount (s : Chip) (c : Nat) : Nat :=
  match s.job (s.slotOfCore c) with
  | some x => x.res.tileRegs
  | none => 64

/-! ## Unit states, R117, R213, R238, R371, R433 -/

def arrayState (s : Chip) (c a : Nat) : Nat := s.reg (0x3300 + 2 * (c / 64) + a) (c % 64 + 1)
def setArrayState (s : Chip) (c a v : Nat) : Chip := s.setReg (0x3300 + 2 * (c / 64) + a) (c % 64 + 1) v
def coreState (s : Chip) (c : Nat) : Nat := s.reg (0x3100 + c / 64) (c % 64 + 1)
def setCoreState (s : Chip) (c v : Nat) : Chip := s.setReg (0x3100 + c / 64) (c % 64 + 1) v
def solverState (s : Chip) (k : Nat) : Nat := s.reg (0x3200 + k / 16) (k % 16 + 1)
def setSolverState (s : Chip) (k v : Nat) : Chip := s.setReg (0x3200 + k / 16) (k % 16 + 1) v
/-- Engine e = 2k + i is at subindex 2 (k mod 16) + i + 1, R238. -/
def engineState (s : Chip) (e : Nat) : Nat := s.reg (0x5200 + e / 32) (e % 32 + 1)
def setEngineState (s : Chip) (e v : Nat) : Chip := s.setReg (0x5200 + e / 32) (e % 32 + 1) v
def channelState (s : Chip) (n : Nat) : Nat := s.reg (0x7100 + n) 1
def setChannelState (s : Chip) (n v : Nat) : Chip := s.setReg (0x7100 + n) 1 v

def array (s : Chip) (c a : Nat) : Arr := SMap.get {} s.arrays (2 * c + a)
def setArray (s : Chip) (c a : Nat) (x : Arr) : Chip := { s with arrays := SMap.set {} s.arrays (2 * c + a) x }
def chan (s : Chip) (n : Nat) : Chan := SMap.get {} s.channels n
def setChan (s : Chip) (n : Nat) (x : Chan) : Chip := { s with channels := SMap.set {} s.channels n x }
def solver (s : Chip) (k : Nat) : List SolveRun := SMap.get [] s.solvers k
def setSolver (s : Chip) (k : Nat) (x : List SolveRun) : Chip := { s with solvers := SMap.set [] s.solvers k x }
def ve (s : Chip) (c : Nat) : List VeRun := SMap.get [] s.ves c
def setVe (s : Chip) (c : Nat) (x : List VeRun) : Chip := { s with ves := SMap.set [] s.ves c x }

/-- Counter i of array a of core c (R120), of VE c (R145), of solver k (R215), of engine e (R243), of core c (R270). -/
def bumpArray (s : Chip) (c a i n : Nat) : Chip := s.bump (0x8040 + 8 * i + 2 * (c / 64) + a) (c % 64 + 1) n
def bumpVe (s : Chip) (c i n : Nat) : Chip := s.bump (0x8070 + 4 * i + c / 64) (c % 64 + 1) n
def bumpSolver (s : Chip) (k i n : Nat) : Chip := s.bump (0x8080 + 4 * i + k / 16) (k % 16 + 1) n
def bumpEngine (s : Chip) (e i n : Nat) : Chip := s.bump (0x80C0 + 4 * i + e / 32) (e % 32 + 1) n
def bumpSync (s : Chip) (c i n : Nat) : Chip := s.bump (0x80E0 + 4 * i + c / 64) (c % 64 + 1) n

/-! ## Conversion blocks and tensor descriptors -/

/-- Read the conversion block at a node offset. -/
def readConv (s : Chip) (off : Nat) : Conv := Conv.ofBytes (s.readMem off 32)

def useConv (s : Chip) (off : Nat) : Chip := { s with convUse := s.convUse ++ [off] }
def freeConv (s : Chip) (off : Nat) : Chip := { s with convUse := s.convUse.filter (fun a => a ≠ off) }

/-- Set COARSE_OUT of a conversion block at the start of a conversion that derives it (R88). -/
def setCoarseOut (s : Chip) (unit off coarse : Nat) : Chip :=
  let c := s.readConv off
  if c.fmt.hasCoarse && c.coarseMode ≠ 0 then s.put unit (off + 16) (leBytes 4 coarse) else s

/-- Update a conversion block at a completion with OK (R89). -/
def updateConv (s : Chip) (unit off : Nat) (amax : FVal) : Chip :=
  let c := s.readConv off
  let s1 := if c.coarseMode = 1 then s.put unit (off + 20) (leBytes 4 (ru32 amax)) else s
  if c.amaxEn then s1.put unit (off + 24) (leBytes 4 (ru32 amax)) else s1

/-- The tensor of job slot j whose element plane holds a node offset. -/
def tensorAt (s : Chip) (j off : Nat) : Option Tensor :=
  match s.job j with
  | some x => x.tensors.find? (fun t => t.pieces.any (fun p =>
      decide (p.1 ≤ off) && decide (off < p.1 + Bundle.elemBytes t / max 1 t.splitCount)))
  | none => none

/-- Set the coarse scale of a tensor descriptor, R88. -/
def setCoarse (s : Chip) (j id coarse : Nat) : Chip :=
  s.updJob j (fun x => { x with tensors := x.tensors.map (fun t =>
    if t.id = id then { t with coarse := BitVec.ofNat 32 coarse } else t) })

end Chip

end Sys2Proof.Machine
end

