-- ==== Sys2Proof/Machine/Fabric.lean ====
section
/-! DEFINITION. Routing and sending of messages (spec/10_links_and_topology.md R289 to R297), combining, rate limits and
Eave gateways (spec/11_remote_memory.md R311 to R327), and the requests of this package's units (R313, R328). -/

/-- What this package takes a received code for: itself where R15 lists it, else a listed code of the class of its high byte,
else any listed failure; the package chooses which (R16). -/
def Sys2Proof.Code.received (pick code : Nat) : Nat :=
  if Code.listed.contains code then code
  else
    let fails := Code.listed.filter (· ≠ 0)
    let like := fails.filter (fun c => c / 256 = code / 256)
    let cs := if like.isEmpty then fails else like
    cs.getD (pick % cs.length) Code.peerUnreachable

/-- A port state that is live, R273. -/
def Sys2Proof.isLive (st : Nat) : Bool := st = 3 || st = 4 || st = 5

/-- The link of a record counts for reachability: its port is live, or retrains, when messages queue behind it (R275, R303). -/
def Sys2Proof.LinkRecord.up (r : LinkRecord) : Bool := isLive r.state.val || r.state = 6

namespace Sys2Proof.Machine

/-! ## Nodes and groups, R289 -/

def groupOf (n : Nat) : Nat := n / 24
def isPackage (n : Nat) : Bool := n < 13848
def isEndpoint (n : Nat) : Bool := 13848 ≤ n && n < 16384
def sameGroup (a b : Nat) : Bool := isPackage a && isPackage b && groupOf a = groupOf b

/-! ## Message bytes, R311, R312, R338, R469 -/

def partBytes (p : Constituent) : List Byte :=
  leBytes 4 p.unit.toNat ++ leBytes 2 p.flow.toNat ++ leBytes 2 p.epoch.toNat ++ leBytes 4 p.seq.toNat ++ [p.cflags, 0, 0, 0]
    ++ leBytes 8 p.pfx.toNat

def msgBytes (m : Msg) : List Byte :=
  [m.mtype, m.mflags, BitVec.ofNat 8 m.parts.length, m.aop] ++ leBytes 2 m.dest.toNat ++ leBytes 2 m.srcNode.toNat
    ++ leBytes 8 m.address.toNat ++ leBytes 8 m.jobId.toNat ++ leBytes 4 m.length.toNat ++ leBytes 2 m.age.toNat
    ++ [m.atype, 0] ++ leBytes 8 m.operand.toNat ++ leBytes 8 m.operand2.toNat ++ m.parts.flatMap partBytes ++ m.data

/-- A BATCH: a header whose data are complete messages, R326. -/
def batchBytes (dest src : Nat) (ms : List Msg) : List Byte :=
  let body := ms.flatMap msgBytes
  [0x08, 0, 0, 0] ++ leBytes 2 dest ++ leBytes 2 src ++ List.replicate 16 0 ++ leBytes 4 body.length
    ++ List.replicate 20 0 ++ body

/-- The header of a collective message and its data. What START and LEASE carry beyond the header has no stated layout. -/
def collBytes (m : CollMsg) (tail : List Byte) (mtype : Nat) : List Byte :=
  [BitVec.ofNat 8 mtype, m.mflags] ++ leBytes 2 m.dest.toNat ++ leBytes 2 m.srcNode.toNat ++ [m.comm, m.algo]
    ++ leBytes 8 m.jobId.toNat ++ leBytes 4 m.seq.toNat ++ leBytes 4 m.segment.toNat ++ leBytes 4 (m.data.length + tail.length)
    ++ leBytes 2 m.status.toNat ++ [0, 0] ++ m.data ++ tail

def safetyBytes (m : SafetyMsg) (mtype : Nat) : List Byte :=
  [BitVec.ofNat 8 mtype, m.cause] ++ leBytes 2 m.dest.toNat ++ leBytes 2 m.srcNode.toNat ++ [0, 0] ++ leBytes 4 m.seq.toNat
    ++ List.replicate 4 0 ++ leBytes 8 m.jobId.toNat ++ List.replicate 8 0

/-- The 32-byte header of a DAP frame, R420. -/
def dapHeader (f : DapFrame) : List Byte :=
  leBytes 2 f.magic.toNat ++ [f.version, f.msgType] ++ leBytes 4 f.sessionId.toNat ++ leBytes 4 f.msgSeq.toNat
    ++ leBytes 4 f.requestId.toNat ++ leBytes 2 f.targetNode.toNat ++ leBytes 2 f.sourceNode.toNat
    ++ leBytes 2 f.bodyLength.toNat ++ [f.frag, f.reserved] ++ leBytes 2 f.status.toNat ++ leBytes 6 f.reservedTail.toNat

def dapBytes (f : DapFrame) : List Byte := dapHeader f ++ f.body ++ f.tag

/-- A DAP frame on the management lane, R424. -/
def dapMessage (dest src : Nat) (f : DapFrame) : List Byte :=
  [1, 0] ++ leBytes 2 dest ++ leBytes 2 src ++ leBytes 2 (dapBytes f).length ++ dapBytes f

/-- The bytes of a message; `n` tells apart the messages of one command whose layout is not stated. -/
def wireBytes (free n : Nat) (w : Wire) : List Byte :=
  match w with
  | .msg m => msgBytes m
  | .batch d s ms => batchBytes d s ms
  | .coll t m => collBytes m (if t = 0x20 || t = 0x22 then Config.freeMessage free n else []) t
  | .safety t m => safetyBytes m t
  | .dap d s f => dapMessage d s f
  | _ => Config.freeMessage free n

/-- The buffer of a lane and hop class, in the order of R281. -/
def bufIx (vl hop : Nat) : Nat := 8 * vl + hop

/-- Flits of a message body of `n` bytes, R279. -/
def flitsOf (n : Nat) : Nat := max 1 (ceilDiv n 244)

/-! ## Atomic operations, R309, R319 -/

/-- Bytes of an ATYPE. -/
def atypeBytes (atype : Nat) : Nat := if atype = 1 then 8 else 4

/-- AOP and ATYPE that R309 pairs. -/
def atomicOk (aop atype : Nat) : Bool :=
  (aop ∈ [0x01, 0x02, 0x03, 0x10, 0x11] && decide (atype ≤ 2)) || (aop ∈ [0x04, 0x05, 0x06] && decide (atype ≤ 1))

def combinableAop (aop : Nat) : Bool := aop ∈ [0x01, 0x02, 0x03, 0x04, 0x05, 0x06]

/-- The new value of a combinable operation, on codes. -/
def atomicOp (aop atype v x : Nat) : Nat :=
  let w := 8 * atypeBytes atype
  if atype = 2 then
    let r := match aop with
      | 0x02 => FVal.min2 (f32 v) (f32 x)
      | 0x03 => FVal.max2 (f32 v) (f32 x)
      | _ => FVal.addR fp32 (f32 v) (f32 x)
    FVal.code fp32 r
  else
    match aop with
    | 0x01 => (v + x) % 2 ^ w
    | 0x02 => wrapTo w (min (signedOf w v) (signedOf w x))
    | 0x03 => wrapTo w (max (signedOf w v) (signedOf w x))
    | 0x04 => Nat.land v x % 2 ^ w
    | 0x05 => Nat.lor v x % 2 ^ w
    | 0x06 => Nat.xor v x % 2 ^ w
    | _ => x % 2 ^ w

/-- The identity of a combinable operation; 0 for SWAP and CAS. Floating-point identities are those of R134. -/
def atomicIdentity (aop atype : Nat) : Nat :=
  let w := 8 * atypeBytes atype
  if atype = 2 then
    match aop with
    | 0x01 => 0x80000000 | 0x02 => 0x7F800000 | 0x03 => 0xFF800000 | _ => 0
  else
    match aop with
    | 0x02 => 2 ^ (w - 1) - 1 | 0x03 => 2 ^ (w - 1) | 0x04 => 2 ^ w - 1 | _ => 0

/-! ## Combining, R318 and R319 -/

def Msg.combinable (m : Msg) : Bool := bit m.mflags.toNat 0
def Msg.resent (m : Msg) : Bool := bit m.mflags.toNat 1
def Msg.rerouted (m : Msg) : Bool := bit m.mflags.toNat 2

/-- Whether message b may be merged into a. -/
def mergeable (a b : Msg) : Bool :=
  Msg.combinable a && Msg.combinable b && !Msg.rerouted a && !Msg.rerouted b
    && a.dest = b.dest && a.address = b.address && a.mtype = b.mtype && a.aop = b.aop && a.atype = b.atype
    && a.parts.all (fun p => b.parts.all (fun q => p.unit ≠ q.unit)) && decide (a.parts.length + b.parts.length ≤ 16)

/-- b merged into a. -/
def mergeMsg (a b : Msg) : Msg :=
  if a.mtype = 3 then
    let op (x : U64) : U64 := BitVec.ofNat 64 (atomicOp a.aop.toNat a.atype.toNat a.operand.toNat x.toNat)
    { a with operand := op b.operand, parts := a.parts ++ b.parts.map (fun p => { p with pfx := op p.pfx }) }
  else { a with parts := a.parts ++ b.parts }

/-- An FP32 ADD, whose merges count (R320). -/
def fpAdd (m : Msg) : Bool := m.mtype = 3 && m.aop = 1 && m.atype = 2

/-- Merge into the first message of a list that takes it. -/
def mergeInto (b : Msg) : List Msg → Option (List Msg)
  | [] => none
  | a :: t => if mergeable a b then some (mergeMsg a b :: t) else (mergeInto b t).map (a :: ·)

namespace Chip

/-! ## Ports and the link-state database -/

def port (s : Chip) (p : Nat) : Port := SMap.get {} s.fab.ports p
def setPort (s : Chip) (p : Nat) (x : Port) : Chip := { s with fab := { s.fab with ports := SMap.set {} s.fab.ports p x } }
def updPort (s : Chip) (p : Nat) (f : Port → Port) : Chip := s.setPort p (f (s.port p))

/-- Subindex `sub` of port p's control object, R277. -/
def portReg (s : Chip) (p sub : Nat) : Nat := s.reg (0x4100 + p) sub
def setPortReg (s : Chip) (p sub v : Nat) : Chip := s.setReg (0x4100 + p) sub v

def portLive (s : Chip) (p : Nat) : Bool := isLive (s.portReg p 2)
def peerNode (s : Chip) (p : Nat) : Nat := s.portReg p 7

/-- Nodes that one more step of links reaches. -/
def spread (db : List LinkRecord) (set : List Nat) : List Nat :=
  db.foldl (fun acc r => if r.up && acc.contains r.node && !acc.contains r.peer then acc ++ [r.peer] else acc) set

/-- Nodes reachable over the links of a database, R303. -/
def reachSet (db : List LinkRecord) : Nat → List Nat → List Nat
  | 0, set => set
  | n + 1, set => reachSet db n (spread db set)

/-- The link-state database shows a node reachable. -/
def reachable (s : Chip) (d : Nat) : Bool :=
  d = s.node || (reachSet s.fab.lsdb s.fab.lsdb.length [s.node]).contains d

/-- The capabilities that a node's IDENT gave (R281). -/
def nodeCaps (s : Chip) (d : Nat) : Nat := ((s.fab.lsdb.find? (fun r => r.node = d)).map (·.caps)).getD 0
def nodeGeneration (s : Chip) (d : Nat) : Nat := ((s.fab.lsdb.find? (fun r => r.node = d)).map (·.generation)).getD 0

/-! ## Routing, R293 to R297 -/

/-- Ports in a state that a test on states admits, toward a peer that satisfies a test. -/
def portsWhere (s : Chip) (use : Nat → Bool) (f : Nat → Bool) : List Nat :=
  (List.range 48).filter (fun p => f (s.peerNode p) && use (s.portReg p 2))

/-- The state of a link's port: of an own port as it is, of another one as the routing tables have it (R294). -/
def linkState (s : Chip) (r : LinkRecord) : Nat := if r.node = s.node then s.portReg r.port 2 else r.state.val

/-- A link whose port's state a test admits leads from a node of one kind to a peer of another. -/
def linked (s : Chip) (use : Nat → Bool) (node peer : Nat → Bool) : Bool :=
  s.fab.routes.any (fun r => use (s.linkState r) && node r.node && peer r.peer)

/-- The package that serves an endpoint for a sender, R292. -/
def attachment (s : Chip) (use : Nat → Bool) (src d : Nat) : Option Nat :=
  let as := ((s.fab.routes.filter (fun r => use (s.linkState r) && r.peer = d)).map (·.node)).mergeSort (· ≤ ·)
  match as.find? (fun a => sameGroup a src) with
  | some a => some a
  | none => as.head?

/-- A package of a group. -/
def inGroup (h n : Nat) : Bool := isPackage n && groupOf n = h

/-- Ports of the minimal routes to a package over links whose state a test admits, R293, by ascending (node, port). -/
def minimalTo (s : Chip) (use : Nat → Bool) (d : Nat) : List Nat :=
  let byPeer (ps : List Nat) : List Nat := ps.mergeSort (fun p q => s.peerNode p ≤ s.peerNode q)
  if sameGroup s.node d then byPeer (s.portsWhere use (fun n => n = d))
  else
    let own := s.portsWhere use (inGroup (groupOf d))
    if own.isEmpty then
      byPeer (s.portsWhere use (fun n => sameGroup n s.node && s.linked use (fun m => m = n) (inGroup (groupOf d))))
    else byPeer own

/-- Ports of the minimal routes to any destination over links whose state a test admits. -/
def candidatesIn (s : Chip) (use : Nat → Bool) (src d : Nat) : List Nat :=
  if isEndpoint d then
    match s.attachment use src d with
    | some a => if a = s.node then s.portsWhere use (fun n => n = d) else s.minimalTo use a
    | none => []
  else s.minimalTo use d

/-- Ports of the minimal routes: over live links, or, where no live path exists, over links that also may be in RETRAIN (R275). -/
def candidates (s : Chip) (src d : Nat) : List Nat :=
  let live := s.candidatesIn isLive src d
  if live.isEmpty then s.candidatesIn (fun st => isLive st || st = 6) src d else live

/-- Output-queue occupancy of a port in flits of a lane. -/
def laneFlits (s : Chip) (p vl : Nat) : Nat :=
  (((s.port p).queue.filter (fun q => q.vl = vl)).map (fun q => flitsOf q.bytes.length - q.sent)).sum

/-- Ports with the least occupancy. -/
def leastFlits (s : Chip) (vl : Nat) (ps : List Nat) : List Nat :=
  match (ps.map (fun p => s.laneFlits p vl)).min? with
  | some m => ps.filter (fun p => s.laneFlits p vl = m)
  | none => []

/-- One of equal ports, as the device chooses. -/
def chooseOf (s : Chip) (n : Nat) (ps : List Nat) : Option Nat := ps[Config.freeChoice s.free n % ps.length]?

/-- A package may be an intermediate: not a Gletor 3 one, and with CAPS bit 1 (R295, R301). -/
def fitTransit (s : Chip) (n : Nat) : Bool := bit (s.nodeCaps n) 1 && s.nodeGeneration n = 4

/-- A package n leads to d: it is d, or has a live link to d. -/
def leadsTo (s : Chip) (d n : Nat) : Bool := n = d || s.linked isLive (fun m => m = n) (fun m => m = d)

/-- From package x of an intermediate group live links lead on minimal routes to d: x, or a fit member that x has a link to, has a
global link to d's group, whose end leads to d. -/
def leadsOn (s : Chip) (d x : Nat) : Bool :=
  let out (n : Nat) : Bool := s.linked isLive (fun m => m = n) (fun w => inGroup (groupOf d) w && s.leadsTo d w)
  out x || s.linked isLive (fun m => m = x) (fun z => sameGroup z x && s.fitTransit z && out z)

/-- A package of a group that is neither the own one nor d's, from which a route leads to d. -/
def intermediate (s : Chip) (d x : Nat) : Bool :=
  isPackage x && !sameGroup x s.node && groupOf x ≠ groupOf d && s.fitTransit x && s.leadsOn d x

/-- Own global links into intermediate groups. -/
def onward (s : Chip) (d : Nat) : List Nat := s.portsWhere isLive (s.intermediate d)

/-- First hops of the non-minimal routes that R295 admits: to a destination in the own group, the local link to another member; to
another group, a link into an intermediate group or to a member that has one. Members and groups whose needed links are not live are
left out, with Gletor 3 packages and packages without CAPS bit 1. -/
def alternatives (s : Chip) (d : Nat) : List Nat :=
  if sameGroup s.node d then
    s.portsWhere isLive (fun m => sameGroup m s.node && m ≠ d && s.fitTransit m && s.linked isLive (fun n => n = m) (fun n => n = d))
  else
    s.portsWhere isLive (fun m => s.intermediate d m
      || (sameGroup m s.node && s.fitTransit m && s.linked isLive (fun n => n = m) (s.intermediate d)))

/-- Where a message may leave its minimal route: at its source, or at the first package of its destination's group when it
came straight from its source's group. -/
def mayDetour (s : Chip) (src d : Nat) (from_ : Option Nat) : Bool :=
  isPackage d && match from_ with
    | none => true
    | some p => sameGroup s.node d && !sameGroup src d && sameGroup (s.peerNode p) src

/-- A message from a member of the own group for another group comes here, though this package has no link to that group: its source
chose a route through an intermediate group, to which this package has one. -/
def onDetour (s : Chip) (src d : Nat) (from_ : Option Nat) : Bool :=
  isPackage d && !sameGroup s.node d && sameGroup src s.node && from_.any (fun p => s.peerNode p = src)
    && (s.portsWhere isLive (inGroup (groupOf d))).isEmpty && !(s.onward d).isEmpty

/-- The port of the next hop on a minimal route, and whether it was chosen by occupancy among several (R296). `fixed` asks for the
Jade rule. -/
def minimalHop (s : Chip) (vl src d : Nat) (fixed : Bool) : Option (Nat × Bool × Bool) :=
  let cs := s.candidates src d
  if cs.isEmpty then none
  else if fixed || s.jade || 4 ≤ vl then (cs[(src + d) % cs.length]?).map (fun p => (p, false, false))
  else (s.chooseOf 1 (s.leastFlits vl cs)).map (fun p => (p, decide (1 < cs.length), false))

/-- The port of the next hop, whether it was chosen by occupancy among several, and whether the route is non-minimal
(R295, R296). `fixed` asks for the Jade rule. -/
def nextHop (s : Chip) (vl src d : Nat) (from_ : Option Nat) (fixed : Bool) : Option (Nat × Bool × Bool) :=
  let cs := s.candidates src d
  if cs.isEmpty || fixed || s.jade || 4 ≤ vl then s.minimalHop vl src d fixed
  else if s.onDetour src d from_ then
    (s.chooseOf 1 (s.leastFlits vl (s.onward d))).map (fun p => (p, decide (1 < (s.onward d).length), false))
  else
    match s.chooseOf 1 (s.leastFlits vl cs) with
    | none => none
    | some p =>
      let alts := if s.reg 0x4020 1 = 1 && s.mayDetour src d from_ then s.alternatives d else []
      let qmin := s.laneFlits p vl
      match s.chooseOf 2 (s.leastFlits vl alts) with
      | some a =>
        let qnm := s.laneFlits a vl
        if s.reg 0x4020 2 ≤ qmin && 2 * qnm + s.reg 0x4020 3 < qmin then some (a, true, true)
        else some (p, decide (1 < cs.length) || !alts.isEmpty, false)
      | none => some (p, decide (1 < cs.length), false)

/-! ## Output queues -/

/-- Merge a request into a queued one of the same hop class that has not been sent (R318). -/
def mergeQueued (free : Nat) (b : Msg) (hop : Nat) : List QMsg → Option (List QMsg)
  | [] => none
  | q :: t =>
    match q.wire with
    | .msg a =>
      if q.vl = 0 && q.hop = hop && q.sent = 0 && mergeable a b then
        let m := mergeMsg a b
        some ({ q with wire := .msg m, bytes := wireBytes free 0 (.msg m) } :: t)
      else (mergeQueued free b hop t).map (q :: ·)
    | _ => (mergeQueued free b hop t).map (q :: ·)

/-- Count a merge: constituents under R332, an FP32 ADD under R320. -/
def countMerge (s : Chip) (ridge : Nat) (b : Msg) : Chip :=
  let s1 := s.bump (if b.mtype = 3 then 0x8031 else 0x8030) (ridge + 1) b.parts.length
  if fpAdd b then s1.countNd 3 (s1.slotOfJobId b.jobId) 1 else s1

/-- Put a message into a port's output queue. -/
def enqueue (s : Chip) (p vl hop dest : Nat) (w : Wire) : Chip :=
  let x := s.port p
  let merged := match w with
    | .msg m => if vl = 0 then (mergeQueued s.free m hop x.queue).map (fun q => (q, m)) else none
    | _ => none
  match merged with
  | some q => (s.setPort p { x with queue := q.1 }).countMerge (p / 24) q.2
  | none => s.setPort p { x with queue := x.queue ++ [⟨vl, hop, dest, w, wireBytes s.free x.queue.length w, 0⟩] }

/-- The job a message belongs to, for the non-determinism counter of its slot. -/
def wireSlot (s : Chip) (w : Wire) : Nat :=
  match w with
  | .coll _ m => s.slotOfJobId m.jobId
  | .msg m => s.slotOfJobId m.jobId
  | _ => 0xFF

/-- A package with no node number, or one in conflict, carries only the management and safety lanes (R289). -/
def laneOpen (s : Chip) (vl : Nat) : Bool := 4 ≤ vl || (s.node ≠ 0xFFFF && s.reg 0x4002 5 = 0)

/-- Queue a message for its next hop. `none` where it has no live route or would need a hop class above 7 (R297). -/
def sendBy (s : Chip) (vl hop dest : Nat) (w : Wire) (next : Option (Nat × Bool × Bool)) : Option Chip :=
  if 7 < hop || !s.laneOpen vl then none
  else match next with
    | none => none
    | some (p, byOccupancy, detour) =>
      if 5 ≤ hop && s.portReg p 9 = 3 then none
      else
        let s1 := if vl = 2 && byOccupancy then s.countNd 7 (s.wireSlot w) 1 else s
        let s2 := if detour then s1.setPortReg p 0x14 (s1.portReg p 0x14 + 1) else s1
        some (s2.enqueue p vl hop dest w)

/-- Route a message and queue it. `from_` is the port it came in by; `fixed` asks for minimal routes under the Jade rule
(R314). -/
def route (s : Chip) (vl hop src dest : Nat) (from_ : Option Nat) (fixed : Bool) (w : Wire) : Option Chip :=
  s.sendBy vl hop dest w (s.nextHop vl src dest from_ fixed)

/-! ## Eave gateways, R325 and R326 -/

def ridge (s : Chip) (r : Nat) : RidgeState := SMap.get {} s.fab.ridges r
def setRidge (s : Chip) (r : Nat) (x : RidgeState) : Chip := { s with fab := { s.fab with ridges := SMap.set {} s.fab.ridges r x } }

/-- A message to a package of another group that advertises CAPS bit 2 leaves in a batch. -/
def usesEave (s : Chip) (dest : Nat) : Bool := isPackage dest && !sameGroup s.node dest && bit (s.nodeCaps dest) 2

/-- Send a batch on the bulk lane; its requests count (R332). Without a route it is dropped (R297). -/
def closeBatch (s : Chip) (r dest : Nat) : Chip :=
  let x := s.ridge r
  match x.batches.find? (fun b => b.1 = dest) with
  | none => s
  | some b =>
    let s1 := s.setRidge r { x with batches := x.batches.filter (fun c => c.1 ≠ dest) }
    let s2 := (s1.bump 0x8038 (r + 1) 1).bump 0x8039 (r + 1) b.2.length
    (s2.route 3 0 s.node dest none false (.batch dest s.node b.2)).getD
      { s2 with fab := { s2.fab with undelivered := s2.fab.undelivered ++ b.2 } }

/-- Put a message into the open batch of its destination; combinable requests combine there (R326). -/
def addToBatch (s : Chip) (m : Msg) : Chip :=
  let d := m.dest.toNat
  let r := d % 2
  let x := s.ridge r
  let s0 := if x.batches.any (fun b => b.1 = d) || decide (x.batches.length < 1024) then s
    else match x.batches.head? with
      | some b => s.closeBatch r b.1
      | none => s
  let x := s0.ridge r
  let old := ((x.batches.find? (fun b => b.1 = d)).map Prod.snd).getD []
  let merged := if Msg.combinable m then mergeInto m old else none
  let ms := merged.getD (old ++ [m])
  let bs := if x.batches.any (fun b => b.1 = d) then x.batches.map (fun b => if b.1 = d then (d, ms) else b)
    else x.batches ++ [(d, ms)]
  let s1 := s0.setRidge r { x with batches := bs }
  let s2 := if merged.isSome then s1.countMerge r m else s1
  if m.mtype = 4 || 16384 ≤ (ms.flatMap msgBytes).length then s2.closeBatch r d else s2

/-! ## Sending -/

/-- Send a request-lane or response-lane message of this package: through its gateway, or routed. `none`: no route. -/
def launch (s : Chip) (vl : Nat) (m : Msg) : Option Chip :=
  let d := m.dest.toNat
  if !Msg.resent m && s.usesEave d then some (s.addToBatch m)
  else s.route vl 0 s.node d none (Msg.resent m) (.msg m)

/-- The 64-byte line of a message at its destination. -/
def lineOf (m : Msg) : Nat := addrOff m.address.toNat / 64

/-- Send a request under the rate entries of R323. -/
def sendRequest (s : Chip) (m : Msg) : Option Chip :=
  match s.fab.rates.find? (fun e => e.dest = m.dest.toNat && e.line = lineOf m) with
  | none => s.launch 0 m
  | some e =>
    let put (f : RateEntry → RateEntry) : Chip :=
      { s with fab := { s.fab with rates := s.fab.rates.map (fun x =>
        if x.dest = e.dest && x.line = e.line then f x else x) } }
    if e.busy then some (put (fun x => { x with waits := x.waits ++ [m] }))
    else (put (fun x => { x with busy := true })).launch 0 m

/-! ## Requests of this package's units, R313, R315, R328 -/

def issuer (s : Chip) (u : Nat) : Issuer := SMap.get {} s.fab.issuers u
def setIssuer (s : Chip) (u : Nat) (x : Issuer) : Chip := { s with fab := { s.fab with issuers := SMap.set {} s.fab.issuers u x } }
def setRequests (s : Chip) (l : List Request) : Chip := { s with fab := { s.fab with requests := l } }

/-- Uncompleted requests of a unit. -/
def requestsOf (s : Chip) (u : Nat) : List Request := s.fab.requests.filter (fun r => r.unit = u)

/-- Number a request in its flow and keep a copy (R313). -/
def openRequest (s : Chip) (u : Nat) (m : Msg) (cflags pfx : Nat) (owner : ReqOwner) : Request × Chip :=
  let d := m.dest.toNat
  let x := s.issuer u
  let cur := x.flows.find? (fun f => f.1 = d)
  let flow := match cur with | some f => f.2.1 | none => (x.flowCount + 1) % 65536
  let seq := match cur with | some f => f.2.2 | none => 0
  let x1 : Issuer := match cur with
    | some _ => { x with flows := x.flows.map (fun f => if f.1 = d then (d, f.2.1, f.2.2 + 1) else f) }
    | none => { x with flowCount := flow, flows := x.flows ++ [(d, flow, 1)] }
  let c : Constituent := ⟨BitVec.ofNat 32 u, BitVec.ofNat 16 flow, BitVec.ofNat 16 x.epoch, BitVec.ofNat 32 seq,
    BitVec.ofNat 8 cflags, BitVec.ofNat 64 pfx⟩
  let m1 := { m with parts := [c] }
  let r : Request := ⟨u, d, flow, x.epoch, seq, m1, owner, true⟩
  (r, (s.setIssuer u x1).setRequests (s.fab.requests ++ [r]))

/-- The lines that RLOADs in flight of a cluster bring may no longer fill its cache, where a test on the request holds (R317). -/
def barFills (s : Chip) (k : Nat) (p : Request → Bool) : Chip :=
  s.setRequests (s.fab.requests.map (fun r => match r.owner with
    | .command c _ _ _ => if c.val / 4 = k && p r then { r with fill := false } else r
    | _ => r))

/-- Take a request out of the lists; its flow closes with the last one, or when the request was lost (R313, R315). -/
def closeRequest (s : Chip) (r : Request) (lost : Bool) : Chip :=
  let s1 := s.setRequests (s.fab.requests.filter (fun q =>
    !(q.unit = r.unit && q.dest = r.dest && q.flow = r.flow && q.seq = r.seq)))
  let more := s1.fab.requests.any (fun q => q.unit = r.unit && q.dest = r.dest && q.flow = r.flow)
  let x := s1.issuer r.unit
  let x1 := if more && !lost then x
    else { x with flows := x.flows.filter (fun f => !(f.1 = r.dest && f.2.1 = r.flow)) }
  s1.setIssuer r.unit { x1 with lost := x1.lost || lost }

/-- An unsent message of this package: a header with one constituent to come. -/
def newMsg (s : Chip) (mtype dest addr : Nat) (jobId : U64) : Msg :=
  { mtype := BitVec.ofNat 8 mtype, mflags := 0, aop := 0, dest := BitVec.ofNat 16 dest, srcNode := BitVec.ofNat 16 s.node
    address := BitVec.ofNat 64 addr, jobId := jobId, length := 0, age := 0, atype := 0, operand := 0, operand2 := 0
    parts := [], data := [] }

/-! ## Answers, R311, R319 -/

/-- A response-lane message that answers a constituent. -/
def answerMsg (s : Chip) (mtype : Nat) (m : Msg) (p : Constituent) : Msg :=
  { m with mtype := BitVec.ofNat 8 mtype, mflags := 0, aop := 0, atype := 0, age := 0, length := 0, operand := 0
           operand2 := 0, data := [], dest := BitVec.ofNat 16 (unitNode p.unit.toNat), srcNode := BitVec.ofNat 16 s.node
           parts := [p] }

/-- A RESPONSE: status, fetched value and data (R311). -/
def responseOf (s : Chip) (m : Msg) (p : Constituent) (status value : Nat) (data : List Byte) : Msg :=
  { s.answerMsg 5 m p with
    operand := BitVec.ofNat 64 value, operand2 := BitVec.ofNat 64 status, length := BitVec.ofNat 32 data.length, data := data }

/-- The old value of an atomic's cell and the new one, R309. -/
def atomicNew (m : Msg) (v : Nat) : Nat :=
  let w := 8 * atypeBytes m.atype.toNat
  match m.aop.toNat with
  | 0x10 => m.operand.toNat % 2 ^ w
  | 0x11 => if v = m.operand.toNat % 2 ^ w then m.operand2.toNat % 2 ^ w else v
  | op => atomicOp op m.atype.toNat v m.operand.toNat

/-- The fetched value of a constituent, R319. -/
def fetched (m : Msg) (p : Constituent) (v : Nat) : Nat :=
  if !bit p.cflags.toNat 0 then 0
  else if combinableAop m.aop.toNat then atomicOp m.aop.toNat m.atype.toNat v p.pfx.toNat else v

end Chip

end Sys2Proof.Machine
end

