-- ==== Sys2Proof/Machine/Monitor.lean ====
section
/-! DEFINITION. Detections and the safe state (spec/18_safety_and_security.md R459 to R464, R469), unit states and their
events (spec/16_object_dictionary.md R431, R433 to R435) and generator draws (spec/05_vector_engine.md R139 to R141,
spec/14_reproducibility.md R375 to R378). -/

namespace Sys2Proof.Machine

namespace Chip

/-- Send something outside the package. -/
def emit (s : Chip) (o : Out) : Chip := { s with out := s.out ++ [o] }

/-! ## Safety monitor -/

/-- The other members of the admitted jobs that have more than one member, with the job's JOB_ID (R469). -/
def safetyPeers (s : Chip) : List (Nat × U64) :=
  s.jobs.flatMap (fun e => match e.2 with
    | some x => if 1 < x.members.length then (x.members.filter (fun n => n ≠ s.node)).map (fun n => (n, x.jobId)) else []
    | none => [])

/-- Send a safety-lane message to a node: SEQ rises by one with each message to that node (R469). -/
def sendSafety (s : Chip) (mtype cause dest : Nat) (jobId : U64) : Chip :=
  let q := SMap.get 0 s.mon.txSeq dest + 1
  let s1 := { s with mon := { s.mon with txSeq := SMap.set 0 s.mon.txSeq dest q } }
  let m : SafetyMsg := ⟨BitVec.ofNat 8 cause, BitVec.ofNat 16 dest, BitVec.ofNat 16 s.node, q, jobId⟩
  (s1.route 5 0 s.node dest none true (.safety mtype m)).getD s1

/-- SAFE_STATE_N is asserted. -/
def safe (s : Chip) : Bool := s.reg 0x7000 2 = 1

/-- Enter the safe state for class k: SAFE_CAUSE keeps the first cause, and the members hear of it unless k is 11 (R463,
R469). -/
def enterSafe (s : Chip) (k : Nat) : Chip :=
  if s.safe then s
  else
    let s1 := (s.setReg 0x7000 2 1).setReg 0x7000 3 k
    if s.partition && k ≠ 11 then s1.safetyPeers.foldl (fun t p => t.sendSafety 2 k p.1 p.2) s1 else s1

/-- Whether a detection of class k enters the safe state: under REACTION_MASK while the partition is enabled, classes 8 to
10 only while it is not (R460, R461); class 11 also needs PROPAGATE (R469). -/
def reacts (s : Chip) (k : Nat) : Bool :=
  if s.partition then bit (s.reg 0x7000 5) k && (k ≠ 11 || s.reg 0x7000 9 = 1)
  else 8 ≤ k && k ≤ 10

/-- Count and log a detection of class k (R462). -/
def countDetection (s : Chip) (k code slot unit : Nat) : Chip :=
  let s1 := { s with mon := { s.mon with detections := s.mon.detections.modify (k - 1) (· + 1) } }
  s1.addLog code slot 0 unit []

/-- A detection of class k by a unit: counted, logged, and answered as its row of R462 says. Class 5 enters the safe state
by `noPair` alone. -/
def detect (s : Chip) (k code slot unit : Nat) : Chip :=
  let s1 := s.countDetection k code slot unit
  if k ≠ 5 && s1.reacts k then s1.enterSafe k else s1

/-- A detection of class 2, 3 or 4, which the failing unit's own rule has entered in the log (R203, R223, R366): counted, and
answered as its row of R462 says. -/
def detectLogged (s : Chip) (k : Nat) : Chip :=
  let s1 := { s with mon := { s.mon with detections := s.mon.detections.modify (k - 1) (· + 1) } }
  if s1.reacts k then s1.enterSafe k else s1

/-! ## Unit states and their events -/

/-- The unit state object and subindex of a unit, R434. -/
def unitIndex (u : UnitRef) : Nat × Nat :=
  match u with
  | .array c a => (0x3300 + 2 * (c.val / 64) + a.val, c.val % 64 + 1)
  | .core c => (0x3100 + c.val / 64, c.val % 64 + 1)
  | .solver k => (0x3200 + k.val / 16, k.val % 16 + 1)
  | .engine e => (0x5200 + e.val / 32, e.val % 32 + 1)
  | .channel n => (0x7100 + n.val, 1)

def unitState (s : Chip) (u : UnitRef) : Nat := s.reg (unitIndex u).1 (unitIndex u).2

/-- The slot of the job that holds a unit; 0xFF for none. -/
def slotOfUnit (s : Chip) (u : UnitRef) : Nat :=
  match u with
  | .array c _ => s.slotOfCore c
  | .core c => s.slotOfCore c
  | .solver k => s.slotOfSolver k
  | .engine e => s.slotOfEngine e
  | .channel n => s.slotOfChannel n

/-- The event of a unit's change of state or pending disable: DETAIL_KIND 4, R434. -/
def unitEvent (s : Chip) (u : UnitRef) (code old new pending : Nat) : Chip :=
  s.addLog code (s.slotOfUnit u) 4 0
    (leBytes 2 (unitIndex u).1 ++ leBytes 1 (unitIndex u).2 ++ leBytes 1 old ++ leBytes 1 new ++ leBytes 1 pending)

/-- Change a unit's state and enter the event. -/
def changeUnit (s : Chip) (u : UnitRef) (new : Nat) : Chip :=
  let old := s.unitState u
  if old = new then s
  else
    let code := if new = 2 then Code.unitDraining else if new = 0 then Code.unitDisabled else Code.ok
    let s1 := (s.setReg (unitIndex u).1 (unitIndex u).2 new).unitEvent u code old new 0
    if new = 2 then s1
    else
      let off := s1.flash.disabled.filter (fun v => v ≠ u)
      { s1 with flash := { s1.flash with
        changes := s1.flash.changes + 1, disabled := if new = 0 then off ++ [u] else off } }

/-- Begin draining: an enabled unit enters state 2, a core with both its arrays (R117, R433). A pending disable is over. -/
def beginDrain (s : Chip) (u : UnitRef) : Chip :=
  let s0 := { s with pendingOff := s.pendingOff.filter (fun v => v ≠ u) }
  if s0.unitState u = 1 then
    let s1 := s0.changeUnit u 2
    match u with
    | .core c =>
      let s2 := if s1.unitState (.array c 0) = 1 then s1.changeUnit (.array c 0) 2 else s1
      if s2.unitState (.array c 1) = 1 then s2.changeUnit (.array c 1) 2 else s2
    | _ => s1
  else s0

end Chip

/-! ## Generator draws -/

/-- The last three lines of R139. -/
def genMix (x : U64) : U64 :=
  let z := (x ^^^ (x >>> 30)) * 0xBF58476D1CE4E5B9
  let z := (z ^^^ (z >>> 27)) * 0x94D049BB133111EB
  z ^^^ (z >>> 31)

/-- Output j after a state: the (j + 1)-th output of R139. -/
def genOutput (state : U64) (j : Nat) : U64 := genMix (state + 0x9E3779B97F4A7C15 * BitVec.ofNat 64 (j + 1))

/-- Word i of a 32-byte seed, R377. -/
def seedWord (k : List Byte) (i : Nat) : U64 := BitVec.ofNat 64 (field k (8 * i) 8)

/-- The base state of generator i: domain d, step, ordinal and unit tag, R377. -/
def genBase (k : List Byte) (d step q u i : Nat) : U64 :=
  let h := genMix (seedWord k 0 ^^^ BitVec.ofNat 64 d)
  let h := genMix (h ^^^ seedWord k 1 ^^^ BitVec.ofNat 64 step)
  let h := genMix (h ^^^ seedWord k 2 ^^^ BitVec.ofNat 64 (q * 65536) ^^^ BitVec.ofNat 64 i)
  genMix (h ^^^ seedWord k 3 ^^^ BitVec.ofNat 64 u)

/-- Draw k of an output function of generator i: 16 bits, R140. -/
def drawOf (out : Nat → Nat → U64) (i k : Nat) : Nat := ((out i (k / 4)).toNat / 2 ^ (16 * (k % 4))) % 65536

namespace Chip

/-- The draws of one drawing operation of a unit: consecutive outputs of each generator, from the base states in Jade mode, else from
the free states in which the draw start finds the generators (R139, R141, R377). -/
def draws (s : Chip) (unit : Nat) (seed : List Byte) (d step q u i k : Nat) : Nat :=
  drawOf (fun i j => genOutput (if s.jade then genBase seed d step q u i else Config.freeGen s.free unit i) j) i k

/-- The seed of a core's drawing sources, R377. -/
def seedOfCore (s : Chip) (c : Nat) : List Byte :=
  match s.job (s.slotOfCore c) with
  | some x =>
    match jobRole x c with
    | some r => ((x.roleSeeds.find? (fun e => e.1 = r)).map Prod.snd).getD x.jobSeed
    | none => x.jobSeed
  | none => []

/-- Take the ordinal of a drawing operation of a stream (R375), or count the use of free-running generators (R141). -/
def takeDraw (s : Chip) (c st : Nat) : Chip :=
  if s.jade then s.updStream c st (fun x => { x with ordinal := x.ordinal + 1 })
  else s.countNd 2 (s.slotOfCore c) 1

/-- The draws of an operation at the head of stream st of core c. -/
def streamDraws (s : Chip) (c st d u : Nat) : Nat → Nat → Nat :=
  s.draws (s.streamUnit c st) (s.seedOfCore c) d (s.stream c st).step (s.stream c st).ordinal u

end Chip

end Sys2Proof.Machine
end

