-- ==== Sys2Proof/Machine/Ecc.lean ====
section
/-! DEFINITION. What ECC finds in a line that is read: correction, poison, refetch and their counters
(spec/08_memory_hierarchy.md R221 to R224, R243). -/

namespace Sys2Proof.Machine.Chip

/-- An uncorrectable error found in a line: the first detection poisons it and enters the log with offset and region, a
class 4 detection (R223, R462); `unit` is the reader, 0 for the scrubber. -/
def poisonLine (s : Chip) (line unit : Nat) : Chip :=
  if SMap.get false s.poison line then s
  else
    let off := 64 * line
    let ix := s.regionAt off
    let j := match ix with
      | some i => (i - 0x5100) / 8
      | none => if localBase ≤ off then s.slotOfCore ((off - localBase) / coreBytes) else 0xFF
    let s1 := (s.setPoison line true).addLog Code.uncorrectable j 2 unit (s.placeDetail off)
    s1.detectLogged 4

/-- A corrected error of HBM stack h, R224. -/
def corrected (s : Chip) (h line : Nat) : Chip :=
  let n := SMap.get 0 s.scrubCorrected h + 1
  let s1 := { s with scrubCorrected := SMap.set 0 s.scrubCorrected h n }.bump 0x80BA (h + 1) 1
  if n = s.reg 0x5010 4 then
    s1.addLog Code.corrected 0xFF 2 0 (s.placeDetail (64 * line))
  else s1

/-- The Batten die of a line: that of its HBM, or of the core whose local memory it is in. -/
def dieOfLine (line : Nat) : Nat :=
  if 64 * line < hbmEnd then 64 * line / stackBytes else (64 * line - localBase) / (64 * coreBytes)

/-- A line of a DETECT region, whose ECC corrects nothing (R219, R221). -/
def detectOnly (s : Chip) (line : Nat) : Bool := (s.regionAt (64 * line)).any (fun ix => s.reg ix 3 = 1)

/-- An observation that leaves the line's data lost: an uncorrectable error, or any error in a DETECT region. -/
def isLost (s : Chip) (line : Nat) (e : EccObs) : Bool :=
  match e with
  | .uncorrectable | .cacheLost => true
  | .corrected => s.detectOnly line
  | _ => false

/-- What ECC found on a read of a line, R221 to R224. Local memory and the caches are SRAM, counted by die (R243). -/
def eccRead (s : Chip) (line unit : Nat) (e : EccObs) : Chip :=
  let hbm : Bool := decide (64 * line < hbmEnd)
  let sram (i : Nat) : Chip := s.bump (0x80D2 + i) (dieOfLine line + 1) 1
  match e with
  | .clean => s
  | .cacheCorrected => sram 0
  | .cacheRefetched => sram 1
  | .cacheLost => (sram 1).poisonLine line unit
  | .corrected =>
    if !hbm then sram 0 else if s.detectOnly line then s.poisonLine line unit else s.corrected (stackOfLine line) line
  | .uncorrectable => (if hbm then s else sram 1).poisonLine line unit

/-- What ECC found in the line that a command of a unit read. -/
def found (s : Chip) (unit : Nat) (o : LineObs) : Chip :=
  match o with
  | some (off, e) => s.eccRead (off.toNat / 64) unit e
  | none => s

/-- The offset of the line that a command read and ECC found lost. -/
def lostLine (s : Chip) (o : LineObs) : Option Nat :=
  match o with
  | some (off, e) => if s.isLost (off.toNat / 64) e then some off.toNat else none
  | none => none

end Sys2Proof.Machine.Chip
end

