-- ==== Sys2Proof/Machine/Array.lean ====
section
/-! DEFINITION. The array commands WLOAD, STREAM and DRAIN at the head of a stream: spec/04_matrix_arrays.md R90 to R113,
R500, R501. Data effects take place at issue; completion stands in ArrayEvents.lean. -/

namespace Sys2Proof.Machine

/-! ## Classes and pairs -/

/-- The operand class of a format, R91: 0 4/6-bit, 1 8-bit, 2 16-bit, 3 FP32, 4 FP64. -/
def classOf (fmt : Nat) : Option Nat :=
  match fmt with
  | 0x20 | 0x21 | 0x14 | 0x12 | 0x13 => some 0
  | 0x05 | 0x06 | 0x10 | 0x11 | 0x15 => some 1
  | 0x03 | 0x04 => some 2
  | 0x02 => some 3
  | 0x01 => some 4
  | _ => none

/-- Tile K × N of a class, R91 and R93. -/
def geometry (cls : Nat) (transposed g3 : Bool) : Nat × Nat :=
  match cls with
  | 0 => if g3 then (64, 128) else (128, 128)
  | 1 => if transposed then (64, 128) else (128, 64)
  | 2 => (64, 64)
  | 3 => (32, 32)
  | _ => (16, 16)

/-- Whether the feeder may take SRC_FORMAT into OP_FORMAT: R91, R101, R111. -/
def pairOk (src op : Nat) (weight transpose : Bool) : Bool :=
  Fmt.valid src && (classOf op).isSome &&
  if src = op then
    if transpose then src ∈ [0x01, 0x02, 0x03, 0x04, 0x05, 0x06, 0x21]
    else !(weight && (Fmt.ofCode src).scaled && !(Fmt.ofCode src).square)
  else
    src ∈ [0x02, 0x03, 0x04] && !(op = 0x21 && !weight)
      && (classOf op = some 0 || classOf op = some 1 || (src = 0x02 && (op = 0x03 || op = 0x04)))

/-! ## FLAGS, R96 -/

def ArrayFlags.swap (x : ArrayCmd) : Bool := bit x.flags.toNat 0
def ArrayFlags.transpose (x : ArrayCmd) : Bool := bit x.flags.toNat 1
def ArrayFlags.rot (x : ArrayCmd) : Bool := bit x.flags.toNat 2
def ArrayFlags.tile (x : ArrayCmd) : Bool := bit x.flags.toNat 3
def ArrayFlags.mode (x : ArrayCmd) : Nat := bits x.flags.toNat 5 4

/-! ## Accumulator, R104 -/

/-- The cells (line, column) of row r in the layout of `n` columns. -/
def accCells (x : ArrayCmd) (n r : Nat) : List (Nat × Nat) :=
  if 64 < n then (List.range n).map (fun j => (x.accBase.toNat + 2 * r + j / 64, j % 64))
  else (List.range n).map (fun j => (x.accBase.toNat + r, 16 * x.accCol.toNat + j))

/-- The lines of a command and the fit of its columns. -/
def linesOk (x : ArrayCmd) (n : Nat) (dbl : Bool) : Bool :=
  let lim := if dbl then 511 else 1023
  if 64 < n then x.accCol.toNat = 0 && decide (x.accBase.toNat + 2 * x.rows.toNat - 1 ≤ lim)
  else decide (16 * x.accCol.toNat + n ≤ 64) && decide (x.accBase.toNat + x.rows.toNat - 1 ≤ lim)

/-- The FP32 lines that a command touches. -/
def fp32Lines (x : ArrayCmd) (n : Nat) (dbl : Bool) : List Nat :=
  let per := if 64 < n then 2 else 1
  let k := if dbl then 2 else 1
  List.range' (k * x.accBase.toNat) (k * per * x.rows.toNat)

def accRead (a : Arr) (dbl : Bool) (cell : Nat × Nat) : FVal :=
  if dbl then
    let w := 128 * cell.1 + 2 * cell.2
    f64 ((SMap.get 0 a.acc w).toNat + 2 ^ 32 * (SMap.get 0 a.acc (w + 1)).toNat)
  else f32 (SMap.get 0 a.acc (64 * cell.1 + cell.2)).toNat

def accWrite (a : Arr) (dbl : Bool) (cell : Nat × Nat) (v : FVal) : Arr :=
  if dbl then
    let w := 128 * cell.1 + 2 * cell.2
    let c := FVal.code fp64 v
    { a with acc := SMap.set 0 (SMap.set 0 a.acc w (BitVec.ofNat 32 c)) (w + 1) (BitVec.ofNat 32 (c / 2 ^ 32)) }
  else { a with acc := SMap.set 0 a.acc (64 * cell.1 + cell.2) (BitVec.ofNat 32 (FVal.code fp32 v)) }

/-! ## Feeders: R100, R101, R112, R113 -/

/-- Popcount parity: the sign of entry (i, j) of the Hadamard matrix is − where i AND j has an odd number of ones. -/
def oddOnes : Nat → Nat → Bool
  | 0, _ => false
  | n + 1, v => (v % 2 = 1) != oddOnes n (v / 2)

/-- One run of n values times H_n, each result rounded once to FP32 (R112). -/
def hadamard (n : Nat) (seg : List FVal) : List FVal :=
  (List.range n).map (fun j =>
    FVal.round fp32 ((List.range n).foldl (fun acc i =>
      let v := seg.getD i FVal.zero
      FVal.add acc (if oddOnes 8 (Nat.land i j) then v.neg else v)) FVal.zero))

/-- The rotation over consecutive runs of n of a line of K values. -/
def rotate (n k : Nat) (line : List FVal) : List FVal :=
  (List.range (k / n)).flatMap (fun b => hadamard n ((line.drop (b * n)).take n))

/-- Rotation of a feeder where ROT = 1, over the tile's K positions; positions past the line's own are dropped again. -/
def feedRotate (x : ArrayCmd) (k : Nat) (line : List FVal) : List FVal :=
  if ArrayFlags.rot x then (rotate (2 ^ (x.rotSize.toNat + 3)) k line).take line.length else line

/-- Values of one operand line: element value and fine scale of each position. -/
abbrev OpLine := List (FVal × FVal)

/-- Element value and scale of a code: a scale of 0 makes the element zero (R76). -/
def opCell (f : Fmt) (cs : Nat × Nat) : FVal × FVal :=
  let s := fineValue f cs.2
  (if s.isZero then FVal.zero else elemValue f cs.1, s)

/-- Codes with scale bytes of a stored line: row i of a plane of n columns. -/
def storedLine (f : Fmt) (n : Nat) (row scales : List Byte) : List (Nat × Nat) :=
  (List.range n).map (fun j => (codeAt f.bits row j, if f.block = 0 then 0 else (scales.getD (j / f.block) 0).toNat))

/-- Lines converted by a feeder into format f with coarse scale `coarse` (R101): codes and scale bytes. -/
def feedLines (f : Fmt) (coarse n : Nat) (lines : List (List FVal)) : List (List (Nat × Nat)) :=
  let ts := lines.map (fun l => l.map (fun v =>
    if f.hasCoarse then FVal.mulR fp32 v (FVal.div fp32 FVal.one (f32 coarse)) else v))
  let p := convPlane f (fun _ _ => .rne) true n ts
  (List.range lines.length).map (fun i => (List.range n).map (fun j =>
    ((p.codes.getD i []).getD j 0, if f.block = 0 then 0 else p.scales.getD (f.blockOf n i j) 0)))

/-- Outliers of a row, R113: positions with |x| above the threshold, by decreasing |x|, then ascending K. -/
def outlierOrder (x : ArrayCmd) (row : List FVal) : List (Nat × FVal) :=
  let c := (SMap.number 0 row).filter (fun p => FVal.lt (f32 x.outlierThresh.toNat) p.2.abs)
  c.mergeSort (fun p q => FVal.lt q.2.abs p.2.abs || (FVal.eqv q.2.abs p.2.abs && p.1 ≤ q.1))

/-- t of an outlier. -/
def outlierT (x : ArrayCmd) (v : FVal) : FVal :=
  FVal.mulR fp32 (FVal.round bf16 v) (FVal.div fp32 FVal.one (f32 x.coarseIn.toNat))

/-- A row with the selected positions set to zero. -/
def clearAt (row : List FVal) (ks : List Nat) : List FVal :=
  (SMap.number 0 row).map (fun p => if ks.contains p.1 then FVal.zero else p.2)

/-! ## The tile partial, R105 and R106 -/

/-- Positions of an output that carry data: those of the row and of the column both. Positions beyond COLS and padding contribute
exact zeros, whatever stands opposite (R105, R500). -/
def livePositions (x w : OpLine) : Nat := min x.length w.length

/-- The exact sum of element products over positions [lo, hi). -/
def dotExact (x w : OpLine) (lo hi : Nat) : FVal :=
  match (List.range' lo (hi - lo)).map (fun k =>
    FVal.mul (x.getD k (FVal.zero, FVal.one)).1 (w.getD k (FVal.zero, FVal.one)).1) with
  | [] => FVal.zero
  | p :: ps => ps.foldl FVal.add p

/-- The term of the group of positions [k, top). -/
def groupTerm (x w : OpLine) (k top : Nat) : FVal :=
  let n := livePositions x w
  if n ≤ k then FVal.zero
  else
    let d := dotExact x w k (min top n)
    let s := FVal.mul (x.getD k (FVal.zero, FVal.one)).2 (w.getD k (FVal.zero, FVal.one)).2
    FVal.round fp32 (FVal.mul (if n < top then FVal.add d FVal.zero else d) s)

/-- The chain of a 4/6-bit or 8-bit tile: groups of `grp` positions in ascending K. -/
def chainGroups (grp : Nat) (x w : OpLine) (lo hi : Nat) (p : FVal) : FVal :=
  (List.range (ceilDiv (hi - lo) grp)).foldl (fun p g =>
    FVal.addR fp32 p (groupTerm x w (lo + g * grp) (min (lo + g * grp + grp) hi))) p

/-- The chain of fused steps of the other classes. -/
def chainFused (f : FpFmt) (x w : OpLine) (lo hi : Nat) (p : FVal) : FVal :=
  let n := livePositions x w
  let q := (List.range' lo (min hi n - lo)).foldl (fun p k =>
    FVal.fma f (x.getD k (FVal.zero, FVal.one)).1 (w.getD k (FVal.zero, FVal.one)).1 p) p
  if n < hi then FVal.addR f q FVal.zero else q

/-- Outlier terms of positions [lo, hi), in ascending K (R113). -/
def chainOutliers (outs : List (Nat × FVal)) (w : OpLine) (lo hi : Nat) (p : FVal) : FVal :=
  outs.foldl (fun p o =>
    if lo ≤ o.1 && o.1 < hi then
      FVal.addR fp32 p (match w[o.1]? with | some c => FVal.mul o.2 (FVal.mul c.1 c.2) | none => FVal.zero)
    else p) p

/-- The partial of positions [lo, hi) from p on: the chain of its class, then the outlier terms of a row that a feeder converted. -/
def tilePart (cls grp : Nat) (x w : OpLine) (outs : List (Nat × FVal)) (lo hi : Nat) (p : FVal) : FVal :=
  chainOutliers outs w lo hi (match cls with
    | 0 | 1 => chainGroups grp x w lo hi p
    | 4 => chainFused fp64 x w lo hi p
    | _ => chainFused fp32 x w lo hi p)

/-- The new accumulator value of one output, R105 and R106. -/
def tileResult (cls grp mode : Nat) (g3 : Bool) (k : Nat) (x w : OpLine) (outs : List (Nat × FVal)) (acc : FVal) : FVal :=
  let f := if cls = 4 then fp64 else fp32
  let apply (lo hi : Nat) : FVal :=
    match mode with
    | 0 => tilePart cls grp x w outs lo hi FVal.zero
    | 1 => FVal.addR f acc (tilePart cls grp x w outs lo hi FVal.zero)
    | _ => tilePart cls grp x w outs lo hi acc
  if g3 && cls = 1 && k = 128 then FVal.addR fp32 (apply 0 64) (tilePart cls grp x w outs 64 128 FVal.zero)
  else apply 0 k

/-- The group size of R92. -/
def groupSize (a b : Nat) : Nat := if (Fmt.ofCode a).isPB4 || (Fmt.ofCode b).isPB4 then 16 else 32

/-! ## A weight plane -/

/-- Column n of a plane as an operand line, as far as its WLOAD loaded it; nothing where no WLOAD has written (R500). -/
def planeColumn (p : Plane) (n : Nat) : OpLine :=
  match p.fmt with
  | some f => if n < p.loadedN then ((p.cells.getD n []).take p.loadedK).map (opCell (Fmt.ofCode f)) else []
  | none => []

/-- Pad columns of codes to the tile's geometry with zeros, R500. -/
def padCells (k n : Nat) (cols : List (List (Nat × Nat))) : List (List (Nat × Nat)) :=
  (List.range n).map (fun j => (List.range k).map (fun i => (cols.getD j []).getD i (0, 0)))

/-- Rows of `n` entries as columns. -/
def transposeRows (d : α) (n : Nat) (rows : List (List α)) : List (List α) :=
  (List.range n).map (fun j => rows.map (fun r => r.getD j d))

namespace Chip

/-! ## The check at the head of the stream, R97 -/

/-- The range of a strided source or destination in local memory or tile registers: R95, R97, R220. -/
def checkPlane (s : Chip) (c : Nat) (x : ArrayCmd) (rows rb : Nat) : Nat :=
  if ArrayFlags.tile x then
    Code.need (x.addr.toNat < 64 && x.rowStride = 0 && 8192 * x.addr.toNat + rows * rb ≤ 64 * 8192) Code.outOfRange
  else if x.rowStride.toNat % 64 ≠ 0 then Code.outOfRange
  else s.checkOwn c x.addr.toNat ((rows - 1) * x.rowStride.toNat + rb)

/-- Block rows of a scale plane and the scale bytes of each. -/
def scaleGeom (f : Fmt) (rows cols : Nat) : Nat × Nat :=
  if f.block = 0 then (0, 0)
  else (if f.square then ceilDiv rows 16 else rows, f.blocksPerRow cols)

/-- The ranges of memory that a plane of a command takes, row by row, then its scale rows. -/
def planeFields (x : ArrayCmd) (f : Fmt) (rows cols : Nat) : List (Nat × Nat) :=
  let g := scaleGeom f rows cols
  (if ArrayFlags.tile x then [] else (List.range rows).map (fun r => (x.addr.toNat + r * x.rowStride.toNat, f.rowBytes cols)))
    ++ (List.range g.1).map (fun b => (x.scaleAddr.toNat + b * x.scaleStride.toNat, g.2))

/-- The failing address of an array command of core c that ends with a code. -/
def arrayBad (s : Chip) (c code : Nat) (ranges : List (Nat × Nat)) : Option Nat :=
  s.firstBad (fun a => s.checkOwn c a 1) code ranges

def checkScales (s : Chip) (c : Nat) (x : ArrayCmd) (f : Fmt) (rows cols : Nat) : Nat :=
  let g := scaleGeom f rows cols
  if g.1 = 0 then Code.need (x.scaleAddr = 0 && x.scaleStride = 0) Code.outOfRange
  else s.checkOwn c x.scaleAddr.toNat ((g.1 - 1) * x.scaleStride.toNat + g.2)

/-- Fields that R95 and R96 bound for every array command. -/
def arrayCommon (x : ArrayCmd) : Bool :=
  x.reserved = 0 && x.reservedTail = 0 && !bit x.flags.toNat 6 && !bit x.flags.toNat 7
    && ArrayFlags.mode x ≠ 3 && decide (1 ≤ x.rows.toNat) && decide (x.rows.toNat ≤ 1024) && decide (1 ≤ x.cols.toNat)
    && decide (x.accCol.toNat ≤ 3) && decide (x.rotSize.toNat ≤ 4) && decide (x.outlierMax.toNat ≤ 8)
    && (decide (x.signalObj.toNat < 64) || x.signalObj = 0xFFFF) && (!ArrayFlags.rot x || x.rotSize ≠ 0)

/-- COARSE_IN: checked under R77 with a feeder conversion into a format that takes a coarse scale, else 1.0. -/
def coarseInOk (x : ArrayCmd) : Bool :=
  if x.srcFormat ≠ x.opFormat && (Fmt.ofCode x.opFormat.toNat).hasCoarse then Conv.coarseOk x.coarseIn.toNat
  else x.coarseIn = 0x3F800000

/-- Rotation: with feeder conversion into the 4/6-bit or 8-bit class, over at most K positions (R97, R112). -/
def rotOk (x : ArrayCmd) (k : Nat) : Bool :=
  !ArrayFlags.rot x || (x.srcFormat ≠ x.opFormat
    && (classOf x.opFormat.toNat = some 0 || classOf x.opFormat.toNat = some 1) && decide (2 ^ (x.rotSize.toNat + 3) ≤ k))

/-- The check of a WLOAD. -/
def checkWload (s : Chip) (c : Nat) (x : ArrayCmd) : Nat :=
  let src := x.srcFormat.toNat
  let op := x.opFormat.toNat
  let tr := ArrayFlags.transpose x
  let g := geometry ((classOf op).getD 0) tr s.g3
  let fits := if tr then decide (x.cols.toNat ≤ g.1) && decide (x.rows.toNat ≤ g.2)
    else decide (x.rows.toNat ≤ g.1) && decide (x.cols.toNat ≤ g.2)
  Code.first
    (Code.need (arrayCommon x && !ArrayFlags.swap x && ArrayFlags.mode x = 0 && x.outlierMax = 0 && x.colBase = 0
      && x.convAddr = 0 && pairOk src op true tr && fits && coarseInOk x && rotOk x g.1) Code.outOfRange)
    (Code.first (s.checkPlane c x x.rows.toNat ((Fmt.ofCode src).rowBytes x.cols.toNat))
      (s.checkScales c x (Fmt.ofCode src) x.rows.toNat x.cols.toNat))

/-- The plane that is active for the rows of a STREAM. -/
def rowPlane (a : Arr) (x : ArrayCmd) : Plane := if ArrayFlags.swap x then a.shadow else a.active

/-- Tile geometry of a STREAM: its plane's, or its row class's over a plane of no class (R500). -/
def streamGeom (s : Chip) (p : Plane) (x : ArrayCmd) : Nat × Nat :=
  match p.fmt with
  | some _ => (p.k, p.n)
  | none => geometry ((classOf x.opFormat.toNat).getD 0) false s.g3

/-- The check of a STREAM. -/
def checkStream (s : Chip) (c a : Nat) (x : ArrayCmd) : Nat :=
  let src := x.srcFormat.toNat
  let op := x.opFormat.toNat
  let p := rowPlane (s.array c a) x
  let g := s.streamGeom p x
  let classOk := match p.fmt with
    | some f => classOf f = classOf op
    | none => true
  let outOk := x.outlierMax = 0 || (decide (1 ≤ x.outlierThresh.toNat) && decide (x.outlierThresh.toNat < 0x7F800000))
  Code.first
    (Code.need (arrayCommon x && !ArrayFlags.transpose x && x.colBase = 0 && x.convAddr = 0 && pairOk src op false false
      && classOk && decide (x.cols.toNat ≤ g.1) && linesOk x g.2 (classOf op = some 4) && coarseInOk x && rotOk x g.1
      && outOk) Code.outOfRange)
    (Code.first (s.checkPlane c x x.rows.toNat ((Fmt.ofCode src).rowBytes x.cols.toNat))
      (s.checkScales c x (Fmt.ofCode src) x.rows.toNat x.cols.toNat))

/-- The check of a DRAIN at the head of its stream; its conversion block must not be in use (R499). -/
def checkDrain (s : Chip) (c : Nat) (x : ArrayCmd) (claimed : Bool) : Nat :=
  let dbl := x.srcFormat = 1
  Code.firstOf
    [Code.need (arrayCommon x && decide (x.flags.toNat % 8 = 0) && ArrayFlags.mode x = 0
      && (x.srcFormat = 1 || x.srcFormat = 2) && x.opFormat = 0 && x.rotSize = 0 && x.outlierMax = 0
      && x.coarseIn = 0x3F800000 && decide (x.cols.toNat ≤ if dbl then 64 else 128) && linesOk x x.cols.toNat dbl
      && x.convAddr.toNat % 32 = 0) Code.outOfRange,
     s.checkOwn c x.convAddr.toNat 32,
     Code.need (claimed || !s.convUse.contains (addrOff x.convAddr.toNat)) Code.stateConflict]

/-! ## Sources -/

/-- The rows of a source plane, with the code of the reads. -/
def readPlane (s : Chip) (c : Nat) (x : ArrayCmd) (rows rb : Nat) : List (List Byte) × Nat :=
  if ArrayFlags.tile x then ((List.range rows).map (fun r => s.readTile c (8192 * x.addr.toNat + r * rb) rb), 0)
  else
    let rs := (List.range rows).map (fun r => s.load (addrOff x.addr.toNat + r * x.rowStride.toNat) rb)
    (rs.map Prod.fst, Code.firstOf (rs.map Prod.snd))

def readScales (s : Chip) (x : ArrayCmd) (f : Fmt) (rows cols : Nat) : List (List Byte) × Nat :=
  let g := scaleGeom f rows cols
  let rs := (List.range g.1).map (fun b => s.load (addrOff x.scaleAddr.toNat + b * x.scaleStride.toNat) g.2)
  (rs.map Prod.fst, Code.firstOf (rs.map Prod.snd))

/-- The ranges that a WLOAD or STREAM reads. -/
def sourceFields (x : ArrayCmd) : List (Nat × Nat) := planeFields x (Fmt.ofCode x.srcFormat.toNat) x.rows.toNat x.cols.toNat

/-- The stored lines of a source: codes with scale bytes, row by row. -/
def sourceLines (s : Chip) (c : Nat) (x : ArrayCmd) : List (List (Nat × Nat)) × Nat :=
  let f := Fmt.ofCode x.srcFormat.toNat
  let es := s.readPlane c x x.rows.toNat (f.rowBytes x.cols.toNat)
  let sc := s.readScales x f x.rows.toNat x.cols.toNat
  ((List.range x.rows.toNat).map (fun i =>
    storedLine f x.cols.toNat (es.1.getD i []) (sc.1.getD (if f.square then i / 16 else i) [])), Code.first es.2 sc.2)

/-! ## Issue -/

/-- WLOAD: fill the shadow plane (R103, R111, R500). -/
def issueWload (s : Chip) (c a index : Nat) (x : ArrayCmd) : Chip :=
  let src := x.srcFormat.toNat
  let op := x.opFormat.toNat
  let tr := ArrayFlags.transpose x
  let g := geometry ((classOf op).getD 0) tr s.g3
  let lines := s.sourceLines c x
  let cols := if tr then lines.1 else transposeRows (0, 0) x.cols.toNat lines.1
  let k := if tr then x.cols.toNat else x.rows.toNat
  let cells :=
    if src = op then cols
    else feedLines (Fmt.ofCode op) x.coarseIn.toNat k
      (cols.map (fun l => feedRotate x g.1 (l.map (fun p => elemValue (Fmt.ofCode src) p.1))))
  let arr := s.array c a
  s.setArray c a { arr with
    shadow := { fmt := some op, k := g.1, n := g.2, cells := padCells g.1 g.2 cells, loadedK := k
                loadedN := if tr then x.rows.toNat else x.cols.toNat }
    wload := some { signalObj := x.signalObj.toNat, index := index, status := lines.2
                    bad := s.arrayBad c lines.2 (sourceFields x) } }

/-- The operand rows of a STREAM, and each row's outliers in ascending K. -/
def streamRows (s : Chip) (c : Nat) (x : ArrayCmd) (k : Nat) : List (OpLine × List (Nat × FVal) × Bool) × Nat :=
  let src := Fmt.ofCode x.srcFormat.toNat
  let op := Fmt.ofCode x.opFormat.toNat
  let lines := s.sourceLines c x
  if x.srcFormat = x.opFormat then (lines.1.map (fun l => (l.map (opCell src), [], false)), lines.2)
  else
    let vals := lines.1.map (fun l => feedRotate x k (l.map (fun p => elemValue src p.1)))
    let picks := vals.map (fun l => if x.outlierMax = 0 then [] else outlierOrder x l)
    let sel := picks.map (fun p => (p.take x.outlierMax.toNat).map Prod.fst)
    let kept := (SMap.number 0 vals).map (fun p => clearAt p.2 (sel.getD p.1 []))
    let fed := feedLines op x.coarseIn.toNat x.cols.toNat kept
    ((List.range vals.length).map (fun i =>
      ((fed.getD i []).map (opCell op),
       ((sel.getD i []).mergeSort (· ≤ ·)).map (fun j => (j, outlierT x ((vals.getD i []).getD j FVal.zero))),
       decide (x.outlierMax.toNat < (picks.getD i []).length))), lines.2)

/-- STREAM: exchange the planes where SWAP says so, then every row through the active plane (R103 to R106, R113). -/
def issueStream (s : Chip) (c a index : Nat) (x : ArrayCmd) : Chip :=
  let arr0 := s.array c a
  let arr1 := if ArrayFlags.swap x then { arr0 with active := arr0.shadow, shadow := arr0.active } else arr0
  let p := arr1.active
  let g := s.streamGeom p x
  let cls := (classOf x.opFormat.toNat).getD 0
  let dbl := cls = 4
  let grp := groupSize x.opFormat.toNat (p.fmt.getD x.opFormat.toNat)
  let rows := s.streamRows c x g.1
  let arr2 := (List.range x.rows.toNat).foldl (fun (arr : Arr) r =>
    let row := rows.1.getD r ([], [], false)
    (SMap.number 0 (accCells x g.2 r)).foldl (fun (arr : Arr) jc =>
      accWrite arr dbl jc.2
        (tileResult cls grp (ArrayFlags.mode x) s.g3 g.1 row.1 (planeColumn p jc.1) row.2.1 (accRead arr dbl jc.2))) arr) arr1
  let arr3 := { arr2 with streams := arr2.streams ++
    [{ signalObj := x.signalObj.toNat, index := index, status := rows.2, lines := fp32Lines x g.2 dbl
       bad := s.arrayBad c rows.2 (sourceFields x) }] }
  ((((s.setArray c a arr3).bumpArray c a 0 x.rows.toNat).bumpArray c a 4 ((rows.1.map (fun r => r.2.1.length)).sum)).bumpArray
    c a 5 (rows.1.countP (fun r => r.2.2)))

/-- Value i of a vector tensor of `n` FP32 values, in the piece that holds it, with the code of the read (R44). -/
def vectorWord (s : Chip) (t : Tensor) (n i : Nat) : Nat × Nat :=
  let per := max 1 (n / max 1 t.splitCount)
  let b := s.load ((t.pieces.getD (i / per) (0, 0)).1 + 4 * (i % per)) 4
  (field b.1 0 4, b.2)

/-- The bias of R85: COLS values of the FP32 vector BIAS_TENSOR from COL_BASE on. COL_BASE counts columns of the whole output (R95),
whose number no command states: only a vector too short for the columns drained shows that the lengths differ (DEDUCED, log
entry 91). -/
def readBias (s : Chip) (c : Nat) (cv : Conv) (base cols : Nat) : Nat × List FVal × Nat :=
  if !cv.biasEn then (0, [], 0)
  else match s.job (s.slotOfCore c) with
    | none => (Code.outOfRange, [], 0)
    | some j =>
      match j.tensors.find? (fun t => t.id = cv.biasTensor) with
      | none => (Code.outOfRange, [], 0)
      | some t =>
        if t.fmt ≠ 2 then (Code.outOfRange, [], 0)
        else
          let n := t.dims.foldl (· * ·) 1
          if n < base + cols then (Code.shapeMismatch, [], 0)
          else
            let b := (List.range cols).map (fun i => s.vectorWord t n (base + i))
            (0, b.map (fun v => f32 v.1), Code.firstOf (b.map Prod.snd))

/-- Write a plane of codes with its scales to the destination of a DRAIN. -/
def writePlane (s : Chip) (c unit : Nat) (x : ArrayCmd) (f : Fmt) (rows cols : Nat) (p : Plane2) : Nat × Chip :=
  let rb := f.rowBytes cols
  let s1 := (List.range (f.paddedRows rows)).foldl (fun (t : Nat × Chip) r =>
    let bs := packCodes f.bits (p.codes.getD r [])
    if ArrayFlags.tile x then (t.1, t.2.writeTile c (8192 * x.addr.toNat + r * rb) bs)
    else let w := t.2.store unit (addrOff x.addr.toNat + r * x.rowStride.toNat) bs; (Code.first t.1 w.1, w.2)) (0, s)
  let g := scaleGeom f (f.paddedRows rows) cols
  (List.range g.1).foldl (fun (t : Nat × Chip) b =>
    let w := t.2.store unit (addrOff x.scaleAddr.toNat + b * x.scaleStride.toNat)
      (((p.scales.drop (b * g.2)).take g.2).map (BitVec.ofNat 8))
    (Code.first t.1 w.1, w.2)) s1

/-- Ranges of memory that a DRAIN writes. -/
def planeRanges (x : ArrayCmd) (f : Fmt) (rows cols : Nat) : List (Nat × Nat) :=
  let g := scaleGeom f (f.paddedRows rows) cols
  (if ArrayFlags.tile x then []
   else (List.range (f.paddedRows rows)).map (fun r => (addrOff x.addr.toNat + r * x.rowStride.toNat, f.rowBytes cols)))
    ++ (List.range g.1).map (fun b => (addrOff x.scaleAddr.toNat + b * x.scaleStride.toNat, g.2))

/-- The ranges of memory that a DRAIN reads or writes, but its bias. -/
def drainFields (x : ArrayCmd) (f : Fmt) : List (Nat × Nat) :=
  (x.convAddr.toNat, 32) :: planeFields x f (f.paddedRows x.rows.toNat) x.cols.toNat

/-- DRAIN: the output conversion of accumulator lines (R84 to R89, R104, R107). The conversion block is read now. A
refusal at this point is a completion. -/
def issueDrain (s : Chip) (c a index : Nat) (x : ArrayCmd) : Chip :=
  let blk := addrOff x.convAddr.toNat
  let cv := s.readConv blk
  let f := cv.fmt
  let rows := x.rows.toNat
  let cols := x.cols.toNat
  let dbl := x.srcFormat = 1
  let bias := s.readBias c cv x.colBase.toNat cols
  let code := Code.firstOf
    [(s.load blk 32).2, Code.need (cv.ok false) Code.outOfRange,
     s.checkPlane c x (f.paddedRows rows) (f.rowBytes cols), s.checkScales c x f (f.paddedRows rows) cols, bias.1]
  if code ≠ 0 then (s.freeConv blk).finishAt c a code index x.signalObj.toNat (s.arrayBad c code (drainFields x f))
  else
    let arr := s.array c a
    let wf := if dbl then fp64 else fp32
    let s1 := if cv.round = 1 then s.takeDraw c a else s
    let draw := s.streamDraws c a 2 (2 * c + a)
    let mode (i j : Nat) : Rounding :=
      match cv.round with
      | 0 => .rne
      | 1 => .sr (draw (j % 128) i)
      | _ => .rz
    let ys := (List.range rows).map (fun r => (SMap.number 0 (accCells x cols r)).map (fun jc =>
      cv.y3 wf (bias.2.1.getD jc.1 FVal.zero) (accRead arr dbl jc.2)))
    let amax := amaxOf ys.flatten
    let coarse := cv.coarseUsed FVal.zero
    let p := convPlane f mode cv.sat cols (ys.map (fun l => l.map (cv.tOf coarse)))
    let w := (s1.setCoarseOut (s.streamUnit c a) blk coarse).writePlane c (s.streamUnit c a) x f rows cols p
    let arr1 := w.2.array c a
    w.2.setArray c a { arr1 with drain := some {
      signalObj := x.signalObj.toNat, index := index, status := Code.first bias.2.2 w.1
      lines := fp32Lines x cols dbl, conv := some blk, coarse := coarse, amax := amax
      outs := planeRanges x f rows cols
      tileOut := if ArrayFlags.tile x then some (2 ^ 19 * c + 8192 * x.addr.toNat, f.paddedRows rows * f.rowBytes cols)
        else none
      bad := s.arrayBad c w.1 (drainFields x f) } }

/-! ## Issue conditions, R98, R108, R116 -/

/-- Lines shared with the running DRAIN. -/
def drainConflict (arr : Arr) (lines : List Nat) : Bool :=
  match arr.drain with
  | some d => d.lines.any (fun l => lines.contains l)
  | none => false

def arrayFree (arr : Arr) : Bool := arr.testing.isNone && !arr.takeNext

def wloadReady (s : Chip) (c a : Nat) : Bool := arrayFree (s.array c a) && (s.array c a).wload.isNone

def streamReady (s : Chip) (c a : Nat) (x : ArrayCmd) : Bool :=
  let arr := s.array c a
  arrayFree arr && (!ArrayFlags.swap x || arr.wload.isNone)
    && !drainConflict arr (fp32Lines x (s.streamGeom (rowPlane arr x) x).2 (classOf x.opFormat.toNat = some 4))

def drainReady (s : Chip) (c a : Nat) : Bool := arrayFree (s.array c a) && (s.array c a).drain.isNone

/-- The code of a command that reaches the head of the stream of an array that is not enabled (R118, R501). -/
def arrayStop (s : Chip) (c a : Nat) : Nat :=
  if s.arrayState c a = 2 then Code.unitDraining else if s.arrayState c a = 0 then Code.unitDisabled else 0

/-- The tag of an entry: KIND, LENGTH in 16-byte units, zeros (R248). -/
def tagOk (t : EntryTag) (kind length : Nat) : Bool :=
  t.kind.toNat = kind && t.length.toNat = length && t.zero = 0 && t.rest = 0

/-- Head of the stream: the next index, R99. -/
def atHead (s : Chip) (c st : Nat) : Chip := s.updStream c st (fun x => { x with count := x.count + 1 })

/-- A WLOAD at the head; `none` while it cannot issue. -/
def headWload (s : Chip) (c a : Nat) (t : EntryTag) (x : ArrayCmd) : Option Chip :=
  let ix := (s.stream c a).count
  let code := if s.arrayStop c a ≠ 0 then s.arrayStop c a else if tagOk t 1 4 then s.checkWload c x else Code.outOfRange
  if code ≠ 0 then some ((s.atHead c a).finishAt c a code ix x.signalObj.toNat (s.arrayBad c code (sourceFields x)))
  else if s.wloadReady c a then some ((s.atHead c a).issueWload c a ix x) else none

/-- A STREAM at the head; `none` while it cannot issue. -/
def headStream (s : Chip) (c a : Nat) (t : EntryTag) (x : ArrayCmd) : Option Chip :=
  let ix := (s.stream c a).count
  let code := if s.arrayStop c a ≠ 0 then s.arrayStop c a else if tagOk t 1 4 then s.checkStream c a x else Code.outOfRange
  if code ≠ 0 then some ((s.atHead c a).finishAt c a code ix x.signalObj.toNat (s.arrayBad c code (sourceFields x)))
  else if s.streamReady c a x then some ((s.atHead c a).issueStream c a ix x) else none

/-- Release the conversion block that the head of a stream holds. -/
def dropClaim (s : Chip) (c st : Nat) : Chip :=
  match (s.stream c st).claim with
  | some b => (s.freeConv b).updStream c st (fun x => { x with claim := none })
  | none => s

/-- A DRAIN at the head: it holds its conversion block from its check on (R499). The flag says whether it has left the
stream. -/
def headDrain (s : Chip) (c a : Nat) (t : EntryTag) (x : ArrayCmd) : Bool × Chip :=
  let ix := (s.stream c a).count
  let claimed := (s.stream c a).claim.isSome
  let code := if s.arrayStop c a ≠ 0 then s.arrayStop c a else if tagOk t 1 4 then s.checkDrain c x claimed else Code.outOfRange
  let blk := addrOff x.convAddr.toNat
  if code ≠ 0 then
    (true, ((s.dropClaim c a).atHead c a).finishAt c a code ix x.signalObj.toNat (s.arrayBad c code [(x.convAddr.toNat, 32)]))
  else if s.drainReady c a then
    let s1 := if claimed then s.updStream c a (fun y => { y with claim := none }) else s.useConv blk
    (true, (s1.atHead c a).issueDrain c a ix x)
  else (false, if claimed then s else (s.useConv blk).updStream c a (fun y => { y with claim := some blk }))

end Chip

end Sys2Proof.Machine
end

