-- ==== Sys2Proof/Machine/Elementary.lean ====
section
/-! DEFINITION. The VE functions of R133 (spec/05_vector_engine.md): the exact mathematical value, rounded once. Roots and
reciprocals are exact in integers. The others are enclosed between two fixed-point bounds of 640 fraction bits, and the
result is given where both bounds round alike; `none` marks a point where the rules state no result, for which the
vector engine uses a free value. -/

namespace Sys2Proof

/-- floor (sqrt v), bit by bit from bit k − 1 of the root down. -/
def isqrtGo (v : Nat) : Nat → Nat → Nat
  | 0, r => r
  | k + 1, r => let c := r + 2 ^ k; isqrtGo v k (if c * c ≤ v then c else r)

def isqrt (v : Nat) : Nat := isqrtGo v (Nat.log2 v / 2 + 1) 0

/-- The correctly rounded square root of num / den: a root that is not exact is bracketed by its floor at 2^-1300 and
represented by a value strictly inside the bracket. -/
def sqrtRat (f : FpFmt) (num den : Nat) : FVal :=
  let v := num * 2 ^ 2600 / den
  let r := isqrt v
  if r * r = v && v * den = num * 2 ^ 2600 then FVal.ofRat f false r (2 ^ 1300)
  else FVal.ofRat f false (2 * r + 1) (2 ^ 1301)

namespace Fixed

/-- Fraction bits of the fixed-point arithmetic. -/
def prec : Nat := 640

def unit : Int := 2 ^ prec

def ofRat (num : Int) (den : Nat) : Int := num * unit / (den : Int)

def mul (a b : Int) : Int := a * b / unit

/-- Σ y^(2i+1) / (2i+1), the series of atanh. -/
def atanh (y : Int) : Int :=
  let y2 := mul y y
  ((List.range 230).foldl (fun (p : Int × Int) (i : Nat) => (p.1 + p.2 / (2 * i + 1 : Int), mul p.2 y2)) ((0 : Int), y)).1

/-- ln 2 = 2 atanh (1/3). -/
def ln2 : Int := 2 * atanh (ofRat 1 3)

/-- e^r for 0 ≤ r < 1, by its power series. -/
def expSmall (r : Int) : Int :=
  ((List.range 150).foldl (fun (p : Int × Int) (i : Nat) => (p.1 + p.2, mul p.2 r / (i + 1 : Int))) ((0 : Int), unit)).1

/-- e^z for a fixed-point z of magnitude below 2^10, as a fixed-point number. -/
def exp (z : Int) : Int :=
  let q := z / ln2
  let e := expSmall (z - q * ln2)
  if 0 ≤ q then e * 2 ^ q.toNat else e / 2 ^ (-q).toNat

/-- ln m for 1 ≤ m < 2. -/
def lnSmall (m : Int) : Int := 2 * atanh ((m - unit) * unit / (m + unit))

/-- The error allowed around a computed value: 2^-560, far above the sum of the truncation errors. -/
def slack : Int := 2 ^ 80

/-- A fixed-point number as an exact value. -/
def toVal (i : Int) : FVal := .fin (decide (i < 0)) i.natAbs (-640)

/-- The lower end of the enclosure of a value whose sign is that of `v`. -/
def lower (v : Int) : Int := if 0 ≤ v then max 0 (v - slack) else v - slack

/-- The rounded value, where everything within the slack of `v`, and of its sign, rounds alike. -/
def roundSure (f : FpFmt) (v : Int) : Option FVal :=
  let a := FVal.round f (toVal (lower v))
  let b := FVal.round f (toVal (v + slack))
  if a = b || (FVal.code f a = FVal.code f b) then some a else none

/-- A finite value in fixed point, floor. -/
def ofVal : FVal → Int
  | .fin n m e =>
    let a : Int := if 0 ≤ e then m * 2 ^ e.toNat * unit else m * unit / 2 ^ (-e).toNat
    if n then -a else a
  | _ => 0

/-- 1 / (1 + e^-z). -/
def sigmoid (z : Int) : Int := unit * unit / (unit + exp (-z))

end Fixed

/-- FP32 constants of GELU in R133. -/
def geluK : FVal := f32 0x3F4C422A
def geluC : FVal := f32 0x3D372713

/-- Whether |x| is at least 400: beyond it the enclosures below are the limits of the function. -/
def isLarge (x : FVal) : Bool := FVal.le (.fin false 400 0) x.abs

/-- x × sigmoid (y) for exact x and y: SILU with y = x, GELU with y = 2k(x + c x³). For y of large magnitude the
factor lies within 2^-500 of 1 or of 0. -/
def gated (f : FpFmt) (x y : FVal) : Option FVal :=
  if isLarge y then
    if y.isNeg then
      if FVal.lt (FVal.round f (FVal.mul x.abs (FVal.pow2 (-500)))) (FVal.pow2 (f.emin - 4)) then
        some (.fin x.isNeg 0 0)
      else none
    else some (FVal.round f x)
  else
    match x with
    | .fin n m e =>
      let s := Fixed.sigmoid (Fixed.ofVal y)
      let a := FVal.round f (FVal.mul (.fin n m e) (Fixed.toVal (Fixed.lower s)))
      let b := FVal.round f (FVal.mul (.fin n m e) (Fixed.toVal (s + Fixed.slack)))
      if a = b || FVal.code f a = FVal.code f b then some a else none
    | _ => none

/-- log2 x for a finite positive value. -/
def log2Val (f : FpFmt) (m : Nat) (e : Int) : Option FVal :=
  let k := Nat.log2 m
  let ip : Int := (k : Int) + e
  if m = 2 ^ k then some (FVal.round f (FVal.ofInt ip))
  else
    let l := Fixed.lnSmall (Fixed.ofRat m (2 ^ k))
    Fixed.roundSure f (ip * Fixed.unit + l * Fixed.unit / Fixed.ln2)

/-- 2^x for a finite value. -/
def exp2Val (f : FpFmt) (x : FVal) : Option FVal :=
  match x with
  | .fin n m e =>
    if isLarge x then
      some (if n then .fin false 0 0 else .inf false)
    else
      let t := Fixed.ofVal x
      let q := t / Fixed.unit
      if q * Fixed.unit = t && (0 ≤ e || m % 2 ^ (-e).toNat = 0) then some (FVal.round f (FVal.pow2 q))
      else
        let r := Fixed.expSmall (Fixed.mul (t - q * Fixed.unit) Fixed.ln2)
        let a := FVal.round f (FVal.mul (Fixed.toVal (r - Fixed.slack)) (FVal.pow2 q))
        let b := FVal.round f (FVal.mul (Fixed.toVal (r + Fixed.slack)) (FVal.pow2 q))
        if a = b || FVal.code f a = FVal.code f b then some a else none
  | _ => none

/-- tanh of a finite value that is not zero. -/
def tanhVal (f : FpFmt) (x : FVal) : Option FVal :=
  let v := if isLarge x then Fixed.unit
    else
      let t := Fixed.exp (-(2 * Fixed.ofVal x.abs))
      (Fixed.unit - t) * Fixed.unit / (Fixed.unit + t)
  (Fixed.roundSure f v).map (fun r => if x.isNeg then r.neg else r)

/-- 1 / (1 + e^-x) of a finite value. -/
def sigmoidVal (f : FpFmt) (x : FVal) : Option FVal :=
  if isLarge x then some (if x.isNeg then FVal.zero else FVal.one)
  else Fixed.roundSure f (Fixed.sigmoid (Fixed.ofVal x))

/-- Whether a function of R133 has a mathematical value, or a result that R133 states, at this operand. -/
def fnValue (op : Nat) (f : FpFmt) (x : FVal) : Option FVal :=
  match x with
  | .nan => some .nan
  | .inf _ => if op = 0x22 && x.isNeg then some .nan else if op = 0x24 && x.isNeg then some .nan else none
  | .fin n m e =>
    match op with
    | 0x20 => some (if m = 0 then .inf n else FVal.div f FVal.one x)
    | 0x21 => if m = 0 || n then none else let q := scaleRat 1 m e; some (sqrtRat f q.1 q.2)
    | 0x22 =>
      if m = 0 then some x else if n then some .nan
      else let q := scaleRat m 1 (-e); some (sqrtRat f q.1 q.2)
    | 0x23 => if m = 0 then some FVal.one else exp2Val f x
    | 0x24 => if m = 0 then none else if n then some .nan else log2Val f m e
    | 0x25 => if m = 0 then some x else tanhVal f x
    | 0x26 => if m = 0 then some (.fin false 1 (-1)) else sigmoidVal f x
    | 0x27 => if m = 0 then some x else gated f x x
    | 0x28 =>
      if m = 0 then some x
      else
        let cube := FVal.mul x (FVal.mul x x)
        gated f x (FVal.mul (.fin false 2 0) (FVal.mul geluK (FVal.add x (FVal.mul geluC cube))))
    | _ => none

end Sys2Proof
end

