-- ==== Sys2Proof/Machine/Ve.lean ====
section
/-! DEFINITION. The vector engine's operand forms and checks: spec/05_vector_engine.md R121 to R131, R142. -/

namespace Sys2Proof.Machine

/-! ## Fields -/

namespace VeField

def op (x : VeInstr) : Nat := x.elemFormat.toNat
def immB (x : VeInstr) : Bool := bit x.flags.toNat 0
def sat (x : VeInstr) : Bool := bit x.flags.toNat 1
def round (x : VeInstr) : Nat := bits x.flags.toNat 3 2
def axis (x : VeInstr) : Bool := bit x.flags.toNat 4
def zeroing (x : VeInstr) : Bool := bit x.flags.toNat 5
/-- g of R122. -/
def g (x : VeInstr) : Nat := 2 ^ (x.group.toNat % 4)
/-- L of R123. -/
def cols (x : VeInstr) : Nat := 2 ^ x.rowLog2.toNat

end VeField

/-- Width in bytes of a VE element format, R123; 0 for a format that the VE does not compute on. -/
def veWidth (f : Nat) : Nat :=
  match f with
  | 0x01 => 8 | 0x02 => 4 | 0x03 => 2 | 0x04 => 2 | 0x05 => 1 | 0x06 => 1 | 0x07 => 4 | 0x08 => 1 | _ => 0

/-- E of R122 for the ELEM_FORMAT of an instruction. -/
def veCount (x : VeInstr) : Nat := 8192 * VeField.g x / veWidth x.elemFormat.toNat

/-- The operation classes of R123. -/
inductive VeClass where
  | move | addMinMax | arith | logic | function | compare | convert | block | decode | reduce | permute | select | random | any
  deriving DecidableEq, Repr

/-- Whether an operation class is open to an element format, R123 (and R131, R133, R139). -/
def classOpen (k : VeClass) (f : Nat) : Bool :=
  let wide := f = 0x02 || f = 0x03 || f = 0x04
  match k with
  | .move | .compare | .convert | .permute | .select | .any => veWidth f ≠ 0
  | .addMinMax => f = 0x01 || wide || f = 0x07 || f = 0x08
  | .arith => f = 0x01 || wide || f = 0x07
  | .logic => f = 0x07 || f = 0x08
  | .function => f = 0x01 || wide
  | .block => wide
  | .decode => f = 0x02 || f = 0x03
  | .reduce => f = 0x01 || wide || f = 0x07 || f = 0x08
  | .random => wide || f = 0x07 || f = 0x08

/-- A register operand: first register and number of registers (R122). -/
structure VeRange where
  first : Nat
  count : Nat
  deriving DecidableEq, Repr

namespace VeRange

def grp (x : VeInstr) (r : Byte) : VeRange := ⟨r.toNat, VeField.g x⟩
/-- An operand of `n` bytes from a register on: a mask, results, elements of another width. -/
def run (r : Byte) (n : Nat) : VeRange := ⟨r.toNat, ceilDiv n 8192⟩

/-- The first register of every operand is a multiple of g (R122; DEDUCED for a mask and results, log entry 95), and the last lies
within the declared count. -/
def ok (x : VeInstr) (limit : Nat) (r : VeRange) : Bool :=
  r.first % VeField.g x = 0 && decide (r.first + r.count ≤ limit)

def overlaps (a b : VeRange) : Bool := decide (a.first < b.first + b.count) && decide (b.first < a.first + a.count)

end VeRange

/-- What the check of R126 needs to know of an operation. -/
structure VeShape where
  cls : VeClass
  /-- Destination and source registers. -/
  dst : Option VeRange := none
  srcs : List VeRange := []
  /-- AUX within its range. -/
  auxOk : Bool
  /-- VLD and VST use STRIDE; they, CVTB, CMPR and EXPD use ADDR. -/
  usesStride : Bool := false
  usesAddr : Bool := false
  /-- The destination must not overlap a source. -/
  apart : Bool := false
  /-- Further conditions of the operation's own row. -/
  extra : Bool := true
  deriving DecidableEq, Repr

/-- The check of R126, less addresses and conversion blocks. -/
def veFieldsOk (x : VeInstr) (limit : Nat) (h : VeShape) : Bool :=
  x.reserved = 0 && decide (x.pred.toNat < 16) && decide (x.group.toNat < 4)
  && decide (3 ≤ x.rowLog2.toNat) && decide (x.rowLog2.toNat ≤ 16) && decide (x.flags.toNat < 64)
  && VeField.round x ≠ 3 && (decide (x.signalObj.toNat < 64) || x.signalObj = 0xFFFF)
  && classOpen h.cls x.elemFormat.toNat && decide (VeField.cols x ≤ veCount x)
  && (x.pred = 0 || decide (VeField.cols x ≤ 256)) && h.auxOk
  && (if h.usesStride then x.stride.toNat % 64 = 0 else x.stride = 0) && (h.usesAddr || x.addr = 0)
  && h.srcs.all (VeRange.ok x limit) && (match h.dst with | some d => VeRange.ok x limit d | none => true)
  && (!h.apart || (match h.dst with | some d => h.srcs.all (fun r => !VeRange.overlaps d r) | none => true))
  && h.extra

/-! ## Elements -/

/-- Elements of `w` bytes, lowest first. -/
def splitCodes (w : Nat) : Nat → List Byte → List Nat
  | 0, _ => []
  | n + 1, bs => leNat (bs.take w) :: splitCodes w n (bs.drop w)

/-- The bytes of elements of `w` bytes. -/
def joinCodes (w : Nat) (cs : List Nat) : List Byte := cs.flatMap (leBytes w)

/-- The value of an element of a VE format. -/
def veValue (f c : Nat) : FVal := elemValue (Fmt.ofCode f) c

/-- Rounding format of an arithmetic element format, R132. -/
def veFp (f : Nat) : FpFmt := match f with | 0x01 => fp64 | 0x03 => bf16 | 0x04 => fp16 | _ => fp32

def isFloat (f : Nat) : Bool := match f with | 0x07 => false | 0x08 => false | _ => true

/-- IMM converted to ELEM_FORMAT by RNE (R124, R125): FP64 for floating-point formats, a signed number for integers. -/
def immCode (x : VeInstr) : Nat :=
  let f := x.elemFormat.toNat
  convValue (Fmt.ofCode f) .rne false (if isFloat f then f64 x.imm.toNat else FVal.ofInt x.imm.toInt)

/-- Destination elements: the new value where active; otherwise zero or the old value (R130). -/
def mergeElems (zeroing : Bool) (act : List Bool) (old new : List Nat) : List Nat :=
  (act.zip (old.zip new)).map (fun p => if p.1 then p.2.2 else if zeroing then 0 else p.2.1)

/-- Runs of consecutive addresses among the bytes that are written. -/
def joinRuns : List (Nat × Byte) → List (Nat × List Byte)
  | [] => []
  | (a, b) :: t =>
    match joinRuns t with
    | (a', bs) :: r => if a' = a + 1 then (a, b :: bs) :: r else (a, [b]) :: (a', bs) :: r
    | [] => [(a, [b])]

namespace Chip

/-- `n` elements of `w` bytes from register `r` on. -/
def veRead (s : Chip) (c r w n : Nat) : List Nat := splitCodes w n (s.readTile c (8192 * r) (n * w))

def veWrite (s : Chip) (c r w : Nat) (cs : List Nat) : Chip := s.writeTile c (8192 * r) (joinCodes w cs)

/-- The active elements of the view, R128 and R129. -/
def veActive (s : Chip) (c : Nat) (x : VeInstr) : List Bool :=
  (List.range (veCount x)).map (fun e =>
    (x.pred = 0 || (s.pred c x.pred.toNat).getLsbD (e % VeField.cols x))
      && (x.limit = 0 || decide (e < x.limit.toNat)))

/-- Source B: the register group, or IMM in every element. -/
def veB (s : Chip) (c : Nat) (x : VeInstr) : List Nat :=
  if VeField.immB x then List.replicate (veCount x) (immCode x)
  else s.veRead c x.srcB.toNat (veWidth x.elemFormat.toNat) (veCount x)

def veA (s : Chip) (c : Nat) (x : VeInstr) : List Nat := s.veRead c x.srcA.toNat (veWidth x.elemFormat.toNat) (veCount x)
def veC (s : Chip) (c : Nat) (x : VeInstr) : List Nat := s.veRead c x.srcC.toNat (veWidth x.elemFormat.toNat) (veCount x)
/-- The mask at SRC_C: one INT8 per element. -/
def veMask (s : Chip) (c : Nat) (x : VeInstr) : List Nat := s.veRead c x.srcC.toNat 1 (veCount x)

/-- Write a destination group of elements of `w` bytes under the predicate and LIMIT. -/
def veMerge (s : Chip) (c : Nat) (x : VeInstr) (w : Nat) (new : List Nat) : Chip :=
  s.veWrite c x.dst.toNat w
    (mergeElems (VeField.zeroing x) (s.veActive c x) (s.veRead c x.dst.toNat w (veCount x)) new)

/-- Cycles of R142: w_max and the inverse of the rate factor. -/
def veCycles (x : VeInstr) (wmax inv : Nat) : Nat :=
  let e := veCount x
  let p := if x.limit ≠ 0 && decide (x.limit.toNat < e) && !VeField.zeroing x then x.limit.toNat else e
  ceilDiv (p * wmax * inv) 512

/-- The code with which an instruction of a core that is not enabled completes (R127, R144). -/
def coreStop (s : Chip) (c : Nat) : Nat :=
  if s.coreState c = 2 then Code.unitDraining else if s.coreState c = 0 then Code.unitDisabled else 0

/-- An FP64 refactorisation occupies the VE of core c, the REFACT_CORE of a descriptor of its cluster's unit (R195, R210). -/
def refactOn (s : Chip) (c : Nat) : Bool :=
  (s.solver (c / 4)).any (fun r => r.phase = .refact && r.lead = c / 4 && r.desc.refactCore = c % 4)

/-- The VE takes its next instruction when the one in front of it has completed, and no refactorisation occupies it. -/
def veReady (s : Chip) (c : Nat) : Bool := (s.ve c).isEmpty && !s.refactOn c

/-- An instruction occupies the VE: its run and the counter BUSY_CYCLES (R145). -/
def veStart (s : Chip) (c cycles : Nat) (r : VeRun) : Chip := (s.bumpVe c 0 cycles).setVe c (s.ve c ++ [r])

/-- The common head of a VE instruction: tag, state and check, then its effect with the index of the entry. `ranges` are those that it
reads or writes in memory. -/
def veHead (s : Chip) (c : Nat) (t : EntryTag) (x : VeInstr) (check : Nat) (run : Chip → Nat → Chip)
    (ranges : List (Nat × Nat) := []) : Option Chip :=
  let ix := (s.stream c 2).count
  let code := if s.coreStop c ≠ 0 then s.coreStop c else if tagOk t 1 3 then check else Code.outOfRange
  if code ≠ 0 then some ((s.atHead c 2).finishAt c 2 code ix x.signalObj.toNat (s.arrayBad c code ranges))
  else if s.veReady c then some (run (s.atHead c 2) ix) else none

/-- The check of an operation that touches no memory. -/
def veCheck (s : Chip) (c : Nat) (x : VeInstr) (h : VeShape) : Nat :=
  Code.need (veFieldsOk x (s.tileCount c) h) Code.outOfRange

/-- The run of an instruction that writes registers from `dst` on. -/
def veRunOf (c : Nat) (x : VeInstr) (ix bytes : Nat) : VeRun :=
  { signalObj := x.signalObj.toNat, index := ix, status := 0, tileOut := some (2 ^ 19 * c + 8192 * x.dst.toNat, bytes) }

/-- An elementwise operation: sources, then the merged destination. -/
def veElementwise (s : Chip) (c : Nat) (x : VeInstr) (inv ix : Nat) (new : List Nat) : Chip :=
  let w := veWidth x.elemFormat.toNat
  (s.veMerge c x w new).veStart c (veCycles x w inv) (veRunOf c x ix (veCount x * w))

end Chip

/-! ## Arithmetic on codes, R131 to R133 -/

/-- Wrap an integer into the element's code. -/
def intCode (f : Nat) (i : Int) : Nat := wrapTo (8 * veWidth f) i
def intVal (f c : Nat) : Int := signedOf (8 * veWidth f) c

/-- A two-operand arithmetic operation on codes: exact, then rounded once, or wrapping. -/
def arith2 (fp : FVal → FVal → FVal) (it : Int → Int → Int) (f a b : Nat) : Nat :=
  if isFloat f then FVal.code (veFp f) (FVal.round (veFp f) (fp (veValue f a) (veValue f b)))
  else intCode f (it (intVal f a) (intVal f b))

def veAdd (f a b : Nat) : Nat := arith2 FVal.add (· + ·) f a b
def veSub (f a b : Nat) : Nat := arith2 FVal.sub (· - ·) f a b
def veMul (f a b : Nat) : Nat := arith2 FVal.mul (· * ·) f a b
def veMin (f a b : Nat) : Nat := arith2 FVal.min2 min f a b
def veMax (f a b : Nat) : Nat := arith2 FVal.max2 max f a b

def veFma (f a b d : Nat) : Nat :=
  if isFloat f then FVal.code (veFp f) (FVal.fma (veFp f) (veValue f a) (veValue f b) (veValue f d))
  else intCode f (intVal f a * intVal f b + intVal f d)

/-- The least integer of a format: its absolute value and negation lie outside the format and no rule states them. -/
def isIntMin (f a : Nat) : Bool := !isFloat f && intVal f a = -(2 ^ (8 * veWidth f - 1) : Int)

def veAbs (f a : Nat) : Nat :=
  if isIntMin f a then (Config.fnUnstated 0x16 f a).toNat % 2 ^ (8 * veWidth f)
  else if isFloat f then FVal.code (veFp f) (veValue f a).abs else intCode f (intVal f a).natAbs

def veNeg (f a : Nat) : Nat :=
  if isIntMin f a then (Config.fnUnstated 0x17 f a).toNat % 2 ^ (8 * veWidth f)
  else if isFloat f then FVal.code (veFp f) (veValue f a).neg else intCode f (-intVal f a)

def veShl (f a b : Nat) : Nat := intCode f ((a * 2 ^ (b % (8 * veWidth f)) : Nat) : Int)
def veShr (f a b : Nat) : Nat := intCode f (intVal f a / 2 ^ (b % (8 * veWidth f)))

/-- A function of R133 on a code; a value that no rule states is free. -/
def veFunction (op f a : Nat) : Nat :=
  match fnValue op (veFp f) (veValue f a) with
  | some v => FVal.code (veFp f) v
  | none => (Config.fnUnstated op f a).toNat % 2 ^ (8 * veWidth f)

/-- The conditions of CMP: EQ, NE, LT, LE, GT, GE, UNORD. -/
def veCompare (f cond a b : Nat) : Bool :=
  if isFloat f then
    let u := veValue f a
    let v := veValue f b
    match cond with
    | 0 => FVal.eqv u v
    | 1 => !FVal.eqv u v
    | 2 => FVal.lt u v
    | 3 => FVal.le u v
    | 4 => FVal.lt v u
    | 5 => FVal.le v u
    | _ => u.isNan || v.isNan
  else
    let u := intVal f a
    let v := intVal f b
    match cond with
    | 0 => u = v
    | 1 => u ≠ v
    | 2 => u < v
    | 3 => u ≤ v
    | 4 => v < u
    | 5 => v ≤ u
    | _ => false

end Sys2Proof.Machine
end

