-- ==== Sys2Proof/Machine/Solver.lean ====
section
/-! DEFINITION. The solver units: acceptance, phases and delivery of descriptors: spec/07_solver_units.md R181 to R215, R495,
R504. The arithmetic stands in SolverMath.lean. -/

namespace Sys2Proof.Machine

/-! ## Addresses -/

/-- Members of a gang or pair, the lead first, R206 and R208. -/
def solveUnits (d : SolveDesc) (k : Nat) : List Nat :=
  if d.paired then [k, Nat.xor k 1] else (List.range (max d.gang 1)).map (fun i => k + i)

/-- X_ADDR lies in the local memory of a core of the unit's cluster or in its stack's HBM, R196. -/
def xPlaceOk (k off n : Nat) : Bool :=
  (List.range 4).any (fun i => decide (localOf (4 * k + i) ≤ off) && decide (off + n ≤ localOf (4 * k + i) + coreBytes))
    || (decide (stackBytes * (k / 16) ≤ off) && decide (off + n ≤ stackBytes * (k / 16 + 1)))

namespace Chip

/-- An address of a descriptor of a job: class 00, own node, R220. -/
def checkSolve (s : Chip) (slot addr n : Nat) : Nat :=
  if addrClass addr ≠ 0 then Code.outOfRange else s.checkRange slot addr n true

/-- How a unit reads program memory: the code of R220, or of a poisoned line (R223). -/
def solveReader (s : Chip) (slot : Nat) : Solve.Reader := fun addr n =>
  let c := s.checkSolve slot addr n
  if c ≠ 0 then .error (c, none)
  else
    let r := s.load (addrOff addr) n
    if r.2 ≠ 0 then .error (r.2, s.firstPoisoned (addrOff addr) n) else .ok r.1

/-! ## Acceptance, R182, R200, R212 -/

/-- Queue space on the members other than the lead (R182); the lead's own space is the stream's issue condition. -/
def partnersHaveRoom (s : Chip) (d : SolveDesc) (k : Nat) : Bool :=
  ((solveUnits d k).drop 1).all (fun m => decide ((s.solver m).length < 8))

/-- The deadline rule of R200: deadlines of one unit lie at least 1,024 cycles apart. Their distance is a matter of time,
so it is free wherever another descriptor with a deadline is queued or running. -/
def deadlinesClose (s : Chip) (d : SolveDesc) (k : Nat) : Bool :=
  d.deadline ≠ 0 && (s.solver k).any (fun r => r.desc.deadline ≠ 0) && decide (Config.freeChoice s.free 0 % 2 = 1)

/-- REFACT_ADDR's workspace lies in HBM of the unit's Slate stack, R184. -/
def refactPlaceOk (s : Chip) (d : SolveDesc) (k : Nat) : Bool :=
  !d.refactEn || (addrNode d.refactAddr = s.node && stackBytes * (k / 16) ≤ addrOff d.refactAddr
    && addrOff d.refactAddr + 8 * d.stored ≤ stackBytes * (k / 16 + 1))

/-- The rows of R182, in order. -/
def acceptCode (s : Chip) (d : SolveDesc) (k slot : Nat) : Nat :=
  let units := solveUnits d k
  let vec := 8 * d.n * d.nrhs
  let held (m : Nat) : Bool := decide (m < 64) && decide (s.slotOfSolver m = slot)
  let objOk (r : Nat) : Bool := r = 0xFFFF || (s.obj (objOfRef r)).owner.toNat = slot
  Code.firstOf
    [Code.need (d.completion % 64 = 0) Code.outOfRange,
     s.checkRange slot d.completion 64 true,
     Code.need (d.fieldsOk && s.refactPlaceOk d k) Code.outOfRange,
     if d.prevValid then s.checkSolve slot d.prevAddr vec else 0,
     if d.fillPolicy = 2 then s.checkSolve slot d.fillAddr (8 * d.blockLen * d.nrhs) else 0,
     if d.refactEn then s.checkSolve slot d.refactAddr (8 * d.stored) else 0,
     Code.need (units.all held && k % max d.gang 1 = 0) Code.outOfRange,
     Code.need (objOk d.startObj && objOk d.signalObj) Code.accessDenied,
     Code.need (addrNode d.xAddr = s.node && xPlaceOk k (addrOff d.xAddr) vec) Code.outOfRange,
     s.checkSolve slot d.xAddr vec,
     Code.need (d.version = if s.g3 then 1 else 2) Code.outOfRange,
     Code.need (!s.deadlinesClose d k && s.partnersHaveRoom d k) Code.stateConflict,
     Code.need (units.all (fun m => s.solverState m ≠ 2)) Code.unitDraining,
     Code.need (units.all (fun m => s.solverState m ≠ 0)) Code.unitDisabled]

/-- SIGNAL_OBJ of a descriptor, where the job holds the object. -/
def solveSignal (s : Chip) (k slot ref : Nat) : Chip :=
  if ref = 0xFFFF || !SolveDesc.refOk ref || (s.obj (objOfRef ref)).owner.toNat ≠ slot then s
  else s.post (objOfRef ref) 1 (s.solverUnit k)

/-! ## Records and delivery, R196, R202 to R205 -/

/-- The canonical FP64 NaN. -/
def nan64 : Nat := 0x7FF8000000000000

/-- A completion record; cycle fields are free, saturated at 2^32 − 1 by their width. -/
def solveRecord (s : Chip) (r : SolveRun) (o : SolveOutcome) : List Byte :=
  let cyc (i : Nat) : List Byte := leBytes 4 (Config.freeCycles s.free i).toNat
  leBytes 2 o.status ++ leBytes 1 o.delivery ++ leBytes 1 o.iterations ++ leBytes 4 r.events ++ leBytes 8 r.desc.seq
    ++ leBytes 8 o.omega ++ leBytes 4 r.reg ++ leBytes 4 (wrapTo 32 r.scale) ++ cyc 0 ++ cyc 1 ++ cyc 2 ++ cyc 3 ++ cyc 4
    ++ leBytes 4 0 ++ leBytes 8 r.normMax

/-- A refusal record, R205. -/
def refusalRecord (code seq : Nat) : List Byte :=
  leBytes 2 code ++ [3, 0] ++ leBytes 4 0 ++ leBytes 8 seq ++ leBytes 8 nan64 ++ List.replicate 40 0

/-- A code of the arithmetic class, which does not enter the event log (R203). -/
def arithmeticCode (c : Nat) : Bool := c / 256 = 2

/-- The shifted previous solution, read now (R197, R504). -/
def readSubstitute (s : Chip) (d : SolveDesc) : Option (List U64) :=
  let n := d.n * d.nrhs
  let prev := if d.prevValid then s.load (addrOff d.prevAddr) (8 * n) else (List.replicate (8 * n) 0, 0)
  let fill := if d.fillPolicy = 2 then s.load (addrOff d.fillAddr) (8 * d.blockLen * d.nrhs) else ([], 0)
  if Code.first prev.2 fill.2 ≠ 0 then none
  else some (Solve.shifted d (Solve.codes prev.1 n) (Solve.codes fill.1 (d.blockLen * d.nrhs)))

/-- Those reads count where they meet a poisoned line (R223). -/
def countSubstitute (s : Chip) (d : SolveDesc) : Chip :=
  let s1 := if d.prevValid then s.countBad (addrOff d.prevAddr) (8 * d.n * d.nrhs) else s
  if d.fillPolicy = 2 then s1.countBad (addrOff d.fillAddr) (8 * d.blockLen * d.nrhs) else s1

/-- Read the substitute; a read that fails is an event of the descriptor (R204). -/
def withSubstitute (s : Chip) (r : SolveRun) : SolveRun :=
  let x := s.readSubstitute r.desc
  { r with substitute := x, events := if x.isNone then Nat.lor r.events 0x200 else r.events }

/-- Deliver the shifted previous solution under a status, or nothing where it cannot be read (R197, R504). -/
def shiftedOutcome (r : SolveRun) (status event : Nat) : SolveRun :=
  match r.substitute with
  | some x =>
    { r with phase := .deliver
             events := Nat.lor (Nat.lor r.events event) (if r.desc.prevValid then 0 else 0x100)
             outcome := some ⟨status, 2, r.corrections, nan64, x⟩ }
  | none =>
    { r with phase := .deliver, events := Nat.lor r.events event
             outcome := some ⟨Code.uncorrectable, 3, r.corrections, nan64, []⟩ }

/-- An end by error, draining or fault: under R199 a deadline brings the shifted previous solution, else nothing. -/
def errorOutcome (r : SolveRun) (status : Nat) : SolveRun :=
  if r.desc.deadline ≠ 0 then shiftedOutcome r status 0
  else { r with phase := .deliver, outcome := some ⟨status, 3, r.corrections, nan64, []⟩ }

/-- An iterate's columns as the delivered x = D_c y, FP64 codes. -/
def deliveredX (r : SolveRun) (cols : List (List FVal)) : List U64 :=
  cols.flatMap (fun c => (SMap.number 0 c).map (fun e =>
    Solve.cod (FVal.mulR fp64 e.2 (FVal.pow2 (r.colExp.getD e.1 0)))))

/-- Deliver an iterate. -/
def iterateOutcome (r : SolveRun) (it : Iterate) (delivery status event : Nat) : SolveRun :=
  { r with phase := .deliver, events := Nat.lor r.events event
           outcome := some ⟨status, delivery, it.number, FVal.code fp64 it.omega, deliveredX r it.cols⟩ }

/-- STATUS of a converged delivery, R203; after a refactorisation, that of R195. -/
def convergedStatus (r : SolveRun) : Nat :=
  if bit r.events 3 || r.inFp64 then Code.refinementStalled
  else if bit r.events 1 then Code.overflowRescaled
  else if bit r.events 0 then Code.pivotRegularised
  else 0

/-- Change the descriptor of a ticket on unit k. -/
def updSolve (s : Chip) (k ticket : Nat) (f : SolveRun → SolveRun) : Chip :=
  s.setSolver k ((s.solver k).map (fun r => if r.ticket = ticket && r.lead = k then f r else r))

/-- Units that count the work of a descriptor, R215: both of a pair compute it (R208); a gang's work counts on its lead. -/
def workUnits (r : SolveRun) : List Nat := if r.desc.paired then solveUnits r.desc r.lead else [r.lead]

/-- Count work of a descriptor in counter i of its units. -/
def countWork (s : Chip) (r : SolveRun) (i n : Nat) : Chip := (workUnits r).foldl (fun (t : Chip) m => t.bumpSolver m i n) s

/-- The descriptor as its lead holds it, R206 and R208. -/
def leadRun (s : Chip) (r : SolveRun) : SolveRun :=
  ((s.solver r.lead).find? (fun q => q.ticket = r.ticket && q.lead = r.lead)).getD r

/-- The descriptor in front of a unit. -/
def solveFront (s : Chip) (k : Nat) : Option SolveRun := (s.solver k).head?

/-- The head of the queue registers its START_OBJ watch, R183; a gang or pair waits until it heads every queue. -/
def solverHead (s : Chip) (k : Nat) : Chip :=
  match s.solveFront k with
  | some r =>
    if r.lead = k && r.phase = .queued && r.desc.startObj ≠ 0xFFFF && decide (k < 64) then
      let w : Registration := ⟨.solver (Fin.ofNat 64 k), objOfRef r.desc.startObj, BitVec.ofNat 32 (s.solverUnit k),
        BitVec.ofNat 64 r.desc.startValue, 4, 0⟩
      { s.updSolve k r.ticket (fun r => { r with phase := .waiting }) with registrations := s.registrations ++ [w] }
    else s
  | none => s

/-- Remove a unit's START_OBJ wait, wherever it stands (R198, R264). -/
def dropSolverWait (s : Chip) (k : Nat) : Chip :=
  let keep (r : Registration) : Bool := match r.waiter with | .solver j => j.val ≠ k | _ => true
  { s with
    registrations := s.registrations.filter keep
    wakes := s.wakes.filter keep
    objs := (s.objs.map (fun p => (p.1, { p.2 with watches := p.2.watches.filter (fun w =>
      match w.waiter with | .solver j => j.val ≠ k | _ => true) }))).filter (fun p => p.2 ≠ {}) }

/-- Write X, the record and the signal of a descriptor that delivers, take it out of every queue, and let the next head
register (R196, R203, R214, R215). -/
def deliver (s : Chip) (k : Nat) (r : SolveRun) : Chip :=
  match r.outcome with
  | none => s
  | some o0 =>
    let u := s.solverUnit k
    let w := if o0.delivery = 3 then (0, s) else s.store u (addrOff r.desc.xAddr) (o0.x.flatMap (fun c => leBytes 8 c.toNat))
    let o := if w.1 = 0 then o0 else { o0 with status := w.1 }
    let s1 := w.2.putAfter u (addrOff r.desc.completion) (w.2.solveRecord r o)
    let s2 := s1.solveSignal k r.slot r.desc.signalObj
    let s3 := if o.status = 0 || arithmeticCode o.status then s2
      else (s2.noteError r.slot u o.status).addLog o.status r.slot 0 u (leBytes 8 r.desc.seq)
    let s4 := if o.delivery = 2 then s3.bumpSolver k 5 1 else s3
    let s5 := if o.status = Code.deadlinePartial then s4.bumpSolver k 6 1 else s4
    let s6 := if o.status = Code.deadlineShifted || o.status = Code.deadlinePartial then s5.countNd 9 r.slot 1 else s5
    let s7 := (solveUnits r.desc k).foldl (fun (t : Chip) m =>
      t.setSolver m ((t.solver m).filter (fun q => !(q.ticket = r.ticket && q.lead = k)))) s6
    (solveUnits r.desc k).foldl (fun (t : Chip) m =>
      match t.solveFront m with
      | some q => t.solverHead q.lead
      | none => t) s7

/-! ## SOLVE in the CP stream, R181, R495 -/

/-- The check of a CP operation's DESC_ADDR: alignment, R220 and the own core's local memory (R181). -/
def checkDesc (s : Chip) (c addr align n : Nat) : Nat :=
  if addr % align ≠ 0 || addrNode addr ≠ s.node then Code.outOfRange
  else Code.first (s.checkRange (s.slotOfCore c) addr n true)
    (Code.need (localOf c ≤ addrOff addr && addrOff addr + n ≤ localOf c + coreBytes) Code.outOfRange)

/-- Refuse an entry of a CP stream whose descriptor, of `n` bytes, cannot be read: with the failing address where R220 or R223 is the
cause. -/
def refuseEntry (s : Chip) (c ix code addr n : Nat) : Chip := s.recordFault c 3 code ix (s.arrayBad c code [(addr, n)])

/-- A refusal of a descriptor by its unit: record, signal and event (R182, R205). -/
def refuseSolve (s : Chip) (d : SolveDesc) (k c slot code : Nat) : Chip :=
  let u := s.solverUnit k
  let recordOk := d.completion % 64 = 0 && s.checkRange slot d.completion 64 true = 0
  let s1 :=
    if recordOk then
      ((s.put u (addrOff d.completion) (refusalRecord code d.seq)).noteError slot u code).addLog code slot 0 u (leBytes 8 d.seq)
    else s.recordAt c 3 code d.completion
  s1.solveSignal k slot d.signalObj

/-- The unit takes a descriptor: every member accepts it with one queue entry. -/
def acceptSolve (s : Chip) (d : SolveDesc) (k c slot : Nat) : Chip :=
  let r : SolveRun := { desc := d, slot := slot, core := c, lead := k, ticket := s.free }
  ((solveUnits d k).foldl (fun (t : Chip) m => (t.setSolver m (t.solver m ++ [r])).bumpSolver m 0 1) s).solverHead k

/-- SOLVE at the head of a CP stream; `none` while the unit's queue is full. -/
def headSolve (s : Chip) (c : Nat) (t : EntryTag) (x : CpEntry) : Option Chip :=
  let ix := (s.stream c 3).count
  let stop := s.coreStop c
  let k := x.target.toNat
  let code := if stop ≠ 0 then stop
    else Code.first (Code.need (tagOk t 1 1 && x.opcode = 0x10 && x.reserved = 0 && k < 64) Code.outOfRange)
      (s.checkDesc c x.descAddr.toNat 128 128)
  if stop ≠ 0 then some ((s.atHead c 3).record c 3 stop ix)
  else if code ≠ 0 then some ((s.atHead c 3).refuseEntry c ix code x.descAddr.toNat 128)
  else if 8 ≤ (s.solver k).length then none
  else
    let b := s.load (addrOff x.descAddr.toNat) 128
    let d := SolveDesc.ofBytes b.1
    let slot := s.slotOfCore c
    let refuse := Code.first b.2 (s.acceptCode d k slot)
    some (if b.2 ≠ 0 then (s.atHead c 3).refuseEntry c ix b.2 x.descAddr.toNat 128
      else if refuse ≠ 0 then (s.atHead c 3).refuseSolve d k c slot refuse
      else (s.atHead c 3).acceptSolve d k c slot)

/-! ## Phases -/

/-- Whether the descriptor in front of its lead heads every member's queue. -/
def headsAll (s : Chip) (r : SolveRun) : Bool :=
  (solveUnits r.desc r.lead).all (fun m =>
    match s.solveFront m with | some q => q.ticket = r.ticket && q.lead = r.lead | none => false)

/-- DESCRIPTOR_START: copy the previous solution and run the assembly microprogram (R183, R186 to R188, R197). -/
def startDescriptor (s : Chip) (k : Nat) : Chip :=
  match s.solveFront k with
  | none => s
  | some r =>
    if r.lead = k && s.headsAll r && (r.phase = .ready || (r.phase = .queued && r.desc.startObj = 0xFFFF)) then
      let r1 := s.withSubstitute r
      let s1 := s.countSubstitute r.desc
      match Solve.assemble r.desc (s.solveReader r.slot) with
      | .ok st => s1.updSolve k r.ticket (fun _ => { r1 with phase := .assembly, a := st.a, b := st.b })
      | .error c =>
        let s2 := match c.2 with | some off => s1.countBad off 1 | none => s1
        s2.updSolve k r.ticket (fun _ => errorOutcome r1 c.1)
    else s

/-- Descriptors that occupy a unit and have not started end at once, on all units of their gang or pair (R213, R214); one with a
deadline reads its substitute. -/
def endUnstarted (s : Chip) (k : Nat) : Chip :=
  (((s.solver k).map s.leadRun).filter (fun r => r.phase = .queued || r.phase = .waiting || r.phase = .ready)).foldl (fun (t : Chip) r =>
    let t1 := if (t.leadRun r).phase = .waiting then t.dropSolverWait r.lead else t
    if r.desc.deadline = 0 then t1.deliver r.lead (errorOutcome r Code.unitDraining)
    else (t1.countSubstitute r.desc).deliver r.lead (errorOutcome (t1.withSubstitute r) Code.unitDraining)) s

/-- What ECC found in a window counts as an error of its SRAM (R215, R243). -/
def seeWindow (s : Chip) (o : WindowObs) : Chip :=
  match o with
  | .clean => s
  | .corrected k => s.bump 0x80D2 (k.val / 16 + 1) 1
  | .uncorrectable k => s.bump 0x80D3 (k.val / 16 + 1) 1

/-- The member whose window an uncorrectable error has struck. -/
def lostWindow (r : SolveRun) (o : WindowObs) : Option ClusterId :=
  match o with
  | .uncorrectable m => if (solveUnits r.desc r.lead).contains m.val then some m else none
  | _ => none

/-- A window error ends the descriptor and drains the unit of the window (R215). -/
def windowFault (s : Chip) (m : ClusterId) (r : SolveRun) : Chip :=
  ((s.updSolve r.lead r.ticket (fun r => errorOutcome r Code.uncorrectable)).beginDrain (.solver m)).endUnstarted m

/-- A phase of the descriptor in front of its lead ends: a window error ends the descriptor, else `go` says what follows. -/
def phaseEnd (s : Chip) (k : Nat) (ph : SolvePhase) (o : WindowObs) (go : Chip → SolveRun → Chip) : Chip :=
  match s.solveFront k with
  | none => s
  | some r =>
    if r.lead = k && r.phase = ph then
      match lostWindow r o with
      | some m => (s.seeWindow o).windowFault m r
      | none => go (s.seeWindow o) r
    else s

/-- Scaling and norms of R189. -/
def scaleSystem (free : Nat) (r : SolveRun) : SolveRun :=
  let m := Solve.maxAbs r.a
  let r1 := { r with normMax := if Solve.hasNan r.a then (Config.fnUnstated free 0x189 0).toNat else FVal.code fp64 m }
  if !(Solve.allFinite r.a && Solve.allFinite r.b) then
    errorOutcome { r1 with events := Nat.lor r1.events 0x80 } Code.outOfRange
  else
    let e := Solve.scaleExp r.a
    { r1 with phase := .factor, scale := e, a := Solve.shiftAll r.a (-e), b := Solve.shiftAll r.b (-e) }

/-- SOLVER_ASSEMBLY_DONE. -/
def assemblyDone (s : Chip) (k : Nat) (o : WindowObs) : Chip :=
  s.phaseEnd k .assembly o (fun s r => s.updSolve k r.ticket (scaleSystem s.free))

/-- The right-hand sides as columns. -/
def rhsCols (r : SolveRun) : List (List FVal) := (List.range r.desc.nrhs).map (Solve.column r.desc r.b)

/-- x_0 of R194 from a factor. -/
def firstSolve (r : SolveRun) (f : Solve.Factor) (g : FpFmt) : List (List FVal) :=
  (rhsCols r).map (Solve.scaledSolve r.desc g f)

/-- The regularisations of a factor: REG_COUNT and the event (R192). -/
def noteReg (r : SolveRun) (f : Solve.Factor) : SolveRun :=
  { r with reg := r.reg + f.reg, events := if f.reg = 0 then r.events else Nat.lor r.events 1 }

/-- SOLVER_FACTOR_DONE: an overflow re-equilibrates once, and ends the factorisation the second time (R193). -/
def factorDone (s : Chip) (k : Nat) (o : WindowObs) : Chip :=
  s.phaseEnd k .factor o (fun s r =>
    let f := Solve.factor r.desc fp32 r.a
    let r1 := noteReg r f
    let s1 := s.countWork r 1 f.reg
    if f.overflow then
      if r1.rescaled then
        let r2 := { r1 with events := Nat.lor r1.events 4 }
        if r.desc.refactEn then s1.updSolve k r.ticket (fun _ => { r2 with phase := .refact })
        else s1.updSolve k r.ticket (fun _ => shiftedOutcome r2 Code.overflowRescaled 0)
      else
        let e := Solve.equil r.desc r.a
        (s1.countWork r 2 1).updSolve k r.ticket (fun _ =>
          { r1 with rescaled := true, events := Nat.lor r1.events 2, colExp := e.2
                    a := Solve.applyEquil r.desc r.a e
                    b := r.b.map (fun p => (p.1, Solve.cod (FVal.mulR fp64 (Solve.val p.2)
                      (FVal.pow2 (e.1.getD (p.1 % r.desc.n) 0))))) })
    else
      s1.updSolve k r.ticket (fun _ =>
        { r1 with phase := .refine, factor := some f, pending := some (0, firstSolve r1 f fp32) }))

/-- A stall: the FP64 refactorisation where it is enabled and has not run, else the final delivery (R195). -/
def stall (s : Chip) (k : Nat) (r : SolveRun) : Chip :=
  let r1 := { r with events := Nat.lor r.events 8 }
  if r.desc.refactEn && !r.inFp64 then s.updSolve k r.ticket (fun _ => { r1 with phase := .refact })
  else
    (s.countWork r 3 1).updSolve k r.ticket (fun _ =>
      match r1.best with
      | some it =>
        if FVal.le it.omega (f64 r.desc.accept) then iterateOutcome r1 it 1 Code.refinementStalled 0
        else shiftedOutcome r1 Code.refinementStalled 0
      | none => shiftedOutcome r1 Code.refinementStalled 0)

/-- SOLVER_ITERATION: the residual and ω of the pending iterate, then convergence, a stall or the next correction (R194). -/
def iterationDone (s : Chip) (k : Nat) (o : WindowObs) : Chip :=
  s.phaseEnd k .refine o (fun s r =>
    match r.pending, r.factor with
    | some p, some f =>
      let d := r.desc
      let g := if r.inFp64 then fp64 else fp32
      let bs := rhsCols r
      let rs := (SMap.number 0 bs).map (fun e => Solve.residual d r.a e.2 (p.2.getD e.1 []))
      let w := Solve.omega (Solve.normInf d r.a) rs p.2 bs
      let it : Iterate := ⟨p.1, w, p.2⟩
      let better := match r.best with | none => true | some q => FVal.lt w q.omega
      let r1 := { r with before := r.current, current := some it, best := if better then some it else r.best
                         pending := none, lastOmega := some w }
      let half := match r.lastOmega with
        | some v => decide (1 ≤ r.iter) && FVal.lt (FVal.mul v (FVal.pow2 (-1))) w
        | none => false
      if FVal.le w (f64 d.rtol) then s.updSolve k r.ticket (fun _ => iterateOutcome r1 it 0 (convergedStatus r1) 0)
      else if half || decide (r.iter = d.iterLimit) then s.stall k r1
      else
        let x := (SMap.number 0 p.2).map (fun e =>
          Solve.addVec e.2 (Solve.scaledSolve d g f (rs.getD e.1 [])))
        s.updSolve k r.ticket (fun _ =>
          { r1 with pending := some (p.1 + 1, x), corrections := r.corrections + 1, iter := r.iter + 1 })
    | _, _ => s)

/-- SOLVER_REFACT_DONE: refinement restarts from the best iterate with the FP64 factor (R195). -/
def refactDone (s : Chip) (k : Nat) (o : WindowObs) : Chip :=
  s.phaseEnd k .refact o (fun s r =>
    let f := Solve.factor r.desc fp64 r.a
    let r1 := noteReg r f
    let start := match r.best with
      | some it => (it.number, it.cols)
      | none => (0, firstSolve r1 f fp64)
    ((s.countWork r 1 f.reg).countWork r 4 1).updSolve k r.ticket (fun _ =>
      { r1 with phase := .refine, inFp64 := true, factor := some f, events := Nat.lor r1.events 0x10
                before := none, current := r.best, pending := some start, iter := 0, lastOmega := none }))

/-- A pair compares its results at delivery; one that differs delivers nothing of its own and is a class 2 detection (R208, R470). -/
def deliverPair (s : Chip) (k : Nat) (r : SolveRun) (differs : Bool) : Chip :=
  if differs && r.desc.paired then (s.detectLogged 2).deliver k (errorOutcome r Code.checkMismatch) else s.deliver k r

/-- SOLVER_DELIVERY: normal deliveries, and those that errors, draining and faults trigger. -/
def deliveryDone (s : Chip) (k : Nat) (o : WindowObs) (differs : Bool) : Chip :=
  s.phaseEnd k .deliver o (fun s r => s.deliverPair k r differs)

/-- What the deadline delivers, by phase (R198). A pair takes the latest iterate whose residual both units have computed: the one
before the current, where the partner is behind (R208). -/
def deadlineOutcome (s : Chip) (r : SolveRun) (behind : Bool) : SolveRun :=
  match r.phase with
  | .queued | .waiting | .ready =>
    shiftedOutcome (s.withSubstitute r) Code.deadlineShifted 0x20
  | .refine | .refact =>
    match (if r.phase = .refact then r.best else if behind && r.desc.paired then r.before else r.current) with
    | some i =>
      if FVal.le i.omega (f64 r.desc.accept) then iterateOutcome r i 1 Code.deadlinePartial 0x40
      else shiftedOutcome r Code.deadlineShifted 0x20
    | none => shiftedOutcome r Code.deadlineShifted 0x20
  | _ => shiftedOutcome r Code.deadlineShifted 0x20

/-- DEADLINE of the descriptor with SEQ `seq` on its lead. -/
def deadlineAt (s : Chip) (k seq : Nat) (behind differs : Bool) : Chip :=
  match (s.solver k).find? (fun r => r.lead = k && r.desc.seq = seq && r.desc.deadline ≠ 0 && r.phase ≠ .deliver) with
  | some r =>
    let s1 := if r.phase = .waiting then s.dropSolverWait k else s
    let s2 := match r.phase with | .queued | .waiting | .ready => s1.countSubstitute r.desc | _ => s1
    s2.deliverPair k (s1.deadlineOutcome r behind) differs
  | none => s

/-! ## Draining, R214 -/

/-- The running descriptor is aborted at the drain bound; its delivery follows. -/
def solverBound (s : Chip) (k : Nat) : Chip :=
  if s.solverState k = 2 then
    match (s.solveFront k).map s.leadRun with
    | some r =>
      match r.phase with
      | .deliver => s
      | _ => s.updSolve r.lead r.ticket (fun q => errorOutcome q Code.unitDisabled)
    | none => s
  else s

/-- The queue is empty: the window is released and the state becomes 0. -/
def solverEnd (s : Chip) (k : ClusterId) : Chip :=
  if s.solverState k.val = 2 && (s.solver k.val).isEmpty then s.changeUnit (.solver k) 0 else s

end Chip

end Sys2Proof.Machine
end

