-- ==== Sys2Proof/Machine/Copy.lean ====
section
/-! DEFINITION. Copy engines: acceptance, data movement and completion of copy descriptors: spec/08_memory_hierarchy.md R232 to
R242, spec/11_remote_memory.md R330, spec/13_field_exchange_and_check_values.md R357 to R363. -/

namespace Sys2Proof.Machine

/-! ## Fields and geometry of a descriptor, R233 -/

namespace CopyField

/-- Read the 128 bytes of a descriptor. -/
def ofBytes (b : List Byte) : CopyDesc :=
  let f (w o n : Nat) : BitVec w := BitVec.ofNat w (field b o n)
  { opcode := f 8 0 1, cflags := f 8 1 1, srcFormat := f 8 2 1, dstFormat := f 8 3 1, rows := f 32 4 4, cols := f 32 8 4
    signalObj := f 16 0x0C 2, arrivalObj := f 16 0x0E 2, src := f 64 0x10 8, dst := f 64 0x18 8, srcRowStride := f 64 0x20 8
    dstRowStride := f 64 0x28 8, srcScale := f 64 0x30 8, dstScale := f 64 0x38 8, convAddr := f 64 0x40 8
    arrivalAdd := f 32 0x48 4, cvc := f 16 0x4C 2, reserved := f 16 0x4E 2, srcCoarse := f 32 0x50 4
    reservedMid := f 32 0x54 4, alive := f 64 0x58 8, seq := f 64 0x60 8, completionAddr := f 64 0x68 8
    reservedTail := f 128 0x70 16 }

def transpose (d : CopyDesc) : Bool := bit d.cflags.toNat 0
def guard (d : CopyDesc) : Bool := bit d.cflags.toNat 1
def src (d : CopyDesc) : Fmt := Fmt.ofCode d.srcFormat.toNat
def dst (d : CopyDesc) : Fmt := Fmt.ofCode d.dstFormat.toNat
/-- Rows and columns of the destination. -/
def outRows (d : CopyDesc) : Nat := if transpose d then d.cols.toNat else d.rows.toNat
def outCols (d : CopyDesc) : Nat := if transpose d then d.rows.toNat else d.cols.toNat

/-- Address, bytes of each row, rows and stride of the source and destination element planes. -/
def srcRows (d : CopyDesc) : Nat := (src d).paddedRows d.rows.toNat
def srcRow (d : CopyDesc) : Nat := (src d).rowBytes d.cols.toNat
def dstRows (d : CopyDesc) : Nat := (dst d).paddedRows (outRows d)
def dstRow (d : CopyDesc) : Nat := (dst d).rowBytes (outCols d)
def srcScales (d : CopyDesc) : Nat := (src d).scaleCount d.rows.toNat d.cols.toNat
def dstScales (d : CopyDesc) : Nat := (dst d).scaleCount (outRows d) (outCols d)

/-- Element ranges of a plane: global address and bytes, row by row. -/
def planeRanges (addr rows stride rb : Nat) : List (Nat × Nat) := (List.range rows).map (fun r => (addr + r * stride, rb))

def reads (d : CopyDesc) : List (Nat × Nat) :=
  if d.opcode = 3 then []
  else planeRanges d.src.toNat (srcRows d) d.srcRowStride.toNat (srcRow d)
    ++ (if srcScales d = 0 then [] else [(d.srcScale.toNat, srcScales d)])

def writes (d : CopyDesc) : List (Nat × Nat) :=
  planeRanges d.dst.toNat (dstRows d) d.dstRowStride.toNat (dstRow d)
    ++ (if dstScales d = 0 then [] else [(d.dstScale.toNat, dstScales d)])

/-- First and last byte of a plane as one range. -/
def hull (addr rows stride rb : Nat) : Nat × Nat := (addr, (rows - 1) * stride + rb)

def srcHulls (d : CopyDesc) : List (Nat × Nat) :=
  if d.opcode = 3 then []
  else hull d.src.toNat (srcRows d) d.srcRowStride.toNat (srcRow d)
    :: (if srcScales d = 0 then [] else [(d.srcScale.toNat, srcScales d)])

def dstHulls (d : CopyDesc) : List (Nat × Nat) :=
  hull d.dst.toNat (dstRows d) d.dstRowStride.toNat (dstRow d)
    :: (if dstScales d = 0 then [] else [(d.dstScale.toNat, dstScales d)])

/-- Bytes of the source plane, R239. -/
def srcBytes (d : CopyDesc) : Nat := srcRows d * srcRow d

/-- Fields that R233 and R234 bound, less the conversion block. -/
def ok (d : CopyDesc) : Bool :=
  let fill := d.opcode = 3
  let convert := d.opcode = 2
  (d.opcode = 1 || convert || fill) && decide (d.cflags.toNat < 4)
  && Fmt.valid d.srcFormat.toNat && Fmt.valid d.dstFormat.toNat && (convert || d.dstFormat = d.srcFormat)
  && decide (1 ≤ d.rows.toNat) && decide (d.rows.toNat ≤ 2 ^ 24) && decide (1 ≤ d.cols.toNat) && decide (d.cols.toNat ≤ 2 ^ 24)
  && (d.signalObj = 0xFFFF || refOk d.signalObj.toNat) && (d.arrivalObj = 0xFFFF || refOk d.arrivalObj.toNat)
  && (fill || d.rows = 1 || decide (srcRow d ≤ d.srcRowStride.toNat)) && decide (dstRow d ≤ d.dstRowStride.toNat)
  && ((!fill && (src d).scaled) || d.srcScale = 0) && ((dst d).scaled || d.dstScale = 0)
  && (if convert then d.convAddr.toNat % 32 = 0 else d.convAddr = 0)
  && (if d.arrivalObj = 0xFFFF then d.arrivalAdd = 0 else decide (1 ≤ d.arrivalAdd.toNat) && decide (d.arrivalAdd.toNat ≤ 65535))
  && (d.cvc = 0xFFFF || decide (d.cvc.toNat < 256)) && (d.cvc ≠ 0xFFFF || d.alive = 0)
  && d.reserved = 0 && d.reservedMid = 0 && d.reservedTail = 0
  && (if !fill && (src d).hasCoarse then Conv.coarseOk d.srcCoarse.toNat else d.srcCoarse = 0x3F800000)
  && !(fill && transpose d) && !(d.opcode = 1 && transpose d && (src d).scaled && !(src d).square)
  && d.completionAddr.toNat % 32 = 0

end CopyField

/-- Whether two ranges of one node meet. -/
def rangesMeet (a b : Nat × Nat) : Bool :=
  addrNode a.1 = addrNode b.1 && decide (addrOff a.1 < addrOff b.1 + b.2) && decide (addrOff b.1 < addrOff a.1 + a.2)

/-- 64-byte lines of a range, with its node. -/
def linesOf (r : Nat × Nat) : List (Nat × Nat) :=
  if r.2 = 0 then []
  else (List.range' (addrOff r.1 / 64) ((addrOff r.1 + r.2 - 1) / 64 - addrOff r.1 / 64 + 1)).map (fun l => (addrNode r.1, l))

/-- Pieces of at most 4,096 bytes, R330. -/
def pieces4k : Nat → Nat → Nat → List (Nat × Nat)
  | 0, _, _ => []
  | fuel + 1, a, n => if n = 0 then [] else (a, min n 4096) :: pieces4k fuel (a + min n 4096) (n - min n 4096)

def splitRange (r : Nat × Nat) : List (Nat × Nat) := pieces4k (r.2 / 4096 + 1) r.1 r.2

namespace Chip

def isRemote (s : Chip) (addr : Nat) : Bool := addrNode addr ≠ s.node

/-- The running or waiting descriptors of a queue. -/
def copyQueue (x : Engine) (q : EngineQueue) : List CopyRun := match q with | .job => x.job | .service => x.service
def setCopyQueue (x : Engine) (q : EngineQueue) (l : List CopyRun) : Engine :=
  match q with | .job => { x with job := l } | .service => { x with service := l }

/-- The descriptor in front of a queue. -/
def copyFront (s : Chip) (e : Nat) (q : EngineQueue) : Option CopyRun := (copyQueue (s.engine e) q).head?

/-- Change the descriptor in front of a queue. -/
def updFront (s : Chip) (e : Nat) (q : EngineQueue) (f : CopyRun → CopyRun) : Chip :=
  let x := s.engine e
  match copyQueue x q with
  | r :: t => s.setEngine e (setCopyQueue x q (f r :: t))
  | [] => s

/-! ## Acceptance, R234, R239, R362 -/

/-- R220 for a range of a descriptor; work of no job is bound only to existing memory. -/
def checkCopy (s : Chip) (slot addr n : Nat) (own : Bool) : Nat :=
  if slot < 8 then s.checkRange slot addr n own
  else
    let off := addrOff addr
    if addrClass addr = 3 || addrClass addr = 2 then Code.outOfRange
    else if addrNode addr ≠ s.node then (if own then Code.outOfRange else 0)
    else Code.need ((off < hbmEnd && off + n ≤ hbmEnd) || (localBase ≤ off && off + n ≤ localEnd)) Code.outOfRange

/-- Nodes that a descriptor reaches besides the own one. -/
def copyRemotes (s : Chip) (d : CopyDesc) : List Nat :=
  ((CopyField.srcHulls d ++ CopyField.dstHulls d).filter (fun r => s.isRemote r.1)).map (fun r => addrNode r.1)

/-- The channel conditions of R362. -/
def copyChannelOk (s : Chip) (e slot : Nat) (d : CopyDesc) : Bool :=
  d.cvc = 0xFFFF ||
    (decide (d.cvc.toNat < 192) && decide (d.cvc.toNat / 48 = e / 32)
      && (if slot < 8 then decide (s.slotOfChannel d.cvc.toNat = slot) else decide (s.slotOfChannel d.cvc.toNat < 8))
      && (decide (CopyField.dstRows d = 1) || decide (d.dstRowStride.toNat = CopyField.dstRow d)))

/-- GUARD of R239. -/
def guardOk (s : Chip) (fromBurist : Bool) (d : CopyDesc) : Bool :=
  !CopyField.guard d || (fromBurist && d.opcode = 1 && !CopyField.transpose d
    && !((CopyField.srcHulls d).any (fun r => s.isRemote r.1))
    && (d.rows = 1 || decide (d.srcRowStride.toNat = CopyField.srcRow d))
    && decide (addrOff d.src.toNat % 65536 = 0) && decide (CopyField.srcBytes d % 65536 = 0))

/-- The rows of R234, in order. -/
def copyCode (s : Chip) (e slot : Nat) (fromBurist : Bool) (d : CopyDesc) : Nat :=
  let blk := addrOff d.convAddr.toNat
  let cv := s.readConv blk
  let convert := d.opcode = 2
  Code.firstOf
    [Code.need (CopyField.ok d) Code.outOfRange,
     if convert then s.checkCopy slot d.convAddr.toNat 32 true else 0,
     if convert then Code.first (s.load blk 32).2
       (Code.need (cv.ok true && !cv.biasEn && cv.dst = d.dstFormat.toNat) Code.outOfRange) else 0,
     Code.need ((CopyField.srcHulls d).all (fun a => (CopyField.dstHulls d).all (fun b => !rangesMeet a b))) Code.outOfRange,
     Code.need (s.guardOk fromBurist d) Code.outOfRange,
     Code.need (!((CopyField.srcHulls d).any (fun r => s.isRemote r.1) && (CopyField.dstHulls d).any (fun r => s.isRemote r.1)))
       Code.outOfRange,
     Code.need (s.copyChannelOk e slot d) Code.outOfRange,
     Code.firstOf ((CopyField.srcHulls d ++ CopyField.dstHulls d).map (fun r => s.checkCopy slot r.1 r.2 false)),
     if d.completionAddr = 0 then 0 else s.checkCopy slot d.completionAddr.toNat 32 true,
     Code.need (!(convert && s.convUse.contains blk)) Code.stateConflict,
     Code.need (!(CopyField.guard d && (s.engine e).service.any (fun r => CopyField.guard r.desc))) Code.stateConflict,
     Code.need ((s.copyRemotes d).all s.reachable) Code.peerUnreachable,
     Code.need (s.engineState e ≠ 2) Code.unitDraining,
     Code.need (s.engineState e ≠ 0) Code.unitDisabled]

/-! ## Completion, R236 -/

/-- The job whose objects a descriptor is confined to: that of the submitting stream; Burist may use any (R247). -/
def copySlot (r : CopyRun) : Nat := if r.from_.isNone then 0xFF else if r.slot < 8 then r.slot else 0xFE

/-- A field names an object. -/
def namesObj (ref : Nat) : Bool := ref ≠ 0xFFFF && refOk ref

/-- Send SIGNAL_OBJ's amount, where there is one. -/
def postSignal (s : Chip) (e : Nat) (sig : Option ObjIx) (slot : Nat) : Chip :=
  match sig with
  | some o => s.postFor slot o 1 (s.engineUnit e)
  | none => s

/-- JOB_ID of the messages of a descriptor: that of its job for a CP stream's, 0 for Burist's (R307, R311). -/
def copyJobId (s : Chip) (r : CopyRun) : U64 :=
  if r.from_.isSome then ((s.job r.slot).map (·.jobId)).getD 0 else 0

/-- The arrival signal of a descriptor to the node of its destination (R330). -/
def arrivalMsg (s : Chip) (r : CopyRun) : Msg :=
  let dst := addrNode r.desc.dst.toNat
  { s.newMsg 0x04 dst (2 ^ 63 + dst * 2 ^ 48 + 0x020000000000 + 64 * objOfRef r.desc.arrivalObj.toNat + 8) (s.copyJobId r) with
    operand := BitVec.ofNat 64 r.desc.arrivalAdd.toNat }

/-- Step 5 of R236: one combined advance where both references name one local object. A descriptor whose arrival signal to
another node has not been sent, because it was refused or ended early, sends it now and advances its own object on the answer. -/
def copySignals (s : Chip) (e : EngineId) (r : CopyRun) : Chip :=
  let d := r.desc
  let u := s.engineUnit e
  let k := copySlot r
  let far := s.isRemote d.dst.toNat
  let sig := if namesObj d.signalObj.toNat then some (objOfRef d.signalObj.toNat) else none
  let arr := namesObj d.arrivalObj.toNat && decide (1 ≤ d.arrivalAdd.toNat) && decide (d.arrivalAdd.toNat ≤ 65535)
  if arr && far && (!r.started || r.arrival) then
    let o := s.openRequest u (s.arrivalMsg r) 0 0 (.arrivalEnd e sig k)
    match o.2.sendRequest o.1.msg with
    | some t => t
    | none => (o.2.closeRequest o.1 true).postSignal e sig k
  else if arr && !far && d.signalObj = d.arrivalObj then s.postFor k (objOfRef d.signalObj.toNat) (1 + d.arrivalAdd.toNat) u
  else
    let s1 := s.postSignal e sig k
    if arr && !far then s1.postFor k (objOfRef d.arrivalObj.toNat) d.arrivalAdd.toNat u else s1

/-- The completion record. -/
def copyRecord (s : Chip) (r : CopyRun) (status : Nat) : List Byte :=
  let amax := if r.desc.opcode = 2 && (s.readConv (addrOff r.desc.convAddr.toNat)).amaxEn then ru32 r.amax else 0
  leBytes 2 status ++ [0, 0] ++ leBytes 4 r.guardStalls ++ leBytes 8 r.desc.seq.toNat ++ leBytes 8 r.written
    ++ leBytes 4 amax ++ leBytes 4 (Config.freeCycles s.free 7).toNat

def writeCopyRecord (s : Chip) (e : Nat) (r : CopyRun) (status : Nat) : Chip :=
  if r.desc.completionAddr = 0 || r.desc.completionAddr.toNat % 32 ≠ 0
      || s.checkCopy r.slot r.desc.completionAddr.toNat 32 true ≠ 0 then s
  else s.put (s.engineUnit e) (addrOff r.desc.completionAddr.toNat) (s.copyRecord r status)

/-- The failing address of a descriptor that ends with a code of R220 or R223. -/
def copyBad (s : Chip) (r : CopyRun) (code : Nat) : Option Nat :=
  let d := r.desc
  let own := (if d.opcode = 2 then [(d.convAddr.toNat, 32)] else []) ++ (if d.completionAddr = 0 then [] else [(d.completionAddr.toNat, 32)])
  s.firstBad (fun a => s.checkCopy r.slot a 1 true) code own
    <|> s.firstBad (fun a => s.checkCopy r.slot a 1 false) code (CopyField.reads d ++ CopyField.writes d)

/-- A non-OK status goes to the submitting stream, or to the job status, and into the event log, with its failing address. -/
def copyReport (s : Chip) (e : Nat) (r : CopyRun) (status : Nat) : Chip :=
  let bad := if r.started then r.bad else s.copyBad r status
  let u := s.engineUnit e
  if status = 0 then s
  else match r.from_, bad with
    | some (c, ix), _ => s.recordFault c 3 status ix bad
    | none, some a =>
      let t := if status = Code.uncorrectable then s.countBad (addrOff a) 1 else s
      (t.noteError r.slot u status).addLog status r.slot 2 u (t.placeDetail (addrOff a))
    | none, none => (s.noteError r.slot u status).addLog status r.slot 0 u (leBytes 8 r.desc.seq.toNat)

/-! ## Stalled writes, R240 to R242 -/

/-- A write of one of some units to [off, off + n) is stalled. -/
def stallsOver (s : Chip) (units : List Nat) (off n : Nat) : Bool :=
  s.engines.any (fun e => e.2.stalled.any (fun w =>
    w.units.any units.contains && decide (off < w.addr + w.bytes.length) && decide (w.addr < off + n)))

/-- Send what waits for the writes of units that no guard stalls any longer (R241). -/
def sendHeld (s : Chip) : Chip :=
  let waits (h : HeldReply) : Bool := h.units.any s.stalledBy
  let s1 := { s with fab := { s.fab with heldReplies := s.fab.heldReplies.filter waits } }
  (s.fab.heldReplies.filter (fun h => !waits h)).foldl (fun (t : Chip) h =>
    h.msgs.foldl (fun (t : Chip) m => (t.launch 1 m).getD t) t) s1

/-- A stalled write that was refused gives its code to its writer's command (R223, R242): a stream's status, a running copy
descriptor, or the answers that wait for it. -/
def stallCode (s : Chip) (w : StalledWrite) (code : Nat) : Chip :=
  if code = 0 then s
  else
    let one (t : Chip) (u : Nat) : Chip :=
      if unitNode u ≠ s.node then t
      else if unitKind u = 1 then t.recordAt (unitNumber u / 4) (unitNumber u % 4) code w.addr
      else if unitKind u = 3 then
        let give (r : CopyRun) : CopyRun :=
          if r.started then { r with status := Code.first r.status code, bad := r.bad <|> some w.addr } else r
        (t.updFront (unitNumber u) .job give).updFront (unitNumber u) .service give
      else t.addLog code 0xFF 2 u (t.placeDetail w.addr)
    let s1 := w.units.foldl one s
    { s1 with fab := { s1.fab with heldReplies := s1.fab.heldReplies.map (fun h =>
      if h.units.any w.units.contains && decide (h.addr < w.addr + w.bytes.length) && decide (w.addr < h.addr + h.len) then
        { h with msgs := h.msgs.map (fun m =>
          if m.operand2 = 0 then { m with operand := 0, operand2 := BitVec.ofNat 64 code } else m) }
      else h) } }

/-- A stalled write proceeds; an atomic reads its cell now, and its answers carry what it found. -/
def landStall (s : Chip) (w : StalledWrite) : Chip :=
  match w.atomic with
  | none => let r := s.storeRaw w.addr w.bytes; r.2.stallCode w r.1
  | some m =>
    let n := w.bytes.length
    let b := s.load w.addr n
    let v := leNat b.1
    let r := if b.2 ≠ 0 then (b.2, s) else s.storeRaw w.addr (leBytes n (atomicNew m v))
    { r.2 with fab := { r.2.fab with heldReplies := r.2.fab.heldReplies ++
      [⟨w.units, w.addr, n, m.parts.map (fun p => s.responseOf m p r.1 (if r.1 = 0 then fetched m p v else 0) [])⟩] } }

/-- Entries kept for writes that no guard stalls any longer become free (R241). -/
def freeKept (s : Chip) : Chip :=
  let goes (k : KeptEntry) : Bool := !s.stallsOver k.units k.addr k.len
  let s1 := { s with fab := { s.fab with kept := s.fab.kept.filter (fun k => !goes k) } }
  (s.fab.kept.filter goes).foldl (fun (t : Chip) k => t.updPort k.port (fun x => { x with
    held := x.held.modify k.buffer (· - k.flits), freed := x.freed.modify k.buffer (· + k.flits) })) s1

/-- Stalled writes that no guard meets any longer proceed, in their arrival order, and the replies that waited for them leave. -/
def releaseStalls (s : Chip) : Chip :=
  let met (w : StalledWrite) : Bool := (s.guardAt w.addr w.bytes.length).isSome
  let guarded (w : StalledWrite) : Bool := met w
    || (w.after && s.engines.any (fun e => e.2.stalled.any (fun q => !q.after && q.units = w.units && met q)))
  let s1 := { s with engines := (s.engines.map (fun e => (e.1, { e.2 with
    stalled := e.2.stalled.filter guarded
    promoted := e.2.promoted.filter (fun g => e.2.service.any (fun r => r.granules.contains g)) }))).filter (fun e => e.2 ≠ {}) }
  (((s.engines.flatMap (fun e => e.2.stalled.filter (fun w => !guarded w))).foldl landStall s1).sendHeld).freeKept

/-- A guarded descriptor that leaves with stalls enters the event log once (R242); they count for its job (R407). -/
def logStalls (s : Chip) (e : Nat) (r : CopyRun) : Chip :=
  if r.guardStalls = 0 then s
  else (if r.slot < 8 then s.bump 0x6100 (16 * r.slot + 7) r.guardStalls else s).addLog Code.guardStall r.slot 0 (s.engineUnit e) (leBytes 4 r.guardStalls)

/-- Guarded descriptors that are dropped with their job or their checkpoint enter the event log as any other (R242). -/
def logGuards (s : Chip) (mine : CopyRun → Bool) : Chip :=
  s.engines.foldl (fun (t : Chip) p => (p.2.service.filter mine).foldl (fun (t : Chip) r => t.logStalls p.1 r) t) s

/-! ## Channels, R357, R363 -/

/-- The check of R360 with a polynomial over ALIVE, LENGTH and the bytes. -/
def checkOf (poly alive : Nat) (bs : List Byte) : Nat :=
  let all := leBytes 8 alive ++ leBytes 8 bs.length ++ bs
  if poly = 0 then crc32c all else crc64 all

/-- Step 3 of R236: slot ALIVE mod 2 of the channel, and the channel is free again. -/
def feedChannel (s : Chip) (e : Nat) (r : CopyRun) (status : Nat) : Chip :=
  if !r.holds then s
  else
    let n := r.desc.cvc.toNat
    let x := s.chan n
    let poly := s.reg (0x7100 + n) 2
    let alive := r.desc.alive.toNat
    let old := if alive % 2 = 0 then x.slot0 else x.slot1
    let rec_ : CheckRec :=
      if status = 0 then ⟨true, poly, s.engineUnit e, alive, r.fed.length, checkOf poly alive r.fed⟩
      else { old with valid := false }
    let x1 : Chan := if alive % 2 = 0 then { x with slot0 := rec_ } else { x with slot1 := rec_ }
    let s1 := s.setChan n { x1 with busy := none }
    if status = 0 then s1.bump (0x7100 + n) 4 1 else s1

/-- A draining channel with no running operation becomes disabled (R371). -/
def channelEnd (s : Chip) (n : ChanId) : Chip :=
  if s.channelState n.val = 2 && (s.chan n.val).busy.isNone then s.changeUnit (.channel n) 0 else s

/-! ## The end of a descriptor -/

/-- The exchange object of a role of R34 in the job of a slot. -/
def exchangeObj (s : Chip) (slot role : Nat) : Nat :=
  match s.job slot with
  | some x => x.exchange.getD role 0xFFFF
  | none => 0xFFFF

/-- CONV_CTRL of a working copy: PB4_SQ, nearest-even, SAT, AMAX_EN, with a COARSE_MODE (R151). -/
def seedCtrl (mode : Nat) : Nat := 0x21 + 2 ^ 10 + mode * 2 ^ 13 + 2 ^ 15

/-- What Burist does when a copy of its own ends: the coupler's releases (R367), the checkpoint's failures (R406, R407)
and the amax of an initial weight copy (R151). -/
def buristEnd (s : Chip) (r : CopyRun) (status : Nat) : Chip :=
  match r.purpose with
  | 1 => (s.post (s.exchangeObj r.slot 2) 1 s.buristUnit).updJob r.slot (fun x => { x with forward := { x.forward with engine := none } })
  | 2 => (s.post (s.exchangeObj r.slot 5) 1 s.buristUnit).updJob r.slot (fun x => { x with ret := { x.ret with engine := none } })
  | 3 =>
    s.updJob r.slot (fun x => { x with ckpt := x.ckpt.map (fun k => { k with
      failed := Code.first k.failed status
      copies := k.copies.map (fun c => if c.seq = r.desc.seq.toNat then { c with done := true, digest := sha3_512 r.fed } else c) }) })
  | 7 =>
    let blk := addrOff r.desc.convAddr.toNat
    if status = 0 then
      (s.put s.buristUnit blk (leBytes 4 (seedCtrl 1))).put s.buristUnit (blk + 20) (s.readMem (blk + 24) 4)
    else s
  | _ => s

/-- Steps 2 to 5 of R236 for a descriptor that has left its queue, and what follows its end; its guards have dropped (R242). -/
def finishCopy (s : Chip) (e : EngineId) (r : CopyRun) (status : Nat) : Chip :=
  let blk := addrOff r.desc.convAddr.toNat
  let s1 := if r.desc.opcode = 2 then
      let t := if status = 0 then
          let t0 := s.updateConv (s.engineUnit e) blk r.amax
          match if s.isRemote r.desc.dst.toNat then none else s.tensorAt r.slot (addrOff r.desc.dst.toNat) with
          | some tn => if (CopyField.dst r.desc).hasCoarse then t0.setCoarse r.slot tn.id r.coarse else t0
          | none => t0
        else s
      t.freeConv blk
    else s
  let s2 := s1.feedChannel e r status
  let s3 := if r.holds then s2.channelEnd (Fin.ofNat 256 r.desc.cvc.toNat) else s2
  let s4 := (s3.writeCopyRecord e r status).copyReport e r status
  (((s4.copySignals e r).logStalls e r).releaseStalls).buristEnd r status

/-- A draining engine whose queues are empty becomes disabled (R238). -/
def engineEnd (s : Chip) (e : EngineId) : Chip :=
  let x := s.engine e
  if s.engineState e = 2 && x.job.isEmpty && x.service.isEmpty && x.waiting.isEmpty then s.changeUnit (.engine e) 0 else s

/-! ## Submission, R232, R241 -/

/-- Refuse a descriptor: record and signals, nothing else (R234). -/
def refuseCopy (s : Chip) (e : EngineId) (r : CopyRun) (code : Nat) : Chip :=
  let t := ((s.writeCopyRecord e r code).copyReport e r code).copySignals e r
  if r.from_.isNone then t.buristEnd r code else t

/-- The granules that a guarded descriptor guards: those of its elements, then those of a scale plane. -/
def guardedGranules (d : CopyDesc) : List Nat :=
  if CopyField.guard d then
    let l := granules (addrOff d.src.toNat) (CopyField.srcBytes d)
    l ++ (if CopyField.srcScales d = 0 then [] else
      (granules (addrOff d.srcScale.toNat) (CopyField.srcScales d)).filter (fun g => !l.contains g))
  else []

/-- Hand a descriptor to a queue that has room. -/
def submitCopy (s : Chip) (e : EngineId) (q : EngineQueue) (r : CopyRun) : Chip :=
  let code := s.copyCode e r.slot r.from_.isNone r.desc
  if code ≠ 0 then s.refuseCopy e r code
  else
    let s1 := if r.desc.opcode = 2 then s.useConv (addrOff r.desc.convAddr.toNat) else s
    let x := s1.engine e
    s1.setEngine e (setCopyQueue x q (copyQueue x q ++ [{ r with granules := guardedGranules r.desc }]))

/-- A descriptor that draws takes the step and the ordinal of its submitter at acceptance (R375). -/
def copyDrawn (s : Chip) (e : Nat) (r : CopyRun) : Bool :=
  r.desc.opcode = 2 && (s.readConv (addrOff r.desc.convAddr.toNat)).round = 1 && s.jade
    && s.copyCode e r.slot r.from_.isNone r.desc = 0

/-- Guarded descriptors that hold a staging buffer of Batten die d (R241). -/
def guardsHeld (s : Chip) (d : Nat) : Nat :=
  ((s.engines.filter (fun p => p.1 / 32 = d)).map (fun p => p.2.service.countP (fun r => CopyField.guard r.desc))).sum

/-- An engine's service queue has an entry for a descriptor and, for a guarded one, its die a staging buffer. An engine that is not
in state 1 refuses at once. -/
def takesWork (s : Chip) (e : Nat) (r : CopyRun) : Bool :=
  s.engineState e ≠ 1 || (decide ((s.engine e).service.length < 16)
    && (!CopyField.guard r.desc || decide (s.guardsHeld (e / 32) < 8) || s.copyCode e r.slot true r.desc ≠ 0))

/-- A service descriptor at its acceptance. -/
def acceptService (s : Chip) (e : EngineId) (r : CopyRun) : Chip :=
  let x := (s.job r.slot).map (fun j => (j.buristStep, j.buristOrdinal))
  let s1 := if s.copyDrawn e r then s.updJob r.slot (fun j => { j with buristOrdinal := j.buristOrdinal + 1 }) else s
  s1.submitCopy e .service { r with step := (x.map Prod.fst).getD 0, ordinal := (x.map Prod.snd).getD 0 }

/-- Work that waits for an engine is submitted in order while there is room. -/
def admitWork : Nat → Chip → EngineId → Chip
  | 0, s, _ => s
  | n + 1, s, e =>
    let x := s.engine e
    match x.waiting with
    | [] => s
    | r :: t => if s.takesWork e r then admitWork n ((s.setEngine e { x with waiting := t }).acceptService e r) e else s

/-- An entry of an engine has become free: what waits for it, or on its die for a staging buffer, goes on. -/
def admitDie (s : Chip) (e : EngineId) : Chip :=
  ((List.finRange 128).filter (fun (k : EngineId) => k.val / 32 = e.val / 32 && !(s.engine k.val).waiting.isEmpty)).foldl (fun (t : Chip) (k : EngineId) =>
    admitWork (t.engine k.val).waiting.length t k) s

/-- The same on every die. -/
def admitAll (s : Chip) : Chip := [0, 32, 64, 96].foldl (fun (t : Chip) n => t.admitDie (Fin.ofNat 128 n)) s

/-- A service copy of Burist for a job slot (0xFF: none). Burist holds the work while the queue is full, or no staging buffer is
free for a guarded one. -/
def serviceCopy (s : Chip) (e : EngineId) (slot : Nat) (purpose : Nat) (d : CopyDesc) : Chip :=
  let r : CopyRun := { desc := d, slot := slot, from_ := none, step := 0, ordinal := 0, purpose := purpose }
  let x := s.engine e
  if x.waiting.isEmpty && s.takesWork e r then s.acceptService e r else s.setEngine e { x with waiting := x.waiting ++ [r] }

/-- End the descriptor in front of a queue. -/
def endCopy (s : Chip) (e : EngineId) (q : EngineQueue) (status : Nat) : Chip :=
  match s.copyFront e q with
  | none => s
  | some r =>
    let x := s.engine e
    (((s.setEngine e (setCopyQueue x q ((copyQueue x q).drop 1))).finishCopy e r status).admitDie e).engineEnd e

/-! ## Data movement, R235 -/

/-- Bytes at a source address: of memory, or of the remote bytes that have come. -/
def copyRead (s : Chip) (r : CopyRun) (a : Nat × Nat) : List Byte × Nat :=
  if s.isRemote a.1 then (SMap.getRange 0 r.got (addrOff a.1) a.2, 0) else s.load (addrOff a.1) a.2

/-- Rows of codes of the source, with its scale bytes and the code of the reads. -/
def copySource (s : Chip) (r : CopyRun) : List (List Nat) × List Byte × Nat :=
  let d := r.desc
  let f := CopyField.src d
  let rows := (CopyField.planeRanges d.src.toNat (CopyField.srcRows d) d.srcRowStride.toNat (CopyField.srcRow d)).map (s.copyRead r)
  let sc := if CopyField.srcScales d = 0 then ([], 0) else s.copyRead r (d.srcScale.toNat, CopyField.srcScales d)
  (rows.map (fun x => unpackCodes f.bits x.1 (f.padded d.cols.toNat)), sc.1, Code.firstOf (rows.map Prod.snd ++ [sc.2]))

/-- Rows of a grid as its columns. -/
def flipGrid (d : α) (n : Nat) (rows : List (List α)) : List (List α) :=
  (List.range n).map (fun j => rows.map (fun r => r.getD j d))

/-- The scale grid of a square-block plane, as rows. -/
def gridRows (w : Nat) : Nat → List Byte → List (List Byte)
  | 0, _ => []
  | n + 1, bs => bs.take w :: gridRows w n (bs.drop w)

/-- Codes of a plane with its padding written as code 0 (R65). -/
def zeroPadding (m n : Nat) (rows : List (List Nat)) : List (List Nat) :=
  (SMap.number 0 rows).map (fun r =>
    (SMap.number 0 r.2).map (fun c => if r.1 < m && c.1 < n then c.2 else 0))

/-- Elements that a COPY moves, as destination rows of codes and scale bytes. -/
def movedPlane (d : CopyDesc) (codes : List (List Nat)) (sc : List Byte) : List (List Nat) × List Byte :=
  let rows := if (CopyField.src d).block = 0 then codes else zeroPadding d.rows.toNat d.cols.toNat codes
  if CopyField.transpose d then
    let f := CopyField.src d
    let w := f.blocksPerRow d.cols.toNat
    (flipGrid 0 (if f.square then f.padded d.cols.toNat else d.cols.toNat) rows,
     (flipGrid 0 w (gridRows w (sc.length / max w 1) sc)).flatten)
  else (rows, sc)

/-- Destination values of a CONVERT before the output conversion: decoded under R79, transposed where set. -/
def decodedPlane (d : CopyDesc) (wf : FpFmt) (rows : List (List Nat)) (sc : List Byte) : List (List FVal) :=
  let f := CopyField.src d
  let vals := (List.range d.rows.toNat).map (fun i => (List.range d.cols.toNat).map (fun j =>
    decodeTo wf f (at2 0 rows i j) (if f.block = 0 then 0 else ((sc.getD (f.blockOf d.cols.toNat i j) 0).toNat))
      (f32 d.srcCoarse.toNat)))
  if CopyField.transpose d then flipGrid FVal.zero d.cols.toNat vals else vals

/-- Byte a of an 8-byte pattern aligned to addresses, R235. -/
def patternByte (pat a : Nat) : Byte := BitVec.ofNat 8 (pat / 2 ^ (8 * (a % 8)))

/-- The draws of a descriptor on engine e: its seed, drawing step, ordinal and unit tag, R375 and R377. -/
def copyDraws (s : Chip) (e : Nat) (r : CopyRun) : Nat → Nat → Nat :=
  match r.from_ with
  | some (c, _) => s.draws (s.engineUnit e) (s.seedOfCore c) 3 r.step r.ordinal c
  | none => s.draws (s.engineUnit e) (((s.job r.slot).map (·.jobSeed)).getD []) 3 r.step r.ordinal 0xFFFF

/-- What a descriptor writes: destination ranges with their bytes (data rows, then the scale plane), the code of its reads,
the maximum found and the coarse scale used. -/
def copyOutput (s : Chip) (e : Nat) (r : CopyRun) : List (Nat × List Byte) × Nat × FVal × Nat :=
  let d := r.desc
  let out := CopyField.writes d
  if d.opcode = 3 then
    (out.map (fun a => (a.1, (List.range a.2).map (fun i => patternByte d.src.toNat (addrOff a.1 + i)))), 0, FVal.zero, 0)
  else
    let src := s.copySource r
    let g := CopyField.dst d
    let lay (codes : List (List Nat)) (sc : List Byte) : List (Nat × List Byte) :=
      (SMap.number 0 out).map (fun p =>
        (p.2.1, if p.1 < CopyField.dstRows d then packCodes g.bits (codes.getD p.1 []) else sc))
    if d.opcode = 1 then
      let m := movedPlane d src.1 src.2.1
      (lay m.1 m.2, src.2.2, FVal.zero, 0)
    else
      let cv := Conv.ofBytes r.block
      let wf := engineWorking d.srcFormat.toNat
      let ys := (decodedPlane d wf src.1 src.2.1).map (fun l => l.map (cv.y3 wf FVal.zero))
      let amax := amaxOf ys.flatten
      let coarse := cv.coarseUsed amax
      let n := CopyField.outCols d
      let draw := s.copyDraws e r
      let mode (i j : Nat) : Rounding :=
        match cv.round with
        | 0 => .rne
        | 1 => let e := i * g.padded n + j; .sr (draw (e % 64) (e / 64))
        | _ => .rz
      let p := convPlane g mode cv.sat n (ys.map (fun l => l.map (cv.tOf coarse)))
      (lay p.codes (p.scales.map (BitVec.ofNat 8)), src.2.2, amax, coarse)

/-- Lines that a starting descriptor and another running one both access, at least one writing (R237). -/
def sharedLines (a b : CopyDesc) : List (Nat × Nat) :=
  let rd (d : CopyDesc) := (CopyField.reads d).flatMap linesOf
  let wr (d : CopyDesc) := (CopyField.writes d).flatMap linesOf
  let acc (d : CopyDesc) := rd d ++ wr d
  (((acc a).filter (fun l => (acc b).contains l && ((wr a).contains l || (wr b).contains l)))).eraseDups

/-- Running descriptors of other queues. -/
def otherCopies (s : Chip) (e : Nat) (q : EngineQueue) : List CopyRun :=
  s.engines.flatMap (fun p =>
    (if p.1 = e && q = .job then [] else (p.2.job.take 1).filter (·.started))
      ++ (if p.1 = e && q = .service then [] else (p.2.service.take 1).filter (·.started)))

/-- Count the contended lines of a start (R237); Jade mode counts none. -/
def countRaces (s : Chip) (e : Nat) (q : EngineQueue) (r : CopyRun) : Chip :=
  if s.jade then s
  else (s.otherCopies e q).foldl (fun (t : Chip) o =>
    let n := (sharedLines r.desc o.desc).length
    if n = 0 then t else t.countNd 8 r.slot n) s

/-- Writes of slot j's checkpoint may go to storage: its job is quorate and the database settled (R306). -/
def mayStore (s : Chip) (j : Nat) : Bool :=
  s.fab.settled && !s.fab.unsettled.contains j && decide (s.jobState j ≠ 5)

/-- The guarded copies of slot j's checkpoint may send: that, and write step 1 of R402 has completed. -/
def shardsMaySend (s : Chip) (j : Nat) : Bool :=
  s.mayStore j && (s.job j).any (fun x => x.ckpt.any (fun k => decide (2 ≤ k.phase)))

/-- A message of the oldest staged granule has been sent, R241. -/
def unstage : List (Bool × Nat) → List (Bool × Nat)
  | [] => []
  | (p, n) :: t => if n ≤ 1 then t else (p, n - 1) :: t

/-- Send bulk messages of the descriptor in front of a queue, up to 256 uncompleted ones, then its arrival signal (R330). A
message without a route is lost, which ends the descriptor. -/
def pumpBulk : Nat → Chip → EngineId → EngineQueue → Chip
  | 0, s, _, _ => s
  | fuel + 1, s, e, q =>
    match s.copyFront e q with
    | none => s
    | some r =>
      let u := s.engineUnit e
      let job := s.copyJobId r
      -- a checkpoint's writes carry the quorum token, and wait for write step 1 and while the job may not write
      let token : U64 × U64 := if r.purpose = 3 then
          (((s.job r.slot).map (·.jobId)).getD 0, BitVec.ofNat 64 (s.reg 0x6001 (16 * r.slot + 5)))
        else (0, 0)
      let lost (t : Chip) : Chip := t.updFront e q (fun r => { r with
        status := Code.first r.status Code.peerUnreachable, toRead := [], toSend := [], arrival := false, done := true })
      if 256 ≤ (s.requestsOf u).length || (r.purpose = 3 && !s.shardsMaySend r.slot) then s
      else match r.toRead, r.toSend with
        | a :: t, _ =>
          let m := { s.newMsg 0x0A (addrNode a.1) a.1 job with length := BitVec.ofNat 32 a.2 }
          let o := (s.updFront e q (fun r => { r with toRead := t })).openRequest u m 0 0 (.bulk e q a.1)
          match o.2.route 3 0 s.node (addrNode a.1) none false (.msg o.1.msg) with
          | some s1 => pumpBulk fuel s1 e q
          | none => lost (o.2.closeRequest o.1 true)
        | [], w :: t =>
          let m := { s.newMsg 0x09 (addrNode w.1) w.1 job with length := BitVec.ofNat 32 w.2.length, data := w.2, operand := token.1, operand2 := token.2 }
          let o := (s.updFront e q (fun r => { r with toSend := t, staged := unstage r.staged })).openRequest u m 0 0 (.bulk e q w.1)
          match o.2.route 3 0 s.node (addrNode w.1) none false (.msg o.1.msg) with
          | some s1 => pumpBulk fuel s1 e q
          | none => lost (o.2.closeRequest o.1 true)
        | [], [] =>
          if r.arrival && r.done then
            let o := (s.updFront e q (fun r => { r with arrival := false })).openRequest u (s.arrivalMsg r) 0 0 (.arrival e q)
            match o.2.sendRequest o.1.msg with
            | some s1 => s1
            | none => lost (o.2.closeRequest o.1 true)
          else s

/-- Demand reads of a cluster's engines move the streams of its armed prefetch slots on: after a read of a line at position p up to
position p + DISTANCE (R229). Prefetching moves no byte of the model: an error that it meets shows at the demand read. -/
def prefetchOn (s : Chip) (k : Nat) (reads : List (Nat × Nat)) : Chip :=
  (List.range 16).foldl (fun (t : Chip) i =>
    match SMap.get none t.prefetch (16 * k + i) with
    | none => t
    | some p =>
      match (reads.filterMap (fun r => p.position (addrOff r.1) r.2)).max? with
      | none => t
      | some at_ =>
        let upto := max p.fetched (min (p.rowBytes * p.rows) (at_ + p.distance))
        { t with prefetch := SMap.set none t.prefetch (16 * k + i) (some { p with fetched := upto }) }.bump 0x80D0 (k / 16 + 1)
          ((upto - p.fetched) / 64)) s

/-- Apply what a descriptor writes, locally or as bulk writes. A failed read leaves the destination not valid: local
destination bytes are free values and their count is too (R236). -/
def applyCopy (s : Chip) (e : EngineId) (q : EngineQueue) : Chip :=
  match s.copyFront e q with
  | none => s
  | some r =>
    let u := s.engineUnit e
    let o := s.copyOutput e r
    let bytes := (o.1.map (fun w => w.2.length)).sum
    let src := ((CopyField.reads r.desc).map Prod.snd).sum
    let twoPass := r.desc.opcode = 2 && (Conv.ofBytes r.block).coarseMode = 2
    let s0 := (s.bumpEngine e 1 ((if twoPass then 2 else 1) * src)).prefetchOn (e.val / 2)
      ((CopyField.reads r.desc).filter (fun a => !s.isRemote a.1))
    if o.2.1 ≠ 0 then
      let s1 := (CopyField.writes r.desc).foldl (fun (t : Chip) w => if t.isRemote w.1 then t else t.spoil u (addrOff w.1) w.2) s0
      s1.updFront e q (fun r => { r with
        status := Code.first r.status o.2.1, bad := r.bad <|> s.copyBad r o.2.1, done := true
        written := (Config.freeCycles s.free 8).toNat })
    else
      let keep := r.desc.cvc ≠ 0xFFFF || r.purpose = 3
      let s1 := ((if twoPass then s0.setCoarseOut u (addrOff r.desc.convAddr.toNat) o.2.2.2 else s0).bumpEngine e 2 bytes).updFront e q (fun r => { r with
        written := r.written + bytes, amax := o.2.2.1, coarse := o.2.2.2, done := true
        fed := if keep then o.1.flatMap Prod.snd else [] })
      if (CopyField.dstHulls r.desc).any (fun a => s.isRemote a.1) then
        s1.updFront e q (fun r => { r with toSend := o.1.flatMap (fun w =>
          (splitRange (w.1, w.2.length)).map (fun p => (p.1, (w.2.drop (p.1 - w.1)).take p.2))) })
      else
        o.1.foldl (fun (t : Chip) w =>
          let x := t.store u (addrOff w.1) w.2
          if x.1 = 0 then x.2
          else x.2.updFront e q (fun r => { r with status := Code.first r.status x.1, bad := r.bad <|> t.firstPoisoned (addrOff w.1) w.2.length })) s1

/-- A cluster drops the remote lines it caches, and those on their way (R317). -/
def dropLines (s : Chip) (k : Nat) : Chip :=
  ({ s with fab := { s.fab with lines := s.fab.lines.filter (fun l => l.1 ≠ k) } }).barFills k (fun _ => true)

/-- Run a started descriptor: ask for a remote source, wait for the granules of a guarded one, or move its data. -/
def runCopy (s : Chip) (e : EngineId) (q : EngineQueue) : Chip :=
  match s.copyFront e q with
  | none => s
  | some r0 =>
    let u := s.engineUnit e
    let x := s.issuer u
    let s0 := (s.setIssuer u { x with epoch := (x.epoch + 1) % 65536, lost := false }).dropLines (e.val / 2)
    let blk := addrOff r0.desc.convAddr.toNat
    let block := if r0.desc.opcode = 2 then s0.readMem blk 32 else []
    let conv := Conv.ofBytes block
    let s1 := if r0.desc.opcode = 2 && conv.round = 1 && !s0.jade then s0.countNd 2 r0.slot 1 else s0
    let s2 := s1.countRaces e q r0
    let remoteDst := s.isRemote r0.desc.dst.toNat && r0.desc.arrivalObj ≠ 0xFFFF
    let s2 := if r0.desc.opcode = 2 && conv.coarseMode = 1 then s2.setCoarseOut u blk (conv.coarseUsed FVal.zero) else s2
    let s3 := s2.updFront e q (fun r => { r with started := true, asked := false, arrival := remoteDst, block := block })
    if r0.desc.opcode ≠ 3 && (CopyField.srcHulls r0.desc).any (fun a => s.isRemote a.1) then
      let s4 := s3.updFront e q (fun r => { r with
        toRead := ((CopyField.reads r.desc).filter (fun a => s.isRemote a.1)).flatMap splitRange })
      pumpBulk 300 s4 e q
    else if CopyField.guard r0.desc then s3
    else pumpBulk 300 (s3.applyCopy e q) e q

/-- CE_COPY, CONVERT or FILL: the descriptor in front of a queue starts. It takes its channel first (R362); a channel that is
draining or disabled ends it (R371, R505). -/
def startCopy (s : Chip) (opcode : Nat) (e : EngineId) (q : EngineQueue) : Chip :=
  match s.copyFront e q with
  | none => s
  | some r =>
    if r.started || r.asked || r.desc.opcode.toNat ≠ opcode || s.engineState e ≠ 1 then s
    else if r.desc.cvc = 0xFFFF then s.runCopy e q
    else
      let n := r.desc.cvc.toNat
      let x := s.chan n
      if s.channelState n = 2 then s.endCopy e q Code.unitDraining
      else if s.channelState n = 0 then s.endCopy e q Code.unitDisabled
      else if x.busy.isNone && x.waiting.isEmpty then
        ((s.setChan n { x with busy := some (.copy e q) }).updFront e q (fun r => { r with holds := true })).runCopy e q
      else (s.setChan n { x with waiting := x.waiting ++ [.copy e q] }).updFront e q (fun r => { r with asked := true })

/-- A request belongs to a queue of an engine. -/
def ofQueue (e : Nat) (q : EngineQueue) (r : Request) : Bool :=
  match r.owner with
  | .bulk f p _ => f.val = e && p = q
  | .arrival f p => f.val = e && p = q
  | _ => false

/-- COPY_COMPLETE is due: data moved, remote messages answered, nothing stalled at another engine's guard. -/
def copyDone (s : Chip) (e : Nat) (q : EngineQueue) (r : CopyRun) : Bool :=
  r.started && r.done && r.toRead.isEmpty && r.toSend.isEmpty && !r.arrival && r.granules.isEmpty
    && !s.fab.requests.any (ofQueue e q) && !s.stalledBy (s.engineUnit e)

def completeCopy (s : Chip) (e : EngineId) (q : EngineQueue) : Chip :=
  match s.copyFront e q with
  | some r => if s.copyDone e q r then s.endCopy e q r.status else s
  | none => s

/-- What a guarded COPY moves of one granule: destination address, source offset and length, by rows and scale plane. -/
def granulePieces (d : CopyDesc) (g : Nat) : List (Nat × Nat × Nat) :=
  ((CopyField.reads d).zip (CopyField.writes d)).filterMap (fun p =>
    let a := addrOff p.1.1
    let lo := max a (65536 * g)
    let hi := min (a + p.1.2) (65536 * (g + 1))
    if lo < hi then some (p.2.1 + (lo - a), lo, hi - lo) else none)

/-- The granule to take next, and whether it is a promoted one: those in the order of their first stall, else ascending (R240).
Two of the 16 granules of the staging buffer are for promoted granules, and one that finds them full waits (R241). -/
def nextGranule (x : Engine) (r : CopyRun) : Option (Nat × Bool) :=
  let room (p : Bool) : Bool := decide ((r.staged.filter (fun g => g.1 = p)).length < if p then 2 else 14)
  match x.promoted.find? (fun g => r.granules.contains g && room true) with
  | some g => some (g, true)
  | none => ((r.granules.find? (fun g => !x.promoted.contains g)).filter (fun _ => room false)).map (fun g => (g, false))

/-- GRANULE_TAKEN: the next granule of the running guarded descriptor is in staging, and its guard drops (R240). -/
def takeGranule (s : Chip) (e : EngineId) (o : LineObs) : Chip :=
  match s.copyFront e .service with
  | none => s
  | some r =>
    match if r.started then nextGranule (s.engine e) r else none with
    | none => s
    | some (g, promoted) =>
      let u := s.engineUnit e
      let far := s.isRemote r.desc.dst.toNat
      let s := if o.any (fun p => p.1.toNat / 65536 = g) then s.found u o else s
      let ps := (granulePieces r.desc g).map (fun p => (p, s.load p.2.1 p.2.2))
      let n := (ps.map (fun p => p.1.2.2)).sum
      let left := r.granules.filter (fun h => h ≠ g)
      let out := if far then ps.flatMap (fun p => (splitRange (p.1.1, p.1.2.2)).map (fun q =>
        (q.1, (p.2.1.drop (q.1 - p.1.1)).take q.2))) else []
      let got := ps.foldl (fun (m : SMap Byte) p => SMap.setRange 0 m p.1.2.1 p.2.1) r.got
      let fed := if left.isEmpty then (CopyField.reads r.desc).flatMap (fun a => SMap.getRange 0 got (addrOff a.1) a.2) else []
      let s0 := ((s.bumpEngine e 1 n).bumpEngine e 2 n).prefetchOn (e.val / 2) (ps.map (fun p => (p.1.2.1, p.1.2.2)))
      let s1 := s0.updFront e .service (fun r => { r with
        granules := left, status := Code.firstOf (r.status :: ps.map (fun p => p.2.2)), written := r.written + n
        bad := r.bad <|> ps.findSome? (fun p => s.firstPoisoned p.1.2.1 p.1.2.2)
        done := left.isEmpty, got := if left.isEmpty then [] else got, fed := fed, toSend := r.toSend ++ out
        staged := if out.isEmpty then r.staged else r.staged ++ [(promoted, out.length)] })
      let s2 := if far then s1 else ps.foldl (fun (t : Chip) p =>
        let w := t.store u (addrOff p.1.1) p.2.1
        w.2.updFront e .service (fun r => { r with
          status := Code.first r.status w.1
          bad := if w.1 = 0 then r.bad else r.bad <|> t.firstPoisoned (addrOff p.1.1) p.2.1.length })) s1
      pumpBulk 300 s2.releaseStalls e .service

/-! ## Submission by a CP stream, R232 -/

/-- COPY in the CP stream of core c (R232, R495); `none` while the job queue is full. -/
def headCopy (s : Chip) (c : CoreId) (t : EntryTag) (x : CpEntry) : Option Chip :=
  let ix := (s.stream c 3).count
  let slot := s.slotOfCore c
  let e : EngineId := Fin.ofNat 128 (2 * (c.val / 4) + x.target.toNat)
  let stop := s.coreStop c
  let limit := ((s.job slot).map (fun j => j.res.engines)).getD 0
  let code := if stop ≠ 0 then stop
    else Code.first (Code.need (tagOk t 1 1 && x.opcode = 0x11 && x.reserved = 0 && decide (x.target.toNat < limit)) Code.outOfRange)
      (s.checkDesc c x.descAddr.toNat 128 128)
  if stop ≠ 0 then some ((s.atHead c 3).record c 3 stop ix)
  else if code ≠ 0 then some ((s.atHead c 3).refuseEntry c ix code x.descAddr.toNat 128)
  else if 16 ≤ (s.engine e).job.length then none
  else
    let b := s.load (addrOff x.descAddr.toNat) 128
    if b.2 ≠ 0 then some ((s.atHead c 3).refuseEntry c ix b.2 x.descAddr.toNat 128)
    else
      let d := CopyField.ofBytes b.1
      let st := s.stream c 3
      let r : CopyRun := { desc := d, slot := slot, from_ := some (c, ix), step := st.step, ordinal := st.ordinal }
      let draws := s.copyDrawn e r
      let s1 := s.atHead c 3
      let s2 := if draws then s1.updStream c 3 (fun y => { y with ordinal := y.ordinal + 1 }) else s1
      some (s2.submitCopy e .job r)

/-! ## Draining, R238 -/

/-- Descriptors of a draining engine that have not started end, and work that waits for it is refused. -/
def engineDrain (s : Chip) (e : EngineId) : Chip :=
  let flush (t : Chip) (q : EngineQueue) : Chip :=
    let l := copyQueue (t.engine e) q
    let idle := l.filter (fun r => !r.started)
    let t1 := idle.foldl (fun (t : Chip) r =>
      if r.asked then t.setChan r.desc.cvc.toNat
        { t.chan r.desc.cvc.toNat with waiting := (t.chan r.desc.cvc.toNat).waiting.filter (fun w => w ≠ .copy e q) } else t)
      (t.setEngine e (setCopyQueue (t.engine e) q (l.filter (·.started))))
    idle.foldl (fun (t : Chip) r => t.finishCopy e r Code.unitDraining) t1
  if s.engineState e = 2 then
    let s1 := flush (flush s .job) .service
    ((admitWork (s1.engine e).waiting.length s1 e).admitDie e).engineEnd e
  else s

/-- The drain bound: running descriptors are aborted, and their late responses will be discarded. -/
def engineBound (s : Chip) (e : EngineId) : Chip :=
  let abort (t : Chip) (q : EngineQueue) : Chip :=
    match t.copyFront e q with
    | some r => t.endCopy e q (Code.first r.status Code.unitDisabled)
    | none => t
  if s.engineState e = 2 then
    let s1 := (s.fab.requests.filter (fun r => ofQueue e .job r || ofQueue e .service r)).foldl (fun (t : Chip) r =>
      t.closeRequest r true) s
    abort (abort s1 .job) .service
  else s

end Chip

end Sys2Proof.Machine
end

