-- ==== Sys2Proof/Machine/VeOps.lean ====
section
/-! DEFINITION. The operations of the vector engine at the head of the VE stream: spec/05_vector_engine.md R128 to R140. Each
`head…` answers the state after the instruction has left the stream, or `none` while it cannot start. -/

namespace Sys2Proof.Machine

/-! ## Shapes of the common operations -/

def veShape1 (x : VeInstr) (k : VeClass) : VeShape :=
  { cls := k, dst := some (.grp x x.dst), srcs := [.grp x x.srcA], auxOk := x.aux = 0 }

/-- Sources A and B, B from a register unless IMM_B = 1. -/
def veAB (x : VeInstr) : List VeRange :=
  VeRange.grp x x.srcA :: (if VeField.immB x then [] else [VeRange.grp x x.srcB])

def veShape2 (x : VeInstr) (k : VeClass) : VeShape :=
  { cls := k, dst := some (.grp x x.dst), srcs := veAB x, auxOk := x.aux = 0 }

/-- The mask at SRC_C. -/
def maskRange (x : VeInstr) : VeRange := .run x.srcC (veCount x)

/-- Bytes between register rows of VLD and VST; 0 means 512. -/
def veStride (x : VeInstr) : Nat := if x.stride = 0 then 512 else x.stride.toNat

/-- Bytes of local memory from the first to the last byte of a VLD or VST. -/
def veSpan (x : VeInstr) : Nat := (16 * VeField.g x - 1) * veStride x + 512

namespace Chip

/-! ## Move -/

/-- The rows of local memory that a VLD or VST names. -/
def veRows (x : VeInstr) : List (Nat × Nat) := (List.range (16 * VeField.g x)).map (fun r => (x.addr.toNat + r * veStride x, 512))

/-- The first poisoned byte that an active element of a VLD reads; an inactive one raises no event (R130, R223). -/
def vldBad (s : Chip) (c : Nat) (x : VeInstr) : Option Nat :=
  if (veRows x).all (fun r => !s.poisoned (addrOff r.1) r.2) then none
  else
    let w := veWidth x.elemFormat.toNat
    ((SMap.number 0 (s.veActive c x)).filter (·.2)).findSome? (fun e =>
      s.firstPoisoned (addrOff x.addr.toNat + e.1 * w / 512 * veStride x + e.1 * w % 512) w)

/-- VLD: register rows of local memory, STRIDE apart. -/
def headVld (s : Chip) (c : Nat) (t : EntryTag) (x : VeInstr) : Option Chip :=
  s.veHead c t x
    (Code.first (s.veCheck c x { cls := .move, dst := some (.grp x x.dst), auxOk := x.aux = 0, usesStride := true, usesAddr := true })
      (s.checkOwn c x.addr.toNat (veSpan x)))
    (fun s ix =>
      let w := veWidth x.elemFormat.toNat
      let rs := (List.range (16 * VeField.g x)).map (fun r => s.load (addrOff x.addr.toNat + r * veStride x) 512)
      let s1 := s.veMerge c x w (splitCodes w (veCount x) (rs.flatMap Prod.fst))
      let bad := s.vldBad c x
      s1.veStart c (veCycles x w 1)
        { veRunOf c x ix (veCount x * w) with status := if bad.isSome then Code.uncorrectable else 0, bad := bad })
    (veRows x)

/-- VST: no byte of an inactive element is written unless ZEROING = 1. -/
def headVst (s : Chip) (c : Nat) (t : EntryTag) (x : VeInstr) : Option Chip :=
  s.veHead c t x
    (Code.first (s.veCheck c x { cls := .move, srcs := [.grp x x.srcA], auxOk := x.aux = 0, usesStride := true, usesAddr := true })
      (s.checkOwn c x.addr.toNat (veSpan x)))
    (fun s ix =>
      let w := veWidth x.elemFormat.toNat
      let elems := (s.veActive c x).zip (s.veA c x)
      let bytes := (SMap.number 0 elems).flatMap (fun e =>
        if e.2.1 || VeField.zeroing x then
          (SMap.number (e.1 * w) (leBytes w (if e.2.1 then e.2.2 else 0))).map (fun b =>
            (addrOff x.addr.toNat + b.1 / 512 * veStride x + b.1 % 512, b.2))
        else [])
      let runs := joinRuns bytes
      let r := runs.foldl (fun (t : Nat × Chip) p =>
        let q := t.2.store (t.2.streamUnit c 2) p.1 p.2
        (Code.first t.1 q.1, q.2)) (0, s)
      r.2.veStart c (veCycles x w 1)
        { signalObj := x.signalObj.toNat, index := ix, status := r.1, outs := runs.map (fun p => (p.1, p.2.length))
          bad := s.arrayBad c r.1 (runs.map (fun p => (p.1, p.2.length))) })
    (veRows x)

def headMov (s : Chip) (c : Nat) (t : EntryTag) (x : VeInstr) : Option Chip :=
  s.veHead c t x (s.veCheck c x (veShape1 x .move)) (fun s ix => s.veElementwise c x 1 ix (s.veA c x))

/-- BCAST: IMM in every element. -/
def headBcast (s : Chip) (c : Nat) (t : EntryTag) (x : VeInstr) : Option Chip :=
  s.veHead c t x (s.veCheck c x { cls := .move, dst := some (.grp x x.dst), auxOk := x.aux = 0 })
    (fun s ix => s.veElementwise c x 1 ix (List.replicate (veCount x) (immCode x)))

/-! ## Arithmetic and logic -/

/-- A two-operand elementwise operation. -/
def veTwo (s : Chip) (c ix : Nat) (x : VeInstr) (f : Nat → Nat → Nat → Nat) : Chip :=
  s.veElementwise c x 1 ix (List.zipWith (f x.elemFormat.toNat) (s.veA c x) (s.veB c x))

def veOne (s : Chip) (c ix : Nat) (x : VeInstr) (f : Nat → Nat → Nat) : Chip :=
  s.veElementwise c x 1 ix ((s.veA c x).map (f x.elemFormat.toNat))

def headAdd (s : Chip) (c : Nat) (t : EntryTag) (x : VeInstr) : Option Chip :=
  s.veHead c t x (s.veCheck c x (veShape2 x .addMinMax)) (fun s ix => s.veTwo c ix x veAdd)

def headSub (s : Chip) (c : Nat) (t : EntryTag) (x : VeInstr) : Option Chip :=
  s.veHead c t x (s.veCheck c x (veShape2 x .arith)) (fun s ix => s.veTwo c ix x veSub)

def headMul (s : Chip) (c : Nat) (t : EntryTag) (x : VeInstr) : Option Chip :=
  s.veHead c t x (s.veCheck c x (veShape2 x .arith)) (fun s ix => s.veTwo c ix x veMul)

/-- FMA: A × B + C, rounded once. -/
def headFma (s : Chip) (c : Nat) (t : EntryTag) (x : VeInstr) : Option Chip :=
  s.veHead c t x
    (s.veCheck c x { veShape2 x .arith with srcs := veAB x ++ [.grp x x.srcC] })
    (fun s ix => s.veElementwise c x 1 ix
      (((s.veA c x).zip ((s.veB c x).zip (s.veC c x))).map (fun p => veFma x.elemFormat.toNat p.1 p.2.1 p.2.2)))

def headMin (s : Chip) (c : Nat) (t : EntryTag) (x : VeInstr) : Option Chip :=
  s.veHead c t x (s.veCheck c x (veShape2 x .addMinMax)) (fun s ix => s.veTwo c ix x veMin)

def headMax (s : Chip) (c : Nat) (t : EntryTag) (x : VeInstr) : Option Chip :=
  s.veHead c t x (s.veCheck c x (veShape2 x .addMinMax)) (fun s ix => s.veTwo c ix x veMax)

def headAbs (s : Chip) (c : Nat) (t : EntryTag) (x : VeInstr) : Option Chip :=
  s.veHead c t x (s.veCheck c x (veShape1 x .arith)) (fun s ix => s.veOne c ix x veAbs)

def headNeg (s : Chip) (c : Nat) (t : EntryTag) (x : VeInstr) : Option Chip :=
  s.veHead c t x (s.veCheck c x (veShape1 x .arith)) (fun s ix => s.veOne c ix x veNeg)

def headAnd (s : Chip) (c : Nat) (t : EntryTag) (x : VeInstr) : Option Chip :=
  s.veHead c t x (s.veCheck c x (veShape2 x .logic)) (fun s ix => s.veTwo c ix x (fun _ a b => Nat.land a b))

def headOr (s : Chip) (c : Nat) (t : EntryTag) (x : VeInstr) : Option Chip :=
  s.veHead c t x (s.veCheck c x (veShape2 x .logic)) (fun s ix => s.veTwo c ix x (fun _ a b => Nat.lor a b))

def headXor (s : Chip) (c : Nat) (t : EntryTag) (x : VeInstr) : Option Chip :=
  s.veHead c t x (s.veCheck c x (veShape2 x .logic)) (fun s ix => s.veTwo c ix x (fun _ a b => Nat.xor a b))

def headShl (s : Chip) (c : Nat) (t : EntryTag) (x : VeInstr) : Option Chip :=
  s.veHead c t x (s.veCheck c x (veShape2 x .logic)) (fun s ix => s.veTwo c ix x veShl)

def headShr (s : Chip) (c : Nat) (t : EntryTag) (x : VeInstr) : Option Chip :=
  s.veHead c t x (s.veCheck c x (veShape2 x .logic)) (fun s ix => s.veTwo c ix x veShr)

/-! ## Functions, R133 -/

/-- The check of a function: FP64 admits RCP, RSQRT and SQRT only. -/
def veFnCheck (s : Chip) (c op : Nat) (x : VeInstr) : Nat :=
  s.veCheck c x { veShape1 x .function with extra := x.elemFormat ≠ 0x01 || decide (op ≤ 0x22) }

/-- The effect of a function, with FUNCTION_CYCLES (R145). -/
def veFn (s : Chip) (c ix op : Nat) (x : VeInstr) : Chip :=
  let inv := if x.elemFormat = 0x01 then 8 else 4
  (s.veElementwise c x inv ix ((s.veA c x).map (veFunction op x.elemFormat.toNat))).bumpVe c 1
    (veCycles x (veWidth x.elemFormat.toNat) inv)

def headRcp (s : Chip) (c : Nat) (t : EntryTag) (x : VeInstr) : Option Chip :=
  s.veHead c t x (s.veFnCheck c 0x20 x) (fun s ix => s.veFn c ix 0x20 x)
def headRsqrt (s : Chip) (c : Nat) (t : EntryTag) (x : VeInstr) : Option Chip :=
  s.veHead c t x (s.veFnCheck c 0x21 x) (fun s ix => s.veFn c ix 0x21 x)
def headSqrt (s : Chip) (c : Nat) (t : EntryTag) (x : VeInstr) : Option Chip :=
  s.veHead c t x (s.veFnCheck c 0x22 x) (fun s ix => s.veFn c ix 0x22 x)
def headExp2 (s : Chip) (c : Nat) (t : EntryTag) (x : VeInstr) : Option Chip :=
  s.veHead c t x (s.veFnCheck c 0x23 x) (fun s ix => s.veFn c ix 0x23 x)
def headLog2 (s : Chip) (c : Nat) (t : EntryTag) (x : VeInstr) : Option Chip :=
  s.veHead c t x (s.veFnCheck c 0x24 x) (fun s ix => s.veFn c ix 0x24 x)
def headTanh (s : Chip) (c : Nat) (t : EntryTag) (x : VeInstr) : Option Chip :=
  s.veHead c t x (s.veFnCheck c 0x25 x) (fun s ix => s.veFn c ix 0x25 x)
def headSigmoid (s : Chip) (c : Nat) (t : EntryTag) (x : VeInstr) : Option Chip :=
  s.veHead c t x (s.veFnCheck c 0x26 x) (fun s ix => s.veFn c ix 0x26 x)
def headSilu (s : Chip) (c : Nat) (t : EntryTag) (x : VeInstr) : Option Chip :=
  s.veHead c t x (s.veFnCheck c 0x27 x) (fun s ix => s.veFn c ix 0x27 x)
def headGelu (s : Chip) (c : Nat) (t : EntryTag) (x : VeInstr) : Option Chip :=
  s.veHead c t x (s.veFnCheck c 0x28 x) (fun s ix => s.veFn c ix 0x28 x)

/-! ## Compare, select and predicates -/

/-- CMP: a mask of one INT8 per element at DST. -/
def headCmp (s : Chip) (c : Nat) (t : EntryTag) (x : VeInstr) : Option Chip :=
  s.veHead c t x
    (s.veCheck c x { cls := .compare, dst := some (.run x.dst (veCount x)), srcs := veAB x, auxOk := decide (x.aux.toNat < 7) })
    (fun s ix =>
      let new := List.zipWith (fun a b => boolNat (veCompare x.elemFormat.toNat x.aux.toNat a b)) (s.veA c x) (s.veB c x)
      (s.veMerge c x 1 new).veStart c (veCycles x (veWidth x.elemFormat.toNat) 1) (veRunOf c x ix (veCount x)))

/-- SEL: A where the mask is not zero, else B. -/
def headSel (s : Chip) (c : Nat) (t : EntryTag) (x : VeInstr) : Option Chip :=
  s.veHead c t x (s.veCheck c x { veShape2 x .select with srcs := veAB x ++ [maskRange x] })
    (fun s ix => s.veElementwise c x 1 ix
      (((s.veMask c x).zip ((s.veA c x).zip (s.veB c x))).map (fun p => if p.1 ≠ 0 then p.2.1 else p.2.2)))

/-- The bits of a predicate register from a function of the column. -/
def predOf (f : Nat → Bool) : BitVec 256 :=
  BitVec.ofNat 256 ((List.range 256).foldl (fun acc i => if f i then acc + 2 ^ i else acc) 0)

/-- CMPP: bit c says whether any (AUX 0) or all (AUX 1) of the mask rows of column c are set; an inactive element is never
selected (R130). -/
def headCmpp (s : Chip) (c : Nat) (t : EntryTag) (x : VeInstr) : Option Chip :=
  s.veHead c t x
    (s.veCheck c x { cls := .any, srcs := [maskRange x], auxOk := decide (x.aux.toNat < 2)
                     extra := decide (0 < x.dst.toNat) && decide (x.dst.toNat < 16) })
    (fun s ix =>
      let set := List.zipWith (fun a m => a && m ≠ 0) (s.veActive c x) (s.veMask c x)
      let l := VeField.cols x
      let rows := veCount x / l
      let col (j : Nat) : List Bool := (List.range rows).map (fun r => set.getD (r * l + j) false)
      (s.setPred c x.dst.toNat (predOf (fun j =>
        decide (j < l) && (if x.aux = 0 then (col j).any id else (col j).all id)))).veStart c
        (veCycles x 1 1) { signalObj := x.signalObj.toNat, index := ix, status := 0 })

/-- PFIRST: bits 0 to IMM − 1 set. -/
def headPfirst (s : Chip) (c : Nat) (t : EntryTag) (x : VeInstr) : Option Chip :=
  s.veHead c t x
    (s.veCheck c x { cls := .any, auxOk := x.aux = 0
                     extra := decide (0 < x.dst.toNat) && decide (x.dst.toNat < 16) && decide (x.imm.toNat ≤ 256) })
    (fun s ix => (s.setPred c x.dst.toNat (predOf (fun j => decide (j < x.imm.toNat)))).veStart c 1
      { signalObj := x.signalObj.toNat, index := ix, status := 0 })

/-- PLOGIC: AND, OR, XOR, ANDNOT of two predicate registers. -/
def headPlogic (s : Chip) (c : Nat) (t : EntryTag) (x : VeInstr) : Option Chip :=
  s.veHead c t x
    (s.veCheck c x { cls := .any, auxOk := decide (x.aux.toNat < 4)
                     extra := decide (0 < x.dst.toNat) && decide (x.dst.toNat < 16) && decide (x.srcA.toNat < 16)
                       && decide (x.srcB.toNat < 16) })
    (fun s ix =>
      let a := s.pred c x.srcA.toNat
      let b := s.pred c x.srcB.toNat
      let v := match x.aux.toNat with
        | 0 => a &&& b
        | 1 => a ||| b
        | 2 => a ^^^ b
        | _ => a &&& ~~~b
      (s.setPred c x.dst.toNat v).veStart c 1 { signalObj := x.signalObj.toNat, index := ix, status := 0 })

/-! ## Conversions -/

/-- The rounding of position e under a ROUND field: generator e mod 256, draw e div 256 (R140). -/
def veRounding (round : Nat) (draw : Nat → Nat → Nat) (e : Nat) : Rounding :=
  match round with
  | 0 => .rne
  | 1 => .sr (draw (e % 256) (e / 256))
  | _ => .rz

/-- CVT: every element converted under R80 to R83. -/
def headCvt (s : Chip) (c : Nat) (t : EntryTag) (x : VeInstr) : Option Chip :=
  let f := x.aux.toNat
  let wd := veWidth f
  let w := veWidth x.elemFormat.toNat
  s.veHead c t x
    (s.veCheck c x { cls := .convert
                     dst := some (if wd = w then .grp x x.dst else .run x.dst (veCount x * wd))
                     srcs := [.grp x x.srcA], auxOk := wd ≠ 0 })
    (fun s ix =>
      let draw := s.streamDraws c 2 1 c
      let s1 := if VeField.round x = 1 then (s.takeDraw c 2).bumpVe c 2 (veCount x) else s
      let new := (SMap.number 0 (s.veA c x)).map (fun p =>
        convValue (Fmt.ofCode f) (veRounding (VeField.round x) draw p.1) (VeField.sat x) (veValue x.elemFormat.toNat p.2))
      (s1.veMerge c x wd new).veStart c (veCycles x (max w wd) 1) (veRunOf c x ix (veCount x * wd)))

/-- The scale plane of a view of block elements: blocks in the order of R66. -/
def veBlockOk (f : Fmt) (x : VeInstr) : Bool :=
  let l := VeField.cols x
  f.scaled && l % f.block = 0 && (!f.square || veCount x / l % 16 = 0)

/-- The check of CVTB: the conversion block is read at the head (R126), and must not be in use (R499). -/
def checkCvtb (s : Chip) (c : Nat) (x : VeInstr) (claimed : Bool) : Nat :=
  let blk := addrOff x.addr.toNat
  let cv := s.readConv blk
  let l := VeField.cols x
  let rows := veCount x / l
  Code.firstOf
    [s.veCheck c x { cls := .block, srcs := [.grp x x.srcA], auxOk := x.aux = 0, usesAddr := true
                     extra := x.addr.toNat % 32 = 0 },
     s.checkOwn c x.addr.toNat 32,
     Code.need (cv.ok false && !cv.biasEn && veBlockOk cv.fmt x
       && VeRange.ok x (s.tileCount c) (.run x.dst (rows * cv.fmt.rowBytes l))) Code.outOfRange,
     s.checkOwn c x.imm.toNat (cv.fmt.scaleCount rows l),
     Code.need (claimed || !s.convUse.contains blk) Code.stateConflict]

/-- The ranges of memory that a CVTB reads or writes: its conversion block, its scale plane. -/
def cvtbFields (x : VeInstr) (f : Fmt) (rows l : Nat) : List (Nat × Nat) := [(x.addr.toNat, 32), (x.imm.toNat, f.scaleCount rows l)]

/-- ROUND and SAT of a CVTB. FLAGS and the conversion block both state them (R84, R125, R132): where they differ, which governs is a
free constant (DESIGN CHOICE, log entry 96). -/
def cvtbRound (x : VeInstr) (cv : Conv) : Nat := if Config.cvtbByFlags then VeField.round x else cv.round
def cvtbSat (x : VeInstr) (cv : Conv) : Bool := if Config.cvtbByFlags then VeField.sat x else cv.sat

/-- CVTB: R85 to R89 over the view's blocks; an inactive element adds nothing to its block's scale. -/
def runCvtb (s : Chip) (c ix : Nat) (x : VeInstr) : Chip :=
  let blk := addrOff x.addr.toNat
  let cv := s.readConv blk
  let round := if cv.round = VeField.round x then cv.round else cvtbRound x cv
  let sat := if cv.sat = VeField.sat x then cv.sat else cvtbSat x cv
  let f := cv.fmt
  let l := VeField.cols x
  let rows := veCount x / l
  let rb := f.rowBytes l
  let draw := s.streamDraws c 2 1 c
  let s1 := if round = 1 then (s.takeDraw c 2).bumpVe c 2 (veCount x) else s
  let act := s.veActive c x
  let ys := (act.zip (s.veA c x)).map (fun p =>
    if p.1 then cv.y3 fp32 FVal.zero (veValue x.elemFormat.toNat p.2) else FVal.zero)
  let coarse := cv.coarseUsed FVal.zero
  let s1 := s1.setCoarseOut (s.streamUnit c 2) blk coarse
  let ts := ys.map (cv.tOf coarse)
  let p := convPlane f (fun i j => veRounding round draw (i * l + j)) sat l
    ((List.range rows).map (fun r => (ts.drop (r * l)).take l))
  let old := (List.range rows).flatMap (fun r => unpackCodes f.bits (s.readTile c (8192 * x.dst.toNat + r * rb) rb) l)
  let new := mergeElems (VeField.zeroing x) act old p.codes.flatten
  let s2 := (List.range rows).foldl (fun (t : Chip) r =>
    t.writeTile c (8192 * x.dst.toNat + r * rb) (packCodes f.bits ((new.drop (r * l)).take l))) s1
  let w := s2.store (s.streamUnit c 2) (addrOff x.imm.toNat) (p.scales.map (BitVec.ofNat 8))
  w.2.veStart c (veCycles x (veWidth x.elemFormat.toNat) 1)
    { signalObj := x.signalObj.toNat, index := ix, status := Code.first (s.load blk 32).2 w.1, conv := some blk
      bad := s.arrayBad c (Code.first (s.load blk 32).2 w.1) (cvtbFields x f rows l)
      coarse := coarse, amax := amaxOf ys, outs := [(addrOff x.imm.toNat, p.scales.length)]
      tileOut := some (2 ^ 19 * c + 8192 * x.dst.toNat, rows * rb) }

/-- CVTB at the head: as `headDrain`, it holds its conversion block from its check on. -/
def headCvtb (s : Chip) (c : Nat) (t : EntryTag) (x : VeInstr) : Bool × Chip :=
  let ix := (s.stream c 2).count
  let claimed := (s.stream c 2).claim.isSome
  let code := if s.coreStop c ≠ 0 then s.coreStop c else if tagOk t 1 3 then s.checkCvtb c x claimed else Code.outOfRange
  let blk := addrOff x.addr.toNat
  if code ≠ 0 then
    let l := VeField.cols x
    (true, ((s.dropClaim c 2).atHead c 2).finishAt c 2 code ix x.signalObj.toNat
      (s.arrayBad c code (cvtbFields x (s.readConv blk).fmt (veCount x / l) l)))
  else if s.veReady c then
    let s1 := if claimed then s.updStream c 2 (fun y => { y with claim := none }) else s.useConv blk
    (true, (s1.atHead c 2).runCvtb c ix x)
  else (false, if claimed then s else (s.useConv blk).updStream c 2 (fun y => { y with claim := some blk }))

/-- The scale plane of DCVB: IMM[31:0] is the low half of its address, the own core's local memory gives the rest. -/
def dcvbScales (x : VeInstr) (s : Chip) : Nat := s.node * 2 ^ 48 + localBase + x.imm.toNat % 2 ^ 32

/-- DCVB: block elements decoded under R79: to FP32 the exact product of element and scale, rounded with the coarse scale to nearest
even; to BF16 by ROUND (R132). With ROUND = 1 every position takes its draw (R139; DEDUCED for DCVB, log entry 97). -/
def headDcvb (s : Chip) (c : Nat) (t : EntryTag) (x : VeInstr) : Option Chip :=
  let f := Fmt.ofCode x.aux.toNat
  let l := VeField.cols x
  let rows := veCount x / l
  let w := veWidth x.elemFormat.toNat
  let coarse := x.imm.toNat / 2 ^ 32
  s.veHead c t x
    (Code.firstOf
      [s.veCheck c x { cls := .decode, dst := some (.grp x x.dst), srcs := [.run x.srcA (rows * f.rowBytes l)]
                       auxOk := Fmt.valid x.aux.toNat, extra := veBlockOk f x && Conv.coarseOk coarse },
       s.checkOwn c (dcvbScales x s) (f.scaleCount rows l)])
    (fun s ix =>
      let sc := s.load (addrOff (dcvbScales x s)) (f.scaleCount rows l)
      let g := Fmt.ofCode x.elemFormat.toNat
      let draw := s.streamDraws c 2 1 c
      let s1 := if VeField.round x = 1 then (s.takeDraw c 2).bumpVe c 2 (veCount x) else s
      let mode (e : Nat) : Rounding := if x.elemFormat = 0x02 then .rne else veRounding (VeField.round x) draw e
      let new := (List.range rows).flatMap (fun r =>
        let codes := unpackCodes f.bits (s.readTile c (8192 * x.srcA.toNat + r * f.rowBytes l) (f.rowBytes l)) l
        (SMap.number 0 codes).map (fun p =>
          let v := FVal.mul (scaledValue f p.2 ((sc.1.getD (f.blockOf l r p.1) 0).toNat)) (f32 coarse)
          convValue g (mode (r * l + p.1)) (VeField.sat x) v))
      (s1.veMerge c x w new).veStart c (veCycles x w 1) { veRunOf c x ix (veCount x * w) with
        status := sc.2, bad := s.arrayBad c sc.2 [(dcvbScales x s, f.scaleCount rows l)] })
    [(dcvbScales x s, f.scaleCount rows l)]

/-! ## Reductions, R134 and R135 -/

/-- One level of the pairwise tree. -/
def pairUp (op : α → α → α) : List α → List α
  | a :: b :: t => op a b :: pairUp op t
  | l => l

/-- The pairwise tree over 2^n values. -/
def treeFold (op : α → α → α) : Nat → List α → List α
  | 0, l => l
  | n + 1, l => treeFold op n (pairUp op l)

/-- The chain: the first value, then each next one. -/
def chainFold (op : α → α → α) (d : α) : List α → α
  | [] => d
  | a :: t => t.foldl op a

/-- The results of a reduction of a view: rows along the tree (or the chain under G3 compatibility), columns along the
chain. -/
def reduce (op : α → α → α) (d : α) (g3 axis : Bool) (log2L rows : Nat) (vs : List α) : List α :=
  let l := 2 ^ log2L
  if axis then (List.range l).map (fun j => chainFold op d ((List.range rows).map (fun r => vs.getD (r * l + j) d)))
  else (List.range rows).map (fun r =>
    let row := (vs.drop (r * l)).take l
    if g3 then chainFold op d row else (treeFold op log2L row).headD d)

/-- Accumulation format of R134. -/
def redFormat (f : Nat) : Nat := if f = 0x01 then 0x01 else if isFloat f then 0x02 else 0x07

/-- The combine of a floating-point reduction: SUM rounds once to the accumulation type. -/
def redFloat (f : FpFmt) (op : Nat) (a b : FVal) : FVal :=
  match op with
  | 0 => FVal.addR f a b
  | 2 => FVal.min2 a b
  | _ => FVal.max2 a b

def redIdentity (op : Nat) : FVal :=
  match op with
  | 0 => .fin true 0 0
  | 1 => .inf true
  | 2 => .inf false
  | _ => FVal.zero

def redInt (op : Nat) (a b : Int) : Int :=
  match op with
  | 0 => signedOf 32 (wrapTo 32 (a + b))
  | 2 => min a b
  | _ => max a b

def redIntIdentity (op : Nat) : Int :=
  match op with
  | 1 => -2147483648
  | 2 => 2147483647
  | _ => 0

/-- The value an integer element brings into AMAX: |−2^31| has no INT32 code, so it is free. -/
def redIntValue (op f c : Nat) : Int :=
  if op = 3 then
    if f = 0x07 && isIntMin f c then signedOf 32 (Config.fnUnstated 0x50 f c).toNat else (intVal f c).natAbs
  else intVal f c

/-- The codes of the results of RED. -/
def redResults (s : Chip) (c : Nat) (x : VeInstr) : List Nat :=
  let f := x.elemFormat.toNat
  let op := x.aux.toNat
  let rows := veCount x / VeField.cols x
  let in_ := (s.veActive c x).zip (s.veA c x)
  if isFloat f then
    let a := veFp (redFormat f)
    let vs := in_.map (fun p => if p.1 then (if op = 3 then (veValue f p.2).abs else veValue f p.2) else redIdentity op)
    (reduce (redFloat a op) FVal.zero s.g3 (VeField.axis x) x.rowLog2.toNat rows vs).map (FVal.code a)
  else
    let vs := in_.map (fun p => if p.1 then redIntValue op f p.2 else redIntIdentity op)
    (reduce (redInt op) 0 s.g3 (VeField.axis x) x.rowLog2.toNat rows vs).map (wrapTo 32)

/-- Bytes with zeros up to whole registers. -/
def padRegs (bs : List Byte) : List Byte := bs ++ List.replicate (roundUp bs.length 8192 - bs.length) 0

def headRed (s : Chip) (c : Nat) (t : EntryTag) (x : VeInstr) : Option Chip :=
  let wa := veWidth (redFormat x.elemFormat.toNat)
  let n := if VeField.axis x then VeField.cols x else veCount x / VeField.cols x
  s.veHead c t x
    (s.veCheck c x { cls := .reduce, dst := some (.run x.dst (n * wa)), srcs := [.grp x x.srcA]
                     auxOk := decide (x.aux.toNat < 4), apart := true })
    (fun s ix =>
      let bs := padRegs (joinCodes wa (s.redResults c x))
      (s.writeTile c (8192 * x.dst.toNat) bs).veStart c (veCycles x (max wa (veWidth x.elemFormat.toNat)) 1)
        (veRunOf c x ix bs.length))

/-! ## Permutes, compress and expand -/

/-- XPOSE: element (r, c) of the DST view of L columns is element (c, r) of the A view. -/
def headXpose (s : Chip) (c : Nat) (t : EntryTag) (x : VeInstr) : Option Chip :=
  s.veHead c t x (s.veCheck c x { veShape1 x .permute with apart := true })
    (fun s ix =>
      let l := VeField.cols x
      let rows := veCount x / l
      let a := s.veA c x
      s.veElementwise c x 2 ix ((List.range (veCount x)).map (fun e => a.getD (e % l * rows + e / l) 0)))

/-- TPERM: a table of T entries, indexed by one byte for each element (R136). -/
def headTperm (s : Chip) (c : Nat) (t : EntryTag) (x : VeInstr) : Option Chip :=
  s.veHead c t x
    (s.veCheck c x { cls := .permute, dst := some (.grp x x.dst)
                     srcs := .grp x x.srcA :: (if VeField.immB x then [] else [.run x.srcB (veCount x)])
                     auxOk := decide (x.aux.toNat ≤ 4), apart := true })
    (fun s ix =>
      let size := 2 ^ (x.aux.toNat + 4)
      let table := (s.veA c x).take size
      let idx := if VeField.immB x then List.replicate (veCount x) (immCode x) else s.veRead c x.srcB.toNat 1 (veCount x)
      let inv := match x.aux.toNat with | 3 => 2 | 4 => 4 | _ => 1
      s.veElementwise c x inv ix (idx.map (fun i => table.getD (i % size) 0)))

/-- CMPR: the selected elements, or their flat indices, packed from element 0; the rest is zero; the count goes to ADDR. -/
def headCmpr (s : Chip) (c : Nat) (t : EntryTag) (x : VeInstr) : Option Chip :=
  let w := veWidth x.elemFormat.toNat
  let indices := x.aux = 1
  s.veHead c t x
    (Code.first (s.veCheck c x { cls := .select
                                 dst := some (if indices then .run x.dst (4 * veCount x) else .grp x x.dst)
                                 srcs := [.grp x x.srcA, maskRange x], auxOk := decide (x.aux.toNat < 2), usesAddr := true
                                 apart := true, extra := x.addr.toNat % 4 = 0 })
      (s.checkOwn c x.addr.toNat 4))
    (fun s ix =>
      let es := (SMap.number 0 ((s.veActive c x).zip ((s.veA c x).zip (s.veMask c x)))).filter (fun p =>
        p.2.1 && p.2.2.2 ≠ 0)
      let wd := if indices then 4 else w
      let bs := joinCodes wd (es.map (fun p => if indices then p.1 else p.2.2.1))
      let all := bs ++ List.replicate (roundUp (veCount x * wd) 8192 - bs.length) 0
      let r := (s.writeTile c (8192 * x.dst.toNat) all).store (s.streamUnit c 2) (addrOff x.addr.toNat) (leBytes 4 es.length)
      r.2.veStart c (veCycles x (max w wd) 1)
        { veRunOf c x ix all.length with status := r.1, outs := [(addrOff x.addr.toNat, 4)], bad := s.arrayBad c r.1 [(x.addr.toNat, 4)] })
    [(x.addr.toNat, 4)]

/-- Place elements of a list at the positions that are selected, in ascending order. -/
def expand : List Bool → List Nat → List (Option Nat)
  | [], _ => []
  | true :: t, a :: as => some a :: expand t as
  | true :: t, [] => none :: expand t []
  | false :: t, as => none :: expand t as

/-- EXPD: elements of A placed at the active positions whose mask is set; the count goes to ADDR. -/
def headExpd (s : Chip) (c : Nat) (t : EntryTag) (x : VeInstr) : Option Chip :=
  let w := veWidth x.elemFormat.toNat
  s.veHead c t x
    (Code.first (s.veCheck c x { cls := .select, dst := some (.grp x x.dst), srcs := [.grp x x.srcA, maskRange x]
                                 auxOk := x.aux = 0, usesAddr := true, apart := true, extra := x.addr.toNat % 4 = 0 })
      (s.checkOwn c x.addr.toNat 4))
    (fun s ix =>
      let sel := List.zipWith (fun a m => a && m ≠ 0) (s.veActive c x) (s.veMask c x)
      let placed := (expand sel (s.veA c x)).zip (s.veRead c x.dst.toNat w (veCount x))
      let new := placed.map (fun p => p.1.getD (if VeField.zeroing x then 0 else p.2))
      let r := (s.veWrite c x.dst.toNat w new).store (s.streamUnit c 2) (addrOff x.addr.toNat)
        (leBytes 4 (sel.countP id))
      r.2.veStart c (veCycles x w 1)
        { veRunOf c x ix (veCount x * w) with
          status := r.1, outs := [(addrOff x.addr.toNat, 4)], bad := s.arrayBad c r.1 [(x.addr.toNat, 4)] })
    [(x.addr.toNat, 4)]

/-! ## RAND, R139 and R140 -/

/-- The element that d draws give. -/
def randCode (f : Nat) (draw : Nat → Nat) : Nat :=
  match f with
  | 0x08 => draw 0 % 256
  | 0x07 => draw 0 + 65536 * draw 1
  | 0x03 => FVal.code bf16 (.fin false (draw 0 / 256) (-8))
  | 0x04 => FVal.code fp16 (.fin false (draw 0 / 32) (-11))
  | _ => FVal.code fp32 (.fin false ((draw 0 + 65536 * draw 1) / 256) (-24))

def headRand (s : Chip) (c : Nat) (t : EntryTag) (x : VeInstr) : Option Chip :=
  let f := x.elemFormat.toNat
  let d := ceilDiv (veWidth f) 2
  s.veHead c t x (s.veCheck c x { cls := .random, dst := some (.grp x x.dst), auxOk := x.aux = 0 })
    (fun s ix =>
      let draw := s.streamDraws c 2 1 c
      let s1 := (s.takeDraw c 2).bumpVe c 2 (d * veCount x)
      s1.veElementwise c x 1 ix ((List.range (veCount x)).map (fun e =>
        randCode f (fun j => draw (e % 256) (d * (e / 256) + j)))))

end Chip

end Sys2Proof.Machine
end

