-- ==== Sys2Proof/Machine/Requests.lean ====
section
/-! DEFINITION. Completion of the package's requests (spec/11_remote_memory.md R310, R315, R317) and the CP operations RLOAD,
RSTORE, RATOMIC (R307 to R310) and PREFETCH (spec/08_memory_hierarchy.md R228, R229). -/

namespace Sys2Proof.Machine

/-- Operation fields of a request's own message: RATOMIC with FETCH. -/
def fetches (m : Msg) : Bool := m.parts.any (fun p => bit p.cflags.toNat 0)

namespace Chip

/-! ## Cached remote lines, R317 -/

/-- Whole lines of class 00 data that a response brings fill the cluster cache. -/
def fillLines (s : Chip) (k addr : Nat) (data : List Byte) : Chip :=
  if addrClass addr ≠ 0 then s
  else
    let first := ceilDiv addr 64
    let last := (addr + data.length) / 64
    let new := (List.range' first (last - first)).map (fun l => (k, 64 * l, (data.drop (64 * l - addr)).take 64))
    let keep := s.fab.lines.filter (fun l => !(l.1 = k && new.any (fun n => n.2.1 = l.2.1)))
    { s with fab := { s.fab with lines := keep ++ new } }

/-- A cluster drops its copies of the lines of a range, whatever class the address has, and those on their way. -/
def dropRange (s : Chip) (k addr n : Nat) : Chip :=
  let a := addr % 2 ^ 62
  let meets (b len : Nat) : Bool := decide (b < a + n) && decide (a < b + len)
  ({ s with fab := { s.fab with lines := s.fab.lines.filter (fun l => !(l.1 = k && meets l.2.1 64)) } }).barFills k
    (fun r =>
      let b := r.msg.address.toNat % 2 ^ 62
      meets (b / 64 * 64) (64 * (ceilDiv (b + r.msg.length.toNat) 64 - b / 64)))

/-- The bytes of a range from cached lines, where the cluster holds them all. -/
def cachedBytes (s : Chip) (k addr n : Nat) : Option (List Byte) :=
  (List.range n).mapM (fun i =>
    let a := addr + i
    (s.fab.lines.find? (fun l => l.1 = k && l.2.1 = 64 * (a / 64))).map (fun l => l.2.2.getD (a % 64) 0))

/-! ## Completion -/

/-- The stream that a unit ID of this package names. -/
def streamOfUnit (s : Chip) (u : Nat) : Option (Nat × Nat) :=
  if unitKind u = 1 && unitNode u = s.node then some (unitNumber u / 4, unitNumber u % 4) else none

/-- A request lost while its stream waits in a FABRIC fence makes the fence end with PEER_UNREACHABLE (R329). -/
def noteLost (s : Chip) (r : Request) : Chip :=
  match s.streamOfUnit r.unit with
  | some (c, st) =>
    if (s.stream c st).fencing = some 3 then
      let x := s.issuer r.unit
      (s.setIssuer r.unit { x with lost := false }).updStream c st (fun y => { y with fenceCode := Code.peerUnreachable })
    else s
  | none => s

/-- A part of a remote source has come, or a bulk write is acknowledged (R330). -/
def bulkAnswer (s : Chip) (e : EngineId) (q : EngineQueue) (r : Request) (part status : Nat) (data : List Byte) : Chip :=
  let s1 :=
    if status ≠ 0 then s.updFront e q (fun x => { x with
      status := Code.first x.status status, toRead := [], toSend := [], granules := [], done := true })
    else if r.msg.mtype = 0x0A then
      let t := s.updFront e q (fun x => { x with got := SMap.setRange 0 x.got (addrOff part) data })
      match t.copyFront e q with
      | some x => if x.toRead.isEmpty && !x.done && !t.fab.requests.any (ofQueue e q) then t.applyCopy e q else t
      | none => t
    else s
  let s2 := if status ≠ 0 then s1.releaseStalls else s1
  pumpBulk 300 s2 e q

/-- Complete a request with a status and, for a read or a fetch, its data (R310, R315). -/
def completeRequest (s : Chip) (r : Request) (status : Nat) (data : List Byte) : Chip :=
  let lost := status = Code.peerUnreachable
  let s0 := s.closeRequest r lost
  let s1 := if lost then s0.noteLost r else s0
  match r.owner with
  | .command c ix obj dst =>
    let w :=
      if status ≠ 0 || !(r.msg.mtype = 1 || fetches r.msg) then (0, s1)
      else s1.store (s1.streamUnit c 3) dst data
    let s2 := if status = 0 && r.msg.mtype = 1 && r.fill then w.2.fillLines (c.val / 4) r.msg.address.toNat data else w.2
    s2.finish c 3 (Code.first status w.1) ix obj
  | .signal c st ix => (s1.record c st status ix).updStream c st (fun y => { y with signalling := false })
  | .bulk e q part => s1.bulkAnswer e q r part status data
  | .arrival e q => s1.updFront e q (fun x => { x with status := Code.first x.status status })
  | .arrivalEnd e sig slot => s1.postSignal e sig slot
  | .burist slot _ =>
    if status = 0 then s1
    else s1.updJob slot (fun x => { x with ckpt := x.ckpt.map (fun k => { k with failed := Code.first k.failed status }) })

/-- Send answers; one without a route is lost, and its source times out. -/
def sendAnswers (s : Chip) (ms : List Msg) : Chip := ms.foldl (fun (t : Chip) m => (t.launch 1 m).getD t) s

/-- The source of every constituent of a dropped request receives PEER_UNREACHABLE (R297, R315). -/
def dropRequest (s : Chip) (m : Msg) : Chip :=
  m.parts.foldl (fun (t : Chip) p =>
    match t.fab.requests.find? (fun r => r.unit = p.unit.toNat && r.flow = p.flow.toNat && r.seq = p.seq.toNat) with
    | some r => t.completeRequest r Code.peerUnreachable []
    | none => t.sendAnswers [t.responseOf m p Code.peerUnreachable 0 []]) s

/-- The requests of a list of messages are dropped; what the list holds of answers is lost. -/
def dropRequests (s : Chip) (ms : List Msg) : Chip :=
  (ms.filter (fun m => m.mtype.toNat ≤ 4)).foldl (fun (t : Chip) m => t.dropRequest m) s

/-- End the requests of batches that found no route, and of batches that this closes. -/
def dropLost : Nat → Chip → Chip
  | 0, s => s
  | n + 1, s =>
    if s.fab.undelivered.isEmpty then s
    else dropLost n (({ s with fab := { s.fab with undelivered := [] } }).dropRequests s.fab.undelivered)

/-- Send a request of a unit; one that no live route takes completes with PEER_UNREACHABLE (R297, R315). -/
def issueRequest (s : Chip) (u : Nat) (m : Msg) (cflags pfx : Nat) (owner : ReqOwner) : Chip :=
  let o := s.openRequest u m cflags pfx owner
  dropLost 64 (match o.2.sendRequest o.1.msg with
    | some t => t
    | none => o.2.completeRequest o.1 Code.peerUnreachable [])

/-! ## RLOAD, RSTORE and RATOMIC, R308 to R310 -/

/-- Row 1 of R310. -/
def remoteFieldsOk (s : Chip) (op : Nat) (x : RemoteCmd) : Bool :=
  let a := x.remote.toNat
  let n := if op = 0x22 then atypeBytes x.atype.toNat else x.size.toNat
  let fetch := bit x.rflags.toNat 0
  decide (x.rflags.toNat < 4) && (op = 0x22 || !fetch)
  && (if op = 0x22 then atomicOk x.aop.toNat x.atype.toNat && x.size = 0 else x.aop = 0 && x.atype = 0)
  && (op = 0x22 || (decide (1 ≤ x.size.toNat) && decide (x.size.toNat ≤ 4096)))
  && decide (addrNode a ≠ s.node) && decide (addrClass a ≠ 3)
  && (addrClass a ≠ 2 || (op = 0x20 && (x.size = 4 || x.size = 8)))
  && decide (addrOff a % 4096 + n ≤ 4096) && (op ≠ 0x22 || addrOff a % n = 0)
  && (op ≠ 0x22 || (if fetch then x.local_.toNat % n = 0 else x.local_ = 0))
  && (x.operand2 = 0 || (op = 0x22 && x.aop = 0x11))
  && (decide (x.signalObj.toNat < 64) || x.signalObj = 0xFFFF) && x.reserved = 0

/-- The checks of R310 in order. -/
def remoteCode (s : Chip) (op c : Nat) (x : RemoteCmd) : Nat :=
  let d := addrNode x.remote.toNat
  let n := if op = 0x22 then atypeBytes x.atype.toNat else x.size.toNat
  let features := ((s.job (s.slotOfCore c)).map (fun j => j.res.features.toNat)).getD 0
  Code.firstOf
    [Code.need (s.remoteFieldsOk op x) Code.outOfRange,
     if op = 0x22 && !bit x.rflags.toNat 0 then 0 else s.checkOwn c x.local_.toNat n,
     Code.need (!(isPackage d && !sameGroup s.node d && !bit features 5)) Code.accessDenied,
     Code.need (s.reachable d) Code.peerUnreachable]

/-- At most 256 uncompleted remote commands, to at most 64 destinations (R310). -/
def remoteRoom (s : Chip) (u d : Nat) : Bool :=
  let rs := s.requestsOf u
  decide (rs.length < 256) && (rs.any (fun r => r.dest = d) || decide ((rs.map (·.dest)).eraseDups.length < 64))

/-- A source sets COMBINABLE on whole-line reads and combinable atomics (R318). -/
def sourceCombines (s : Chip) (op : Nat) (x : RemoteCmd) : Bool :=
  !bit x.rflags.toNat 1 && s.reg 0x4030 7 = 1 &&
    (if op = 0x20 then x.size = 64 && x.remote.toNat % 64 = 0 && decide (addrClass x.remote.toNat ≤ 1)
     else op = 0x22 && combinableAop x.aop.toNat && !(x.aop = 1 && x.atype = 2 && s.jade))

/-- RLOAD, RSTORE or RATOMIC at the head of a CP stream; `none` while R310's limits hold it. -/
def headRemote (s : Chip) (op : Nat) (c : CoreId) (t : EntryTag) (x : RemoteCmd) : Option Chip :=
  let ix := (s.stream c 3).count
  let u := s.streamUnit c 3
  let a := x.remote.toNat
  let d := addrNode a
  let stop := s.coreStop c
  let code := if stop ≠ 0 then stop
    else Code.first (Code.need (tagOk t 1 4) Code.outOfRange) (s.remoteCode op c x)
  let obj := x.signalObj.toNat
  let size := if op = 0x22 then atypeBytes x.atype.toNat else x.size.toNat
  let bad := if op = 0x22 && !bit x.rflags.toNat 0 then none else s.arrayBad c code [(x.local_.toNat, size)]
  if code ≠ 0 then some ((s.atHead c 3).finishAt c 3 code ix obj bad)
  else if !s.remoteRoom u d then none
  else
    let s1 := s.atHead c 3
    let dst := addrOff x.local_.toNat
    let jobId := ((s.job (s.slotOfCore c)).map (·.jobId)).getD 0
    let owner : ReqOwner := .command c ix obj dst
    if op = 0x20 then
      let n := x.size.toNat
      let hit := if addrClass a = 0 && Config.freeChoice s.free 3 % 2 = 1 then s.cachedBytes (c.val / 4) a n else none
      match hit with
      | some bs => let w := s1.store u dst bs; some (w.2.finish c 3 w.1 ix obj)
      | none =>
        let m := { s1.newMsg 1 d a jobId with length := x.size, mflags := if s.sourceCombines op x then 1 else 0 }
        some (s1.issueRequest u m 0 0 owner)
    else if op = 0x21 then
      let b := s1.load dst x.size.toNat
      if b.2 ≠ 0 then some (s1.finishAt c 3 b.2 ix obj (s1.firstPoisoned dst x.size.toNat))
      else
        let m := { s1.newMsg 2 d a jobId with length := x.size, data := b.1 }
        some ((s1.dropRange (c.val / 4) a x.size.toNat).issueRequest u m 0 0 owner)
    else
      let n := atypeBytes x.atype.toNat
      let m := { s1.newMsg 3 d a jobId with
        aop := x.aop, atype := x.atype, operand := BitVec.ofNat 64 (x.operand.toNat % 2 ^ (8 * n))
        operand2 := BitVec.ofNat 64 (x.operand2.toNat % 2 ^ (8 * n)), mflags := if s.sourceCombines op x then 1 else 0 }
      some ((s1.dropRange (c.val / 4) a n).issueRequest u m (if bit x.rflags.toNat 0 then 1 else 0)
        (atomicIdentity x.aop.toNat x.atype.toNat) owner)

/-! ## PREFETCH, R228, R229 and R495 -/

/-- PREFETCH at the head of a CP stream: it arms or disarms a slot of its own cluster and completes at once. -/
def headPrefetch (s : Chip) (c : CoreId) (t : EntryTag) (x : CpEntry) : Option Chip :=
  let ix := (s.stream c 3).count
  let stop := s.coreStop c
  let code := if stop ≠ 0 then stop
    else Code.first (Code.need (tagOk t 1 1 && x.opcode = 0x12 && x.reserved = 0 && x.target = 0) Code.outOfRange)
      (s.checkDesc c x.descAddr.toNat 32 32)
  let s1 := s.atHead c 3
  if stop ≠ 0 then some (s1.record c 3 stop ix)
  else if code ≠ 0 then some (s1.refuseEntry c ix code x.descAddr.toNat 32)
  else
    let b := s.load (addrOff x.descAddr.toNat) 32
    let slot := field b.1 0 1
    let ctrl := field b.1 1 1
    let rb := field b.1 4 4
    let base := field b.1 8 8
    let rows := field b.1 0x10 4
    let dist := field b.1 0x14 4
    let stride := field b.1 0x18 8
    let span := if rows = 1 then rb else (rows - 1) * stride + rb
    let fieldsOk := decide (slot < 16) && decide (ctrl < 2) && field b.1 2 2 = 0
      && decide (64 ≤ rb) && decide (rb ≤ 2 ^ 24) && rb % 64 = 0 && addrClass base = 1 && base % 64 = 0
      && decide (addrOff base < hbmEnd) && decide (1 ≤ rows) && decide (rows ≤ 2 ^ 24)
      && decide (4096 ≤ dist) && decide (dist ≤ 2 ^ 21) && dist % 4096 = 0 && (rows = 1 || stride % 64 = 0)
    let refuse := Code.firstOf [b.2, Code.need fieldsOk Code.outOfRange, s.checkRange (s.slotOfCore c) base span true]
    if refuse ≠ 0 then
      let bad := if b.2 ≠ 0 then s1.arrayBad c b.2 [(x.descAddr.toNat, 32)]
        else s1.firstBad (fun a => s1.checkRange (s1.slotOfCore c) a 1 true) refuse [(base, span)]
      some (s1.recordFault c 3 refuse ix bad)
    else
      let p : Prefetch := ⟨rb, base, rows, dist, stride, min dist (rb * rows)⟩
      let s2 := { s1 with prefetch := SMap.set none s1.prefetch (16 * (c.val / 4) + slot) (if ctrl = 1 then some p else none) }
      some (if ctrl = 1 then s2.bump 0x80D0 (c.val / 64 + 1) (p.fetched / 64) else s2)

end Chip

end Sys2Proof.Machine
end

