-- ==== Sys2Proof/Machine/Verify.lean ====
section
/-! DEFINITION. Verification on check-value channels: spec/13_field_exchange_and_check_values.md R357, R364 to R366, R370, R371,
R505, R506. -/

namespace Sys2Proof.Machine

namespace Chip

/-- The checks of R364 in order. -/
def verifyCode (s : Chip) (c : Nat) (x : CverifyCmd) : Nat :=
  let slot := s.slotOfCore c
  let n := x.channel.toNat
  let m := x.recChannel.toNat
  let held (k : Nat) : Bool := decide (s.slotOfChannel k = slot)
  let own (a len : Nat) : Nat := s.checkRange slot a len true
  Code.firstOf
    [Code.need (x.reserved = 0 && x.reservedTail = 0 && decide (n < 256) && decide (m < 256) && decide (n ≠ m)
      && (x.signalObj = 0xFFFF || refOk x.signalObj.toNat)
      && decide (1 ≤ x.dataBytes.toNat) && decide (x.dataBytes.toNat ≤ 2 ^ 40) && decide (x.scaleBytes.toNat ≤ 2 ^ 40)
      && (x.scaleBytes ≠ 0 || x.scaleAddr = 0) && x.verdictAddr.toNat % 32 = 0
      && decide (localBase ≤ addrOff x.verdictAddr.toNat)) Code.outOfRange,
     Code.need (held n && held m) Code.accessDenied,
     own x.dataAddr.toNat x.dataBytes.toNat,
     if x.scaleBytes = 0 then 0 else own x.scaleAddr.toNat x.scaleBytes.toNat,
     own x.verdictAddr.toNat 32]

/-- The verdict record of R366. -/
def verdict (x : CverifyCmd) (status recordAlive computed : Nat) : List Byte :=
  leBytes 2 status ++ leBytes 2 x.channel.toNat ++ leBytes 2 x.recChannel.toNat ++ [0, 0] ++ leBytes 8 x.expectedAlive.toNat
    ++ leBytes 8 recordAlive ++ leBytes 8 computed

/-- VERDICT_ADDR can be written. -/
def verdictOk (s : Chip) (c : Nat) (x : CverifyCmd) : Bool :=
  x.verdictAddr.toNat % 32 = 0 && s.checkRange (s.slotOfCore c) x.verdictAddr.toNat 32 true = 0
    && decide (localBase ≤ addrOff x.verdictAddr.toNat)

/-- SIGNAL_OBJ of a CVERIFY, an object reference, by the CP stream; the home refuses an object that the job does not hold (R247). -/
def verifySignal (s : Chip) (c : Nat) (x : CverifyCmd) : Chip :=
  if namesObj x.signalObj.toNat then s.post (objOfRef x.signalObj.toNat) 1 (s.streamUnit c 3) else s

/-- The completion of a CVERIFY, R366: verdict, STREAM_STATUS and log, signal. -/
def verifyEnd (s : Chip) (c : Nat) (x : CverifyCmd) (status recordAlive computed : Nat) : Chip :=
  let v := verdict x status recordAlive computed
  let u := s.streamUnit c 3
  let s1 := if s.verdictOk c x then s.put u (addrOff x.verdictAddr.toNat) v else s
  let s2 := if status = 0 then s1
    else
      let j := s1.slotOfCore c
      let t := s1.updStream c 3 (fun y => { y with status := Code.first y.status status })
      (t.noteError j u status).addLog status j 5 u v
  (s2.updStream c 3 (fun y => { y with verify := none })).verifySignal c x

/-- A channel is obtained: the verification reads its record once (R365). -/
def obtainVerify (s : Chip) (c : CoreId) (n : Nat) : Chip :=
  match (s.stream c 3).verify with
  | some (x, ix, _) =>
    let m := s.chan x.recChannel.toNat
    let rec_ := if x.expectedAlive.toNat % 2 = 0 then m.slot0 else m.slot1
    (s.setChan n { s.chan n with busy := some (.verify c) }).updStream c 3 (fun y => { y with verify := some (x, ix, some rec_) })
  | none => s

/-- A verification asks for its channel (R357, R371, R505). -/
def askVerify (s : Chip) (c : CoreId) (x : CverifyCmd) (ix : Nat) : Chip :=
  let n := x.channel.toNat
  let ch := s.chan n
  if s.channelState n = 2 then s.verifyEnd c x Code.unitDraining 0 0
  else if s.channelState n = 0 then s.verifyEnd c x Code.unitDisabled 0 0
  else
    let s1 := s.updStream c 3 (fun y => { y with verify := some (x, ix, none) })
    if ch.busy.isNone && ch.waiting.isEmpty then s1.obtainVerify c n
    else s1.setChan n { ch with waiting := ch.waiting ++ [.verify c] }

/-- CVERIFY at the head of a CP stream. An accepted one holds the stream until it completes (R364). -/
def headCverify (s : Chip) (c : CoreId) (t : EntryTag) (x : CverifyCmd) : Option Chip :=
  let ix := (s.stream c 3).count
  let stop := s.coreStop c
  let code := if stop ≠ 0 then stop
    else Code.first (Code.need (tagOk t 1 4) Code.outOfRange) (s.verifyCode c x)
  let s1 := s.atHead c 3
  if code ≠ 0 then some (s1.verifyEnd c x code 0 0) else some (s1.askVerify c x ix)

/-! ## The coupler's count of verdicts, R370 -/

/-- Count a verdict of a bound channel. A bad input field withholds its training step; the third failure in a row asks for a pause at the next step boundary. -/
def countVerdict (s : Chip) (slot recChannel alive status : Nat) : Chip :=
  match s.job slot with
  | none => s
  | some x =>
    let bump (d : Direction) : Direction := { d with badRun := if status = 0 then 0 else d.badRun + 1 }
    let f := decide (x.bind.getD 0 0xFFFF = recChannel)
    let r := decide (x.bind.getD 2 0xFFFF = recChannel)
    if jobCoupled x && (f || r) then
      let x0 := if f && status ≠ 0 then { x with controller := x.controller.map (fun (c : Controller) => { c with badInput := some alive }) } else x
      let x1 := if f then { x0 with forward := bump x.forward } else { x0 with ret := bump x.ret }
      let run := if f then x1.forward.badRun else x1.ret.badRun
      if run = 3 then
        (s.setJob slot (some { x1 with pauseReq := true, pauseCode := status })).addLog status slot 0 s.buristUnit []
      else s.setJob slot (some x1)
    else s

/-! ## Outcome, R365 and R506 -/

/-- Outcome, COMPUTED_CHECK and RECORD_ALIVE of a verification with the record it read. -/
def verifyOutcome (s : Chip) (x : CverifyCmd) (r : CheckRec) : Nat × Nat :=
  if !r.valid || r.alive ≠ x.expectedAlive.toNat then (Code.aliveStale, 0)
  else if r.length ≠ x.dataBytes.toNat + x.scaleBytes.toNat then (Code.checkMismatch, 0)
  else
    let d := s.load (addrOff x.dataAddr.toNat) x.dataBytes.toNat
    let k := if x.scaleBytes = 0 then ([], 0) else s.load (addrOff x.scaleAddr.toNat) x.scaleBytes.toNat
    let code := Code.first d.2 k.2
    if code ≠ 0 then (code, 0)
    else
      let v := checkOf r.poly x.expectedAlive.toNat (d.1 ++ k.1)
      (if v = r.check then 0 else Code.checkMismatch, v)

/-- The counters and LAST_FAIL of the verifying channel (R371). -/
def countVerify (s : Chip) (n status : Nat) (v : List Byte) : Chip :=
  let s1 := s.bump (0x7100 + n) 5 1
  let s2 := if status = Code.checkMismatch then s1.bump (0x7100 + n) 6 1 else s1
  let s3 := if status = Code.aliveStale then s2.bump (0x7100 + n) 7 1 else s2
  if status = 0 then s3 else s3.setChan n { s3.chan n with lastFail := v }

/-- A running verification ends: verdict, counters, monitor report, and its channel is free again. -/
def settleVerify (s : Chip) (n : ChanId) (c : CoreId) (status computed : Nat) : Chip :=
  match (s.stream c 3).verify with
  | some (x, _, some r) =>
    let s1 := s.setChan n { s.chan n with busy := none }
    let s2 := s1.verifyEnd c x status r.alive computed
    let s3 := s2.countVerify n status (verdict x status r.alive computed)
    let s4 := if status = Code.checkMismatch || status = Code.aliveStale then s3.detectLogged 3 else s3
    (s4.countVerdict (s4.slotOfCore c) x.recChannel.toNat x.expectedAlive.toNat status).channelEnd n
  | _ => s.setChan n { s.chan n with busy := none }

/-- The stream whose verification a channel runs. -/
def verifyUnit (s : Chip) (n : Nat) : Nat :=
  match (s.chan n).busy with
  | some (.verify c) => s.streamUnit c 3
  | _ => 0

/-- CVERIFY_COMPLETE. -/
def completeVerify (s : Chip) (n : ChanId) : Chip :=
  match (s.chan n).busy with
  | some (.verify c) =>
    match (s.stream c 3).verify with
    | some (x, _, some r) =>
      let o := s.verifyOutcome x r
      let t := if o.1 = Code.uncorrectable then (s.countBad (addrOff x.dataAddr.toNat) x.dataBytes.toNat).countBad
        (addrOff x.scaleAddr.toNat) x.scaleBytes.toNat else s
      t.settleVerify n c o.1 o.2
    | _ => s
  | _ => s

/-! ## Waiting operations, R357, R371 and R505 -/

/-- The channel passes to the operation that asked first. -/
def acquireChannel (s : Chip) (n : ChanId) : Chip :=
  let ch := s.chan n
  if ch.busy.isSome || s.channelState n ≠ 1 then s
  else match ch.waiting with
    | [] => s
    | .verify c :: t => (s.setChan n { ch with waiting := t }).obtainVerify c n
    | .copy e q :: t =>
      ((s.setChan n { ch with waiting := t, busy := some (.copy e q) }).updFront e q (fun r =>
        { r with holds := true, asked := false })).runCopy e q

/-- Operations that wait for a channel end when it begins draining. -/
def channelDrain (s : Chip) (n : ChanId) : Chip :=
  if s.channelState n = 2 then
    let ch := s.chan n
    let s1 := ch.waiting.foldl (fun (t : Chip) w =>
      match w with
      | .verify c =>
        match (t.stream c 3).verify with
        | some (x, _, _) => t.verifyEnd c x Code.unitDraining 0 0
        | none => t
      | .copy e q => t.endCopy e q Code.unitDraining) (s.setChan n { ch with waiting := [] })
    s1.channelEnd n
  else s

/-- The drain bound: the running operation is aborted; an aborted generation clears VALID (R371). -/
def channelBound (s : Chip) (n : ChanId) : Chip :=
  if s.channelState n = 2 then
    match (s.chan n).busy with
    | some (.verify c) => s.settleVerify n c Code.unitDisabled 0
    | some (.copy e q) =>
      let s1 := (s.fab.requests.filter (ofQueue e q)).foldl (fun (t : Chip) r => t.closeRequest r true) s
      s1.endCopy e q Code.unitDisabled
    | none => s.channelEnd n
  else s

end Chip

end Sys2Proof.Machine
end

