-- ==== Sys2Proof/Machine/Collect.lean ====
section
/-! DEFINITION. Collectives: spec/12_collectives.md R333 to R356. A collective is laid out, on every member alike, as the list
of its transfers; a member grants, sends and combines its own share of them. -/

namespace Sys2Proof.Machine

/-! ## Arithmetic, R345 -/

/-- Element bytes of a DTYPE, and of its accumulation type. -/
def collBytesOf (dtype : Nat) : Nat := match dtype with | 0x01 => 8 | 0x03 => 2 | _ => 4
def accBytesOf (dtype : Nat) : Nat := if dtype = 0x01 then 8 else 4

/-- One combination on codes of the accumulation type; `a` is the chain so far. -/
def collOp (rop dtype a b : Nat) : Nat :=
  if dtype = 0x01 then
    FVal.code fp64 (match rop with
      | 2 => FVal.min2 (f64 a) (f64 b)
      | 3 => FVal.max2 (f64 a) (f64 b)
      | _ => FVal.addR fp64 (f64 a) (f64 b))
  else atomicOp rop (if dtype = 0x07 then 0 else 2) a b

/-- An element of the DTYPE in the accumulation type, and back with the one rounding of BF16. -/
def widen (dtype c : Nat) : Nat := if dtype = 0x03 then c * 65536 else c
def narrow (dtype c : Nat) : Nat := if dtype = 0x03 then FVal.code bf16 (FVal.round bf16 (f32 c)) else c

/-- SUM of a floating-point type, whose result depends on the order. -/
def fpSum (rop dtype : Nat) : Bool := rop = 1 && dtype ≠ 0x07

def zipOp (rop dtype : Nat) (a b : List Nat) : List Nat := List.zipWith (collOp rop dtype) a b

/-- A chain over vectors, starting from the first. -/
def chainVec (rop dtype : Nat) : List (List Nat) → List Nat
  | [] => []
  | v :: t => t.foldl (zipOp rop dtype) v

/-! ## Members and groups -/

/-- Members as lists of ranks, one for each group, in ascending group number (R341). -/
def rankGroups (members : List Nat) : List (List Nat) :=
  let gs := (members.map groupOf).eraseDups.mergeSort (· ≤ ·)
  gs.map (fun g => (List.range members.length).filter (fun r => groupOf (members.getD r 0) = g))

def rankOf (members : List Nat) (n : Nat) : Nat := members.idxOf n

/-- Every group holds the same number ≥ 3 of members (R340). -/
def groupsEqual (gs : List (List Nat)) : Bool :=
  match gs.head? with
  | some g => decide (3 ≤ g.length) && gs.all (fun h => h.length = g.length)
  | none => false

/-! ## Rings, R343 and R344 -/

/-- Rank at place i ≥ 1 of ring k over q + 1 members; place 0 is rank q. -/
def zigzag (q k i : Nat) : Nat := if i = 0 then k % q else if i % 2 = 1 then (k + (i + 1) / 2) % q else (k + q * i - i / 2) % q

/-- Directed ring d of n members: ring d div 2, reversed for odd d. -/
def ringOrder (n d : Nat) : List Nat :=
  let q := n - 1
  let z := (List.range q).map (zigzag q (d / 2))
  q :: (if d % 2 = 0 then z else z.reverse)

def directedRings (n : Nat) : Nat := 2 * ((n - 1) / 2)

/-- One step of the common layout: ranks, elements, and whether the receiver combines. -/
structure Step where
  src : Nat
  dst : Nat
  lo : Nat
  hi : Nat
  add : Bool
  deriving DecidableEq, Repr

/-- Part k of n of elements [lo, hi), by the floor rule. -/
def partOf (lo hi n k : Nat) : Nat × Nat := (lo + k * (hi - lo) / n, lo + (k + 1) * (hi - lo) / n)

/-- A step cut into buffers of 16 KiB of elements of w bytes. -/
def cutStep (w : Nat) (x : Step) : List Step :=
  let per := 16384 / w
  (List.range (ceilDiv (x.hi - x.lo) per)).map (fun b =>
    { x with lo := x.lo + b * per, hi := min x.hi (x.lo + (b + 1) * per) })

/-- Reduce-scatter of [lo, hi) on a ring: chunk c starts at place c + 1 and ends at place c. -/
def ringReduce (aw : Nat) (order : List Nat) (lo hi : Nat) : List Step :=
  let n := order.length
  (List.range n).flatMap (fun c =>
    let p := partOf lo hi n c
    (List.range' 1 (n - 1)).flatMap (fun t =>
      cutStep aw ⟨order.getD ((c + t) % n) 0, order.getD ((c + t + 1) % n) 0, p.1, p.2, true⟩))

/-- All-gather of given ranges: the range of place c passes around from place c. -/
def ringGather (w : Nat) (order : List Nat) (range : Nat → Nat × Nat) : List Step :=
  let n := order.length
  (List.range n).flatMap (fun c =>
    let p := range c
    (List.range (n - 1)).flatMap (fun t =>
      cutStep w ⟨order.getD ((c + t) % n) 0, order.getD ((c + t + 1) % n) 0, p.1, p.2, false⟩))

/-- The ring algorithms of a reduction over `count` elements. -/
def ringPlan (flat : Bool) (gs : List (List Nat)) (w aw count : Nat) : List Step :=
  if flat then
    let order := gs.flatten.mergeSort (· ≤ ·)
    ringReduce aw order 0 count ++ ringGather w order (partOf 0 count order.length)
  else
    let n := (gs.headD []).length
    let r := directedRings n
    let dirs := List.range r
    let inGroup (g : List Nat) (o : List Nat) : List Nat := o.map (fun i => g.getD i 0)
    let reduce := gs.flatMap (fun g => dirs.flatMap (fun d =>
      let p := partOf 0 count r d
      ringReduce aw (inGroup g (ringOrder n d)) p.1 p.2))
    let across := if gs.length < 2 then []
      else (List.range n).flatMap (fun i => dirs.flatMap (fun d =>
        let p := partOf 0 count r d
        let c := partOf p.1 p.2 n ((ringOrder n d).idxOf i)
        let order := gs.map (fun g => g.getD i 0)
        ringReduce aw order c.1 c.2 ++ ringGather w order (partOf c.1 c.2 order.length)))
    let gather := gs.flatMap (fun g => dirs.flatMap (fun d =>
      let p := partOf 0 count r d
      ringGather w (inGroup g (ringOrder n d)) (partOf p.1 p.2 n)))
    reduce ++ across ++ gather

/-- ALLGATHER of pieces of `piece` bytes on rings. -/
def gatherPlan (flat : Bool) (gs : List (List Nat)) (piece : Nat) : List Step :=
  if flat then
    let order := gs.flatten.mergeSort (· ≤ ·)
    ringGather 1 order (fun c => (order.getD c 0 * piece, (order.getD c 0 + 1) * piece))
  else
    let n := (gs.headD []).length
    let r := directedRings n
    let across := if gs.length < 2 then []
      else (List.range n).flatMap (fun i =>
        let order := gs.map (fun g => g.getD i 0)
        ringGather 1 order (fun c => (order.getD c 0 * piece, (order.getD c 0 + 1) * piece)))
    let inside := gs.flatMap (fun g => (List.range r).flatMap (fun d => gs.flatMap (fun h =>
      let o := ringOrder n d
      ringGather 1 (o.map (fun i => g.getD i 0)) (fun c =>
        let own := h.getD (o.getD c 0) 0
        let p := partOf 0 piece r d
        (own * piece + p.1, own * piece + p.2)))))
    across ++ inside

/-- BROADCAST of n bytes: the root to its group and to the first member of every other group, which passes it on (R342). -/
def broadcastPlan (gs : List (List Nat)) (root n : Nat) : List Step :=
  let segs := cutStep 1 ⟨0, 0, 0, n, false⟩
  segs.flatMap (fun x => gs.flatMap (fun g =>
    if g.contains root then (g.filter (fun m => m ≠ root)).map (fun m => { x with src := root, dst := m })
    else
      let f := g.headD 0
      { x with src := root, dst := f } :: (g.drop 1).map (fun m => { x with src := f, dst := m })))

/-! ## Aggregation, R348 -/

def segElems (dtype : Nat) : Nat := 65536 / accBytesOf dtype
def segCount (dtype count : Nat) : Nat := ceilDiv count (segElems dtype)
def segRange (dtype count j : Nat) : Nat × Nat := (j * segElems dtype, min count ((j + 1) * segElems dtype))
/-- The aggregator of segment j in a group, and its Ridge die. -/
def aggregator (g : List Nat) (j : Nat) : Nat := g.getD (j % max g.length 1) 0
def aggDie (g : List Nat) (j : Nat) : Nat := (j / max g.length 1) % 2

/-- Every die that aggregates a segment: member rank and Ridge die (R347). -/
def aggDies (gs : List (List Nat)) (dtype count : Nat) : List (Nat × Nat) :=
  ((List.range (segCount dtype count)).flatMap (fun j => gs.map (fun g => (aggregator g j, aggDie g j)))).eraseDups

/-- The largest number of inputs that a die's slots receive. -/
def dieInputs (gs : List (List Nat)) (rank : Nat) : Nat :=
  match gs.find? (fun g => g.contains rank) with
  | some g => max g.length (if (gs.headD []).contains rank then gs.length else 0)
  | none => 0

/-! ## A member's share of the layout -/

/-- Steps of a rank, numbered by their place in the layout. -/
def shareSteps (me : Nat) (plan : List Step) : List CollIn × List CollOut :=
  let ps := SMap.number 0 plan
  let ins := (ps.filter (fun p => p.2.dst = me)).map (fun p => (⟨p.1, p.2.src, 0, p.2.lo, p.2.hi, p.2.add⟩ : CollIn))
  let outs := (ps.filter (fun p => p.2.src = me)).map (fun p =>
    (⟨p.1, p.2.dst, 0, p.2.lo, p.2.hi, p.2.add,
      (ins.filter (fun i => decide (i.seg < p.1) && decide (i.lo < p.2.hi) && decide (p.2.lo < i.hi))).map (·.seg)⟩ : CollOut))
  (ins, outs)

/-- DIRECT of a reduction: every contribution to every other member (R342). -/
def shareDirect (me n count : Nat) : List CollIn × List CollOut :=
  let others := (List.range n).filter (fun r => r ≠ me)
  (others.map (fun r => ⟨0, r, 1, 0, count, true⟩), others.map (fun r => ⟨0, r, 1, 0, count, true, []⟩))

/-- SWITCH and GATHER: a rank's transfers of segment j (R348). -/
def shareSegment (me : Nat) (gs : List (List Nat)) (dtype count j : Nat) : List CollIn × List CollOut × List Slot :=
  let r := segRange dtype count j
  let top := aggregator (gs.headD []) j
  match gs.find? (fun g => g.contains me) with
  | none => ([], [], [])
  | some g =>
    let a := aggregator g j
    let many := decide (1 < gs.length)
    let others := g.filter (fun m => m ≠ me)
    if me = a then
      let ins1 := others.map (fun m => (⟨j, m, 1, r.1, r.2, true⟩ : CollIn))
      let outs1 := others.map (fun m => (⟨j, m, 3, r.1, r.2, false, []⟩ : CollOut))
      let slot1 : Slot := { seg := j, top := false, ranks := g }
      if !many then (ins1, outs1, [slot1])
      else if me = top then
        let rest := (gs.drop 1).map (fun h => aggregator h j)
        (ins1 ++ rest.map (fun m => ⟨j, m, 2, r.1, r.2, true⟩), outs1 ++ rest.map (fun m => ⟨j, m, 3, r.1, r.2, false, []⟩),
         [slot1, { seg := j, top := true, ranks := gs.map (fun h => aggregator h j) }])
      else (ins1 ++ [⟨j, top, 3, r.1, r.2, false⟩], ⟨j, top, 2, r.1, r.2, true, []⟩ :: outs1, [slot1])
    else ([⟨j, a, 3, r.1, r.2, false⟩], [⟨j, a, 1, r.1, r.2, true, []⟩], [])

namespace Chip

/-! ## Runs -/

def setFab (s : Chip) (f : Fabric → Fabric) : Chip := { s with fab := f s.fab }

def sameRun (a b : CollRun) : Bool := a.jobId = b.jobId && a.comm = b.comm && a.seq = b.seq

def findRun (s : Chip) (jobId : U64) (comm seq : Nat) : Option CollRun :=
  s.fab.colls.find? (fun r => r.jobId = jobId && r.comm = comm && r.seq = seq)

def putRun (s : Chip) (x : CollRun) : Chip :=
  s.setFab (fun f => { f with colls := f.colls.map (fun r => if sameRun r x then x else r) })

/-- The members of a run's communicator. -/
def runMembers (s : Chip) (x : CollRun) : List Nat :=
  match s.job x.slot with
  | some j => ((j.comms.find? (fun c => c.comm = x.comm)).map (·.members)).getD []
  | none => []

def runRank (s : Chip) (x : CollRun) : Nat := rankOf (s.runMembers x) s.node

/-- Send a collective message; one to the own package goes to its inbox. Data bytes count as sent. -/
def sendColl (s : Chip) (mtype dest : Nat) (m : CollMsg) : Chip :=
  if dest = s.node then s.setFab (fun f => { f with inbox := f.inbox ++ [(mtype, m)] })
  else (s.route 2 0 s.node dest none false (.coll mtype m)).getD s

/-- A message of a run. -/
def collMsg (s : Chip) (x : CollRun) (dest seg status : Nat) (last : Bool) (data : List Byte) : CollMsg :=
  { mflags := if last then 1 else 0, dest := BitVec.ofNat 16 dest, srcNode := BitVec.ofNat 16 s.node
    comm := BitVec.ofNat 8 x.comm, algo := BitVec.ofNat 8 x.algo, jobId := x.jobId, seq := BitVec.ofNat 32 x.seq
    segment := BitVec.ofNat 32 seg, status := BitVec.ofNat 16 status, ctype := x.cmd.ctype, rop := x.cmd.rop
    dtype := x.cmd.dtype, count := x.cmd.count, root := x.cmd.root, tokens := 0, data := data }

/-! ## Completion, R336 -/

/-- Tokens of the leases that this package's dies hold for a collective return (R347). -/
def returnLeases (s : Chip) (p : Lease → Bool) : Chip :=
  let back := s.fab.leases.filter p
  let s1 := s.setFab (fun f => { f with leases := f.leases.filter (fun l => !p l) })
  back.foldl (fun (t : Chip) l => t.bump 0x4040 (4 + l.ridge) l.tokens) s1

/-- Bytes of the vector that a communicator operation moves: COUNT elements with their scale plane. -/
def vectorBytes (dtype count : Nat) : Nat :=
  let f := Fmt.ofCode dtype
  f.rowBytes count + f.scaleCount 1 count

/-- What a completed collective writes at DST. -/
def collResult (s : Chip) (x : CollRun) : List (Nat × List Byte) :=
  let dt := x.cmd.dtype.toNat
  let w := collBytesOf dt
  let out (l : List Nat) : List Byte := l.flatMap (fun c => leBytes w (narrow dt c))
  match x.cmd.ctype.toNat with
  | 1 => [(x.cmd.dst.toNat, out x.cur)]
  | 2 =>
    let p := partOf 0 x.cmd.count.toNat (s.runMembers x).length (s.runRank x)
    [(x.cmd.dst.toNat, out ((x.cur.drop p.1).take (p.2 - p.1)))]
  | 4 => [(x.cmd.dst.toNat, x.cur.map (BitVec.ofNat 8))]
  | _ => []

/-- The ranges of memory that a COLL names, among p members: source, destination, completion record (R336). -/
def collRanges (p : Nat) (x : CollCmd) : List (Nat × Nat) :=
  let ct := x.ctype.toNat
  let dt := x.dtype.toNat
  let n := if ct = 1 || ct = 2 then x.count.toNat * collBytesOf dt else vectorBytes dt x.count.toNat
  let dn := match ct with | 2 => n / max p 1 | 3 => p * n | _ => n
  (if ct = 5 || n = 0 then [] else [(x.src.toNat, n), (x.dst.toNat, dn)])
    ++ (if x.completionAddr = 0 then [] else [(x.completionAddr.toNat, 32)])

/-- Complete a collective with a status: DST, record, signal; its leases return (R336, R347). -/
def endColl (s : Chip) (x : CollRun) (status : Nat) : Chip :=
  let u := s.collectiveUnit (x.comm % 2)
  let w := if status = 0 then (s.collResult x).foldl (fun (t : Nat × Chip) o =>
      let r := t.2.store u (addrOff o.1) o.2; (Code.first t.1 r.1, r.2)) (0, s) else (0, s)
  let code := Code.first status (Code.first x.code w.1)
  let rec_ := leBytes 2 code ++ [BitVec.ofNat 8 x.algo, BitVec.ofNat 8 x.comm] ++ leBytes 4 x.seq ++ leBytes 8 x.cmd.tag.toNat
    ++ leBytes 8 x.sent ++ leBytes 4 (Config.freeCycles s.free 9).toNat ++ leBytes 4 0
  let s1 := if x.cmd.completionAddr = 0 then w.2 else w.2.putAfter u (addrOff x.cmd.completionAddr.toNat) rec_
  let bad := (collRanges (max 1 (s.runMembers x).length) x.cmd).findSome? (fun r => s.firstPoisoned (addrOff r.1) r.2)
  let s2 := s1.recordFault x.core 3 code x.index (if code = Code.uncorrectable then bad else none)
  let s3 := if namesObj x.cmd.signalObj.toNat then s2.postFor x.slot (objOfRef x.cmd.signalObj.toNat) 1 u else s2
  let s4 := s3.returnLeases (fun l => l.jobId = x.jobId && l.comm = x.comm && l.seq = x.seq)
  s4.setFab (fun f => { f with
    colls := f.colls.filter (fun r => !sameRun r x)
    starts := f.starts.filter (fun m => !(m.jobId = x.jobId && m.comm = x.comm && m.seq = x.seq)) })

/-- The next queued collective of a communicator sends its START; with an unreachable member it ends at once (R335, R337,
R353). -/
def beginNext : Nat → Chip → U64 → Nat → Chip
  | 0, s, _, _ => s
  | fuel + 1, s, jobId, comm =>
    let l := s.fab.colls.filter (fun r => r.jobId = jobId && r.comm = comm)
    match l.head? with
    | none => s
    | some x =>
      if x.begun then s
      else
        let ms := s.runMembers x
        if ms.all s.reachable then
          let x1 := { x with begun := true }
          let dest := ms.headD s.node
          (s.putRun x1).sendColl 0x20 dest (s.collMsg x1 dest 0 0 false [])
        else beginNext fuel (s.endColl x Code.peerUnreachable) jobId comm

/-- End a collective on this member and tell the others where `tell` says so (R353). -/
def abortColl (s : Chip) (x : CollRun) (status : Nat) (tell : Bool) : Chip :=
  let s1 := if tell then ((s.runMembers x).filter (fun m => m ≠ s.node && s.reachable m)).foldl (fun (t : Chip) m =>
    t.sendColl 0x28 m (t.collMsg x m 0 status false [])) s else s
  beginNext 8 (s1.endColl x status) x.jobId x.comm

/-! ## Slots -/

/-- The fold of a slot's inputs: in the fixed order, or in the order they came with the own contribution at a place that
timing decides (R341, R349). -/
def foldSlot (s : Chip) (x : CollRun) (fixed : Bool) (own : Nat) (sl : Slot) : List Nat :=
  let rop := x.cmd.rop.toNat
  let dt := x.cmd.dtype.toNat
  if fixed then chainVec rop dt (sl.ranks.filterMap (fun r => (sl.inputs.find? (fun i => i.1 = r)).map Prod.snd))
  else
    let mine := (sl.inputs.filter (fun i => i.1 = own)).map Prod.snd
    let rest := (sl.inputs.filter (fun i => i.1 ≠ own)).map Prod.snd
    let k := Config.freeChoice s.free (16 + sl.seg) % (rest.length + 1)
    chainVec rop dt (rest.take k ++ mine ++ rest.drop k)

/-- DIRECT's fixed order: a chain within each group, then over the groups. -/
def foldDirect (x : CollRun) (gs : List (List Nat)) (sl : Slot) : List Nat :=
  let rop := x.cmd.rop.toNat
  let dt := x.cmd.dtype.toNat
  chainVec rop dt (gs.map (fun g => chainVec rop dt (g.filterMap (fun r => (sl.inputs.find? (fun i => i.1 = r)).map Prod.snd))))

/-- A segment's final value: it enters the vector. -/
def setResult (x : CollRun) (seg : Nat) (v : List Nat) : CollRun :=
  let p := if x.algo = 1 then (0, x.cmd.count.toNat) else segRange x.cmd.dtype.toNat x.cmd.count.toNat seg
  { x with results := x.results ++ [(seg, v)], cur := x.cur.take p.1 ++ v ++ x.cur.drop p.2 }

/-- Count a reduced segment under R354 and R356. -/
def countSegment (s : Chip) (x : CollRun) (gs : List (List Nat)) (sl : Slot) : Chip :=
  let dt := x.cmd.dtype.toNat
  if x.algo = 4 then
    let g := (gs.find? (fun g => g.contains (s.runRank x))).getD []
    let s1 := s.bump 0x80F3 (aggDie g sl.seg + 1) 1
    if !x.jade && fpSum x.cmd.rop.toNat dt then s1.countNd 5 x.slot 1 else s1
  else s.bump 0x80F4 (x.comm % 2 + 1) ((sl.inputs.length - 1) * accBytesOf dt * ((sl.inputs.headD (0, [])).2.length))

/-- An input of a slot. A full slot gives its result: to the top aggregator, or as the segment's value. -/
def feedSlot : Nat → Chip → CollRun → Nat → Bool → Nat → List Nat → Chip × CollRun
  | 0, s, x, _, _, _, _ => (s, x)
  | fuel + 1, s, x, seg, top, rank, v =>
    let gs := rankGroups (s.runMembers x)
    let me := s.runRank x
    let slots := x.slots.map (fun sl => if sl.seg = seg && sl.top = top then { sl with inputs := sl.inputs ++ [(rank, v)] } else sl)
    match slots.find? (fun sl => sl.seg = seg && sl.top = top) with
    | none => (s, x)
    | some sl =>
      let x1 := { x with slots := slots }
      if sl.inputs.length < sl.ranks.length then (s, x1)
      else
        let r := if x.algo = 1 then foldDirect x gs sl else s.foldSlot x (x.jade || x.algo = 5) me sl
        let x2 := { x1 with slots := slots.map (fun q => if q.seg = seg && q.top = top then { q with result := some r } else q) }
        let s1 := s.countSegment x2 gs sl
        if x.algo = 1 || top || gs.length < 2 then (s1, setResult x2 seg r)
        else if me = aggregator (gs.headD []) seg then feedSlot fuel s1 x2 seg true me r
        else (s1, x2)

/-! ## Granting and sending, R339, R348 -/

/-- The ranks that a slot combining in the fixed order still waits for or holds back, from the next one to combine on. The own
contribution needs no grant. -/
def awaitedInputs (me : Nat) (sl : Slot) : List Nat :=
  (sl.ranks.filter (fun r => r ≠ me)).dropWhile (fun r => sl.inputs.any (fun i => i.1 = r))

/-- Inputs that have come ahead of the next one to combine. -/
def heldInputs (me : Nat) (sl : Slot) : Nat :=
  ((awaitedInputs me sl).filter (fun r => sl.inputs.any (fun i => i.1 = r))).length

/-- Whether a receiver may grant the next expected transfer: a free endpoint buffer, or a free slot of its lease. -/
def mayGrant (s : Chip) (x : CollRun) (i : CollIn) : Bool :=
  if i.kind = 1 || i.kind = 2 then
    if x.algo = 5 then
      decide ((x.opened.filter (fun o => o.kind = 1 || o.kind = 2)).length + (x.slots.map (heldInputs (s.runRank x))).sum < 2)
    else if x.algo = 4 then
      let g := ((rankGroups (s.runMembers x)).find? (fun g => g.contains (s.runRank x))).getD []
      let before := i.seg - 4 * g.length
      (decide (i.seg < 4 * g.length) || x.slots.all (fun sl => sl.seg ≠ before || sl.result.isSome))
        && (!x.jade || x.slots.all (fun sl => sl.seg ≠ i.seg || sl.top ≠ (i.kind = 2) || decide (((awaitedInputs (s.runRank x) sl).idxOf i.src) < 8)))
    else decide (x.opened.length < 48)
  else if i.kind = 3 then decide ((x.opened.filter (fun o => o.kind = 3)).length < 12)
  else decide (x.opened.length < 48)

/-- Grant what can be granted, in order. -/
def grantColl : Nat → Chip → CollRun → Chip × CollRun
  | 0, s, x => (s, x)
  | fuel + 1, s, x =>
    match x.incoming.find? (s.mayGrant x) with
    | none => (s, x)
    | some i =>
      let x1 := { x with incoming := x.incoming.erase i, opened := x.opened ++ [i] }
      let dest := (s.runMembers x).getD i.src 0
      grantColl fuel (s.sendColl 0x25 dest (s.collMsg x1 dest i.seg 0 false [])) x1

/-- The data of an outgoing transfer, where it is ready. -/
def outData (x : CollRun) (o : CollOut) : Option (List Byte) :=
  let dt := x.cmd.dtype.toNat
  let red := x.cmd.ctype = 1 || x.cmd.ctype = 2
  let part := (x.cur.drop o.lo).take (o.hi - o.lo)
  let asElem (l : List Nat) : List Byte := l.flatMap (fun c => leBytes (collBytesOf dt) (narrow dt c))
  match o.kind with
  | 0 =>
    if !o.after.all (fun a => x.applied.contains a) then none
    else if !red then some (part.map (BitVec.ofNat 8))
    else if o.add then some (part.flatMap (fun c => leBytes (accBytesOf dt) c))
    else some (asElem part)
  | 1 => some (asElem part)
  | 2 => (x.slots.find? (fun sl => sl.seg = o.seg && !sl.top)).bind (fun sl =>
      sl.result.map (fun r => r.flatMap (fun c => leBytes (accBytesOf dt) c)))
  | _ => (x.results.find? (fun r => r.1 = o.seg)).map (fun r => asElem r.2)

/-- Send what is granted and ready. -/
def sendReady : Nat → Chip → CollRun → Chip × CollRun
  | 0, s, x => (s, x)
  | fuel + 1, s, x =>
    let ms := s.runMembers x
    match x.outgoing.find? (fun o => x.allowed.contains (o.seg, ms.getD o.dst 0) && (outData x o).isSome) with
    | none => (s, x)
    | some o =>
      let d := (outData x o).getD []
      let dest := ms.getD o.dst 0
      let x1 := { x with outgoing := x.outgoing.erase o, allowed := x.allowed.erase (o.seg, dest), sent := x.sent + d.length }
      let last := o.kind = 3 && !x1.outgoing.any (fun p => p.kind = 3 && p.dst = o.dst)
      sendReady fuel (s.sendColl (if o.kind = 3 then 0x27 else 0x26) dest (s.collMsg x1 dest o.seg 0 last d)) x1

/-- Everything of a member's share is done. -/
def collDone (x : CollRun) : Bool :=
  x.going && x.incoming.isEmpty && x.opened.isEmpty && x.outgoing.isEmpty && x.slots.all (fun sl => sl.result.isSome)

/-- Grant, send, and complete when done. A frozen job stops here (R353). -/
def driveColl (s : Chip) (x : CollRun) : Chip :=
  if s.jobState x.slot = 5 then s.putRun x
  else
    let g := grantColl (x.incoming.length + 1) s x
    let t := sendReady (g.2.outgoing.length + 1) g.1 g.2
    if collDone t.2 then beginNext 8 ((t.1.putRun t.2).endColl t.2 0) x.jobId x.comm
    else t.1.putRun t.2

/-! ## ALLGATHER arrivals, R351 -/

/-- Bytes of a piece that have been written. -/
def countPieces (s : Chip) (x : CollRun) : Chip × CollRun :=
  let n := (s.runMembers x).length
  let q := s.runRank x
  let full := vectorBytes x.cmd.dtype.toNat x.cmd.count.toNat
  let whole (i : Nat) : Bool := x.pieces.getD ((q + i) % n) 0 = full
  let now := ((List.range n).takeWhile whole).length
  let u := s.collectiveUnit (x.comm % 2)
  let s1 := if x.counted < now && namesObj x.cmd.arrivalObj.toNat then
      (List.range (now - x.counted)).foldl (fun (t : Chip) _ => t.postFor x.slot (objOfRef x.cmd.arrivalObj.toNat) 1 u) s
    else s
  (s1, { x with counted := now })

/-- Bytes [lo, hi) of an ALLGATHER reach DST. -/
def writePiece (s : Chip) (x : CollRun) (lo : Nat) (bs : List Byte) : Chip × CollRun :=
  let full := vectorBytes x.cmd.dtype.toNat x.cmd.count.toNat
  let w := s.store (s.collectiveUnit (x.comm % 2)) (addrOff x.cmd.dst.toNat + lo) bs
  let x1 := { x with code := Code.first x.code w.1, pieces := x.pieces.modify (lo / max full 1) (· + bs.length) }
  w.2.countPieces x1

/-! ## The start of an algorithm -/

/-- GO: read SRC, lay out the member's share, and start (R337, R341 to R348). -/
def startColl (s : Chip) (x0 : CollRun) : Chip :=
  let ms := s.runMembers x0
  let gs := rankGroups ms
  let me := s.runRank x0
  let dt := x0.cmd.dtype.toNat
  let ct := x0.cmd.ctype.toNat
  let count := x0.cmd.count.toNat
  let red := ct = 1 || ct = 2
  let n := if red then count * collBytesOf dt else vectorBytes dt count
  let b := if ct = 4 && x0.cmd.root.toNat ≠ me then (List.replicate n 0, 0) else s.load (addrOff x0.cmd.src.toNat) n
  if b.2 ≠ 0 then s.abortColl x0 b.2 true
  else
    let cur := if red then (splitCodes (collBytesOf dt) count b.1).map (widen dt)
      else if ct = 3 then List.replicate (me * n) 0 ++ b.1.map (·.toNat) ++ List.replicate ((ms.length - 1 - me) * n) 0
      else b.1.map (·.toNat)
    let x : CollRun := { x0 with going := true, jade := s.jade, cur := cur, pieces := List.replicate ms.length 0 }
    let own (r : Nat × Nat) : List Nat := (cur.drop r.1).take (r.2 - r.1)
    let direct3 := (List.range ms.length).flatMap (fun a => ((List.range ms.length).filter (fun b => b ≠ a)).map (fun b =>
      (⟨a, b, a * n, (a + 1) * n, false⟩ : Step)))
    let plan : Option (List Step) :=
      match ct, x.algo with
      | 3, 1 => some direct3
      | 3, a => some (gatherPlan (a = 3) gs n)
      | 4, _ => some (broadcastPlan gs x.cmd.root.toNat n)
      | _, 2 => some (ringPlan false gs (collBytesOf dt) (accBytesOf dt) count)
      | _, 3 => some (ringPlan true gs (collBytesOf dt) (accBytesOf dt) count)
      | _, _ => none
    match plan with
    | some p =>
      let sh := shareSteps me p
      let x1 := { x with incoming := sh.1, outgoing := sh.2 }
      if ct = 3 then let w := s.writePiece x1 (me * n) b.1; w.1.driveColl w.2 else s.driveColl x1
    | none =>
      if x.algo = 1 then
        let sh := shareDirect me ms.length count
        let x1 := { x with incoming := sh.1, outgoing := sh.2
                           slots := [{ seg := 0, top := false, ranks := List.range ms.length }] }
        let f := feedSlot 4 s x1 0 false me cur
        f.1.driveColl f.2
      else
        let segs : List (List CollIn × List CollOut × List Slot) :=
          (List.range (segCount dt count)).map (shareSegment me gs dt count)
        let x1 : CollRun := { x with
          incoming := segs.flatMap (fun (p : List CollIn × List CollOut × List Slot) => p.1),
          outgoing := segs.flatMap (fun (p : List CollIn × List CollOut × List Slot) => p.2.1),
          slots := segs.flatMap (fun (p : List CollIn × List CollOut × List Slot) => p.2.2) }
        let f := (x1.slots.filter (fun (sl : Slot) => !sl.top)).foldl (fun (t : Chip × CollRun) sl =>
          feedSlot 4 t.1 t.2 sl.seg false me (own (segRange dt count sl.seg))) (s, x1)
        f.1.driveColl f.2

/-! ## The leader, R337, R340, R347 -/

/-- Send GO to every member. -/
def sendGo (s : Chip) (x : CollRun) (algo status : Nat) : Chip :=
  (s.runMembers x).foldl (fun (t : Chip) m =>
    t.sendColl 0x21 m { t.collMsg x m 0 status false [] with algo := BitVec.ofNat 8 algo }) s

/-- The algorithm of a reduction that takes no lease. -/
def fallbackAlgo (s : Chip) (x : CollRun) : Nat :=
  if s.jade then 5 else if groupsEqual (rankGroups (s.runMembers x)) then 2 else 3

/-- FP64 SUM in the switch needs feature bit 3, and CAPS bit 0 of every aggregator (R346). -/
def switchAble (s : Chip) (x : CollRun) : Bool :=
  let dt := x.cmd.dtype.toNat
  let ms := s.runMembers x
  s.reg 0x4040 1 = 1 &&
    (!(dt = 1 && x.cmd.rop = 1) ||
      (bit (((s.job x.slot).map (fun j => j.res.features.toNat)).getD 0) 3
        && (aggDies (rankGroups ms) dt x.cmd.count.toNat).all (fun a =>
          let n := ms.getD a.1 0
          n = s.node || bit (s.nodeCaps n) 0)))

/-- The leader holds every START: choose the algorithm, or ask for the leases. -/
def decideColl (s : Chip) (x : CollRun) : Chip :=
  let ms := s.runMembers x
  let gs := rankGroups ms
  let ct := x.cmd.ctype.toNat
  let dt := x.cmd.dtype.toNat
  let count := x.cmd.count.toNat
  let size := if ct = 1 || ct = 2 then count * collBytesOf dt else vectorBytes dt count
  let small := decide (size ≤ s.reg 0x4040 2) && decide (ms.length ≤ 48)
  if ct = 5 then s.sendGo x 0 0
  else if ct = 4 then s.sendGo x 1 0
  else if ct = 3 then
    s.sendGo x (if s.g3 then 3 else if small then 1 else if groupsEqual gs then 2 else 3) 0
  else if s.g3 then s.sendGo x 3 0
  else if small then s.sendGo x 1 0
  else if s.switchAble x then
    let dies := aggDies gs dt count
    let x1 := { x with leasing := dies }
    dies.foldl (fun (t : Chip) d =>
      let dest := ms.getD d.1 0
      t.sendColl 0x22 dest { t.collMsg x1 dest d.2 0 false [] with
        tokens := if s.jade then 2 * min (dieInputs gs d.1) 8 else 2 }) (s.putRun x1)
  else s.sendGo x (s.fallbackAlgo x) 0

/-- Whether a lease of the message's collective was revoked here. -/
def revokedMsg (s : Chip) (m : CollMsg) : Bool := s.fab.revoked.contains (m.jobId.toNat, m.comm.toNat, m.seq.toNat)

/-- A message for a revoked lease is answered with ABORT, and every member of the collective completes (R350). -/
def answerRevoked (s : Chip) (m : CollMsg) : Chip :=
  match s.findRun m.jobId m.comm.toNat m.seq.toNat with
  | some x => s.abortColl x Code.slotUnavailable true
  | none => s.sendColl 0x28 m.srcNode.toNat { m with
      mflags := 0, dest := m.srcNode, srcNode := BitVec.ofNat 16 s.node
      status := BitVec.ofNat 16 Code.slotUnavailable, tokens := 0, data := [] }

/-- Whether two STARTs agree. -/
def startsAgree (a b : StartMsg) : Bool :=
  a.ctype = b.ctype && a.rop = b.rop && a.dtype = b.dtype && a.count = b.count && a.root = b.root

/-- START at the leader. -/
def onStart (s : Chip) (m : CollMsg) : Chip :=
  let st : StartMsg := ⟨m.jobId, m.comm.toNat, m.seq.toNat, m.srcNode.toNat, m.ctype.toNat, m.rop.toNat, m.dtype.toNat,
    m.count.toNat, m.root.toNat⟩
  let same (q : StartMsg) : Bool := q.jobId = st.jobId && q.comm = st.comm && q.seq = st.seq
  if s.fab.starts.any (fun q => same q && q.node = st.node) then s
  else
    let s1 := s.setFab (fun f => { f with starts := f.starts ++ [st] })
    match s1.findRun st.jobId st.comm st.seq with
    | none => s1
    | some x =>
      let all := s1.fab.starts.filter same
      if x.begun && (s1.runMembers x).all (fun n => all.any (fun q => q.node = n)) then
        if all.all (fun q => startsAgree q st) then s1.decideColl x else s1.sendGo x 0 Code.shapeMismatch
      else s1

/-- GO at a member. -/
def onGo (s : Chip) (m : CollMsg) : Chip :=
  match s.findRun m.jobId m.comm.toNat m.seq.toNat with
  | none => s
  | some x =>
    if x.going || !x.begun then s
    else
      let x1 := { x with algo := m.algo.toNat }
      if m.status ≠ 0 then
        beginNext 8 (s.endColl { x1 with algo := 0 } (Code.received (Config.freeChoice s.free 60) m.status.toNat)) x.jobId x.comm
      else if x.cmd.ctype = 5 then beginNext 8 (s.endColl x1 0) x.jobId x.comm
      else (s.putRun x1).startColl x1

/-- LEASE at a die: granted or refused at once (R347). -/
def onLease (s : Chip) (m : CollMsg) : Chip :=
  let r := m.segment.toNat % 2
  let free := s.reg 0x4040 (4 + r)
  let reply (t : Chip) (status : Nat) : Chip :=
    t.sendColl 0x23 m.srcNode.toNat { m with
      dest := m.srcNode, srcNode := BitVec.ofNat 16 t.node, status := BitVec.ofNat 16 status, data := [] }
  if s.fab.leases.any (fun l => l.ridge = r && l.jobId = m.jobId && l.comm = m.comm.toNat && l.seq = m.seq.toNat) then s
  else if m.tokens ≤ free then
    let l : Lease := ⟨r, m.jobId, m.comm.toNat, m.seq.toNat, m.tokens, m.srcNode.toNat⟩
    reply (((s.setReg 0x4040 (4 + r) (free - m.tokens)).setFab (fun f => { f with leases := f.leases ++ [l] })).bump
      0x80F0 (r + 1) 1) 0
  else reply (s.bump 0x80F1 (r + 1) 1) Code.slotUnavailable

/-- LEASE_REPLY at the leader: on the last one it starts the switch, or releases and falls back (R347). -/
def onLeaseReply (s : Chip) (m : CollMsg) : Chip :=
  match s.findRun m.jobId m.comm.toNat m.seq.toNat with
  | none => s
  | some x =>
    let ms := s.runMembers x
    let d := (rankOf ms m.srcNode.toNat, m.segment.toNat)
    if !x.leasing.contains d then s
    else
      let ok := m.status = 0
      let x1 := { x with leasing := x.leasing.erase d, leased := if ok then x.leased ++ [d] else x.leased
                         refused := x.refused || !ok }
      let s1 := if !ok && fpSum x.cmd.rop.toNat x.cmd.dtype.toNat && !s.jade then s.countNd 6 x.slot 1 else s
      if !x1.leasing.isEmpty then s1.putRun x1
      else if x1.refused then
        let s2 := x1.leased.foldl (fun (t : Chip) g =>
          let dest := ms.getD g.1 0
          t.sendColl 0x24 dest (t.collMsg x1 dest g.2 0 false [])) (s1.putRun { x1 with leased := [] })
        s2.sendGo x1 (s2.fallbackAlgo x1) 0
      else (s1.putRun x1).sendGo x1 4 0

/-- RELEASE at a die. -/
def onRelease (s : Chip) (m : CollMsg) : Chip :=
  s.returnLeases (fun l => l.ridge = m.segment.toNat % 2 && l.jobId = m.jobId && l.comm = m.comm.toNat && l.seq = m.seq.toNat)

/-- GRANT at a sender. -/
def onGrant (s : Chip) (m : CollMsg) : Chip :=
  match s.findRun m.jobId m.comm.toNat m.seq.toNat with
  | none => s
  | some x =>
    let k := (0x25, m.segment.toNat, m.srcNode.toNat)
    if x.keys.contains k then s
    else s.driveColl { x with keys := x.keys ++ [k], allowed := x.allowed ++ [(m.segment.toNat, m.srcNode.toNat)] }

/-- DATA or RESULT at its receiver, which has granted it (R339, R344, R348). -/
def onData (s : Chip) (mtype : Nat) (m : CollMsg) : Chip :=
  match s.findRun m.jobId m.comm.toNat m.seq.toNat with
  | none => s
  | some x =>
      let k := (mtype, m.segment.toNat, m.srcNode.toNat)
      let rank := rankOf (s.runMembers x) m.srcNode.toNat
      let dt := x.cmd.dtype.toNat
      match x.opened.find? (fun i => i.seg = m.segment.toNat && i.src = rank && (if mtype = 0x27 then i.kind = 3 else i.kind ≠ 3)) with
      | none => s
      | some i =>
        if x.keys.contains k then s
        else
          let x1 := { x with keys := x.keys ++ [k], opened := x.opened.erase i }
          let n := i.hi - i.lo
          let red := x.cmd.ctype = 1 || x.cmd.ctype = 2
          let elems := (splitCodes (collBytesOf dt) n m.data).map (widen dt)
          let accs := splitCodes (accBytesOf dt) n m.data
          let splice (v : List Nat) : List Nat := x1.cur.take i.lo ++ v ++ x1.cur.drop i.hi
          match i.kind with
          | 0 =>
            let x2 := { x1 with applied := x1.applied ++ [i.seg] }
            if !red then
              let x3 := { x2 with cur := splice (m.data.map (·.toNat)) }
              if x.cmd.ctype = 3 then let w := s.writePiece x3 i.lo m.data; w.1.driveColl w.2 else s.driveColl x3
            else if i.add then
              (s.bump 0x80F4 (x.comm % 2 + 1) m.data.length).driveColl
                { x2 with cur := splice (zipOp x.cmd.rop.toNat dt accs ((x1.cur.drop i.lo).take n)) }
            else s.driveColl { x2 with cur := splice elems }
          | 1 => let f := feedSlot 4 s x1 i.seg false rank elems; f.1.driveColl f.2
          | 2 => let f := feedSlot 4 s x1 i.seg true rank accs; f.1.driveColl f.2
          | _ => s.driveColl (setResult x1 i.seg elems)

/-- ABORT at a member. -/
def onAbort (s : Chip) (m : CollMsg) : Chip :=
  match s.findRun m.jobId m.comm.toNat m.seq.toNat with
  | some x => s.abortColl x (Code.received (Config.freeChoice s.free 60) m.status.toNat) false
  | none => s

/-- Handle one collective message. -/
def onColl (s : Chip) (mtype : Nat) (m : CollMsg) : Chip :=
  if s.revokedMsg m && (mtype = 0x25 || mtype = 0x26 || mtype = 0x27 || (mtype = 0x21 && m.algo = 4)) then s.answerRevoked m
  else match mtype with
  | 0x20 => s.onStart m
  | 0x21 => s.onGo m
  | 0x22 => s.onLease m
  | 0x23 => s.onLeaseReply m
  | 0x24 => s.onRelease m
  | 0x25 => s.onGrant m
  | 0x26 => s.onData 0x26 m
  | 0x27 => s.onData 0x27 m
  | _ => s.onAbort m

/-- Handle the package's messages to itself. -/
def drainInbox : Nat → Chip → Chip
  | 0, s => s
  | fuel + 1, s =>
    match s.fab.inbox with
    | [] => s
    | q :: t => drainInbox fuel ((s.setFab (fun f => { f with inbox := t })).onColl q.1 q.2)

/-- The collectives of a job go on when it is no longer frozen (R353). -/
def driveJob (s : Chip) (jobId : U64) : Chip :=
  drainInbox 1000000 ((s.fab.colls.filter (fun x => x.jobId = jobId && x.going)).foldl (fun (t : Chip) x => t.driveColl x) s)

/-- An arriving collective message: on to its destination, or handled here. -/
def arriveColl (s : Chip) (a : Arrival) (mtype : Nat) (m : CollMsg) : Chip :=
  if !s.laneOpen 2 then s
  else if m.dest.toNat = s.node then drainInbox 1000000 (s.onColl mtype m)
  else (s.route 2 (a.hop.val + 1) m.srcNode.toNat m.dest.toNat (some a.port.val) false (.coll mtype m)).getD s

/-- LEASE_IDLE: revoke a lease (R350). -/
def revokeLease (s : Chip) (r : Nat) (jobId : U64) (comm seq : Nat) : Chip :=
  let hit (l : Lease) : Bool := l.ridge = r && l.jobId = jobId && l.comm = comm && l.seq = seq
  if s.fab.leases.any hit then
    let s1 := (s.returnLeases hit).bump 0x80F2 (r + 1) 1
    (s1.setFab (fun f => { f with revoked := f.revoked ++ [(jobId.toNat, comm, seq)] })).addLog Code.slotUnavailable
      (s.slotOfJobId jobId) 0 (s.collectiveUnit r) []
  else s

/-! ## COLL, R334 and R335 -/

/-- Row 1 of R335. -/
def collFieldsOk (c : Nat) (cm : Option Comm) (x : CollCmd) : Bool :=
  let ct := x.ctype.toNat
  let red := ct = 1 || ct = 2
  let p := (cm.map (fun m => m.members.length)).getD 1
  let dt := x.dtype.toNat
  let piece := if red then x.count.toNat * collBytesOf dt else vectorBytes dt x.count.toNat
  let srcN := piece
  let dstN := match ct with | 2 => piece / max p 1 | 3 => p * piece | _ => piece
  let apart := rangesMeet (x.src.toNat, srcN) (x.dst.toNat, dstN)
  cm.isSome && ((cm.map (fun m => decide (m.issuing = c))).getD false)
  && decide (1 ≤ ct) && decide (ct ≤ 5) && x.reserved = 0 && x.reservedMid = 0 && x.reservedTail = 0
  && (if red then decide (1 ≤ x.rop.toNat) && decide (x.rop.toNat ≤ 6)
        && (dt = 0x01 || dt = 0x02 || dt = 0x03 || dt = 0x07) && (decide (x.rop.toNat ≤ 3) || dt = 0x07)
      else x.rop = 0)
  && (if ct = 5 then x.dtype = 0 && x.count = 0 else red || Fmt.valid dt)
  && (ct ≠ 2 || x.count.toNat % max p 1 = 0)
  && (x.signalObj = 0xFFFF || refOk x.signalObj.toNat)
  && (if ct = 3 then x.arrivalObj = 0xFFFF || refOk x.arrivalObj.toNat else x.arrivalObj = 0xFFFF)
  && (if ct = 4 then decide (x.root.toNat < p) else x.root = 0) && x.completionAddr.toNat % 32 = 0
  && (ct = 5 || !apart || (ct = 1 && x.src = x.dst))

/-- The checks of R335 in order. -/
def collCode (s : Chip) (c : Nat) (cm : Option Comm) (x : CollCmd) : Nat :=
  let slot := s.slotOfCore c
  let held (r : U16) : Bool := r = 0xFFFF || (s.obj (objOfRef r.toNat)).owner.toNat = slot
  Code.firstOf
    [Code.need (collFieldsOk c cm x) Code.outOfRange,
     Code.firstOf ((collRanges ((cm.map (fun m => m.members.length)).getD 1) x).map (fun r => s.checkRange slot r.1 r.2 true)),
     Code.need (held x.signalObj && held x.arrivalObj) Code.accessDenied,
     Code.need (((cm.map (·.members)).getD []).all s.reachable) Code.peerUnreachable]

/-- COLL at the head of a CP stream; `none` while four collectives of the communicator are uncompleted. -/
def headColl (s : Chip) (c : CoreId) (t : EntryTag) (x : CollCmd) : Option Chip :=
  let ix := (s.stream c 3).count
  let slot := s.slotOfCore c
  let comm := x.comm.toNat
  let cm := (s.job slot).bind (fun j => j.comms.find? (fun m => m.comm = comm))
  let jobId := ((s.job slot).map (·.jobId)).getD 0
  let stop := s.coreStop c
  let code := if stop ≠ 0 then stop
    else Code.first (Code.need (tagOk t 1 4) Code.outOfRange) (s.collCode c cm x)
  let s1 := s.atHead c 3
  if code ≠ 0 then
    let bad := s.firstBad (fun a => s.checkRange slot a 1 true) code (collRanges ((cm.map (fun m => m.members.length)).getD 1) x)
    let s2 := s1.recordFault c 3 code ix bad
    some (if namesObj x.signalObj.toNat then s2.post (objOfRef x.signalObj.toNat) 1 (s2.streamUnit c 3) else s2)
  else if 4 ≤ (s.fab.colls.filter (fun r => r.jobId = jobId && r.comm = comm)).length then none
  else
    let k := 256 * slot + comm
    let seq := SMap.get 0 s1.fab.collSeq k
    let r : CollRun := { jobId := jobId, slot := slot, comm := comm, seq := seq, cmd := x, core := c, index := ix }
    let s2 := s1.setFab (fun f => { f with colls := f.colls ++ [r], collSeq := SMap.set 0 f.collSeq k (seq + 1) })
    some (drainInbox 1000000 (beginNext 8 s2 jobId comm))

/-- Collectives with an unreachable member end on this package, and the reachable members hear of it (R353). -/
def abortLost (s : Chip) : Chip :=
  (s.fab.colls.filter (fun x => x.begun && !(s.runMembers x).all s.reachable)).foldl (fun (t : Chip) x =>
    t.abortColl x Code.peerUnreachable true) s

end Chip

end Sys2Proof.Machine
end

