-- ==== Sys2Proof/Machine/Sync.lean ====
section
/-! DEFINITION. Synchronisation objects and the stream operations WAIT, SIGNAL and FENCE (spec/09_synchronisation.md R244 to
R270). -/

namespace Sys2Proof.Machine

/-- Bits of SFLAGS: EXPIRY_EN and EXPIRY_ACTION (R248). -/
def expiryEn (x : SyncOp) : Bool := bit x.sflags.toNat 0
def expiryGoesOn (x : SyncOp) : Bool := bit x.sflags.toNat 1

/-- The table of R248, by SOP. -/
def syncOk (sop : Nat) (x : SyncOp) : Bool :=
  let n := x.operand.toNat
  decide (x.sflags.toNat < 4) && x.reserved = 0 && x.reservedTail = 0 &&
  (if sop = 1 then refOk x.obj.toNat && x.node = 0xFFFF && x.fenceScope = 0 && (expiryEn x = (x.expiry ≠ 0))
   else if sop = 2 then refOk x.obj.toNat && (x.node = 0xFFFF || decide (x.node.toNat < 16384)) && x.fenceScope = 0
     && decide (1 ≤ n) && decide (n ≤ 65535) && x.expiry = 0
   else x.obj = 0 && x.node = 0xFFFF && decide (1 ≤ x.fenceScope.toNat) && decide (x.fenceScope.toNat ≤ 3) && x.operand = 0
     && x.expiry = 0)

/-- The address of an object's SIGNAL_ADD field at a node, R28 and R245. -/
def signalAddr (node o : Nat) : Nat := 2 ^ 63 + node * 2 ^ 48 + 0x020000000000 + 64 * o + 8

namespace Chip

/-! ## Stream operations -/

/-- The code with which a unit command or operation of a stream ends because its unit drains or is disabled. -/
def syncStop (s : Chip) (c : Nat) : Nat := s.coreStop c

/-- Commands of a stream that have issued and not completed. -/
def streamBusy (s : Chip) (c st : Nat) : Bool :=
  if st < 2 then
    let a := s.array c st
    a.wload.isSome || !a.streams.isEmpty || a.drain.isSome
  else if st = 2 then !(s.ve c).isEmpty
  else
    s.fab.requests.any (fun r => match r.owner with
      | .command d _ _ _ => d.val = c && (r.msg.mtype = 1 || fetches r.msg)
      | _ => false)

/-- The earlier writes of a stream are visible to the core and the cluster's engines: its commands have completed and none
of its writes waits at a guard (R258, R259). -/
def streamQuiet (s : Chip) (c st : Nat) : Bool := !s.streamBusy c st && !s.stalledBy (s.streamUnit c st)

/-- A WAIT at the head of a stream sends its registration, R251. -/
def headWait (s : Chip) (c : CoreId) (st : StreamIx) (t : EntryTag) (x : SyncOp) : Option Chip :=
  let ix := (s.stream c st).count
  let code := if s.syncStop c ≠ 0 then s.syncStop c else Code.need (tagOk t 2 2 && syncOk 1 x) Code.outOfRange
  let s1 := s.atHead c st
  if code ≠ 0 then some (s1.record c st code ix)
  else
    let r : Registration :=
      ⟨.stream c st, objOfRef x.obj.toNat, BitVec.ofNat 32 (s.streamUnit c st), x.operand, x.sflags.toNat, x.expiry⟩
    some { s1.updStream c st (fun y => { y with waiting := some x, syncIndex := ix }) with
      registrations := s1.registrations ++ [r] }

/-- The checks of R249 and R310 on a SIGNAL to another node. -/
def signalCode (s : Chip) (c node : Nat) : Nat :=
  let features := ((s.job (s.slotOfCore c)).map (fun j => j.res.features.toNat)).getD 0
  Code.first (Code.need (!(isPackage node && !sameGroup s.node node && !bit features 5)) Code.accessDenied)
    (Code.need (s.reachable node) Code.peerUnreachable)

/-- An evaluation of the step before the controller's is due and has not been judged (R176). -/
def evalDue (t : Training) (c : Controller) : Bool :=
  t.evalInterval ≠ 0 && c.step ≠ 0 && c.step % t.evalInterval = 0 && c.evaluated ≠ c.step

/-- A training job of the slot runs. -/
def trains (s : Chip) (j : Nat) : Bool := s.jobState j = 3 || s.jobState j = 4 || s.jobState j = 6

/-- A service copy of Burist with a purpose runs or waits for slot j. -/
def serviceRuns (s : Chip) (j purpose : Nat) : Bool :=
  s.engines.any (fun e => (e.2.service ++ e.2.waiting).any (fun r => r.slot = j && r.purpose = purpose))

/-- The update pass of a training job may not yet signal STEP_OBJECT: an evaluation has not been judged, or the copies that publish
its weights run (R162, R176). -/
def stepHeld (s : Chip) (j o : Nat) : Bool :=
  match s.job j with
  | some x =>
    match x.training, x.controller with
    | some t, some c => decide (t.stepObj = o) && s.trains j && (evalDue t c || s.serviceRuns j 6)
    | _, _ => false
  | none => false

/-- A SIGNAL at the head of a stream: its signal goes to the home, or, once the stream's earlier writes are visible, to the target
node (R258). -/
def headSignal (s : Chip) (c : CoreId) (st : StreamIx) (t : EntryTag) (x : SyncOp) : Option Chip :=
  let ix := (s.stream c st).count
  let u := s.streamUnit c st
  let code := Code.need (tagOk t 2 2 && syncOk 2 x) Code.outOfRange
  let stop := s.syncStop c
  let node := if x.node = 0xFFFF then s.node else x.node.toNat
  let o := objOfRef x.obj.toNat
  let s1 := s.atHead c st
  if code ≠ 0 then some (s1.record c st (Code.first stop code) ix)
  else if node = s.node then
    if stop ≠ 0 then some ((s1.record c st stop ix).post o x.operand.toNat u)
    else if s.stepHeld (s.slotOfCore c) o then none
    else some { s1.updStream c st (fun y => { y with signalling := true, syncIndex := ix }) with
      posted := s1.posted ++ [{ obj := o, amount := x.operand, unit := BitVec.ofNat 32 u, entry := some (c, st) }] }
  else if s.signalCode c node ≠ 0 then some (s1.record c st (Code.first stop (s.signalCode c node)) ix)
  else if !s.remoteRoom u node || !s.streamQuiet c st then none
  else
    let jobId := ((s.job (s.slotOfCore c)).map (·.jobId)).getD 0
    let m := { s1.newMsg 4 node (signalAddr node o) jobId with operand := x.operand }
    let s2 := if stop ≠ 0 then s1.record c st stop ix
      else s1.updStream c st (fun y => { y with signalling := true, syncIndex := ix })
    some (s2.issueRequest u m 0 0 (.signal c st ix))

/-- Close every batch that holds a request of a unit, R326. -/
def closeBatchesOf (s : Chip) (u : Nat) : Chip :=
  (List.range 2).foldl (fun (t : Chip) r =>
    ((t.ridge r).batches.filter (fun b => b.2.any (fun m => m.parts.any (fun p => p.unit.toNat = u)))).foldl
      (fun (t : Chip) b => t.closeBatch r b.1) t) s

/-- A FENCE at the head of a stream; one of scope FABRIC closes the unit's epoch (R328, R329). -/
def headFence (s : Chip) (c : CoreId) (st : StreamIx) (t : EntryTag) (x : SyncOp) : Option Chip :=
  let ix := (s.stream c st).count
  let u := s.streamUnit c st
  let code := if s.syncStop c ≠ 0 then s.syncStop c else Code.need (tagOk t 2 2 && syncOk 3 x) Code.outOfRange
  let s1 := s.atHead c st
  if code ≠ 0 then some (s1.record c st code ix)
  else
    let k := x.fenceScope.toNat
    let i := s1.issuer u
    let s2 := if k = 3 then (s1.setIssuer u { i with epoch := (i.epoch + 1) % 65536, lost := false }).closeBatchesOf u else s1
    some (s2.updStream c st (fun y => { y with
      fencing := some k, fenceIndex := ix, fenceCode := if k = 3 && i.lost then Code.peerUnreachable else 0 }) |> dropLost 64)

/-- FENCE_COMPLETE is due: R259. -/
def fenceDone (s : Chip) (c st k : Nat) : Bool :=
  s.streamQuiet c st && (k ≠ 3 || (s.requestsOf (s.streamUnit c st)).isEmpty)

def completeFence (s : Chip) (c st : Nat) : Chip :=
  match (s.stream c st).fencing with
  | some k =>
    if s.fenceDone c st k then
      let y := s.stream c st
      let s1 := (s.record c st y.fenceCode y.fenceIndex).updStream c st (fun y => { y with fencing := none, fenceCode := 0 })
      if k = 3 then s1.dropLines (c / 4) else s1
    else s
  | none => s

/-! ## The homes, R245, R251, R253 -/

/-- The slot of the job of a unit of this package; 0xFF where the unit is not confined to a job's objects (R247). -/
def slotOfSignaller (s : Chip) (u : Nat) : Nat :=
  if unitNode u ≠ s.node then 0xFF
  else if unitKind u = 1 then s.slotOfCore (unitNumber u / 4)
  else if unitKind u = 2 then s.slotOfSolver (unitNumber u)
  else 0xFF

/-- A job slot holds an object. -/
def slotHolds (s : Chip) (j o : Nat) : Bool :=
  match s.job j with
  | some x => jobHoldsObj x o
  | none => false

/-- Whether a unit may operate on an object, R247. The objects of a solver descriptor belong to the submitting core's job
and are checked when the descriptor is accepted or refused (R182); those of a copy descriptor are checked by `maySignal`. -/
def mayUse (s : Chip) (u o : Nat) : Bool :=
  if unitNode u = s.node && unitKind u = 1 then s.slotHolds (s.slotOfSignaller u) o else true

/-- Whether the home may apply a signal on its way, R247. -/
def maySignal (s : Chip) (p : Posted) : Bool := s.mayUse p.unit.toNat p.obj && (p.slot = 0xFF || s.slotHolds p.slot p.obj)

/-- The wake message for a watch. -/
def wakeOf (o : Nat) (w : Watch) : Registration := ⟨w.waiter, o, w.unit, w.target, w.flags, w.remaining⟩

/-- A SIGNAL_ADD applied at the home of object o: its code and the state after it (R245, R251, R253). -/
def signalAdd (s : Chip) (o amount unit : Nat) : Nat × Chip :=
  let x := s.obj o
  if !s.mayUse unit o then (Code.accessDenied, s)
  else if 2 ^ 64 ≤ x.value.toNat + amount then (Code.outOfRange, s)
  else
    let v := x.value + BitVec.ofNat 64 amount
    let met := x.watches.filter (fun w => decide (w.target.toNat ≤ v.toNat))
    let rest := x.watches.filter (fun w => !decide (w.target.toNat ≤ v.toNat))
    let s1 := s.setObj o { x with value := v, last := BitVec.ofNat 32 unit, count := x.count + 1, watches := rest }
    (0, { s1 with wakes := s1.wakes ++ met.map (wakeOf o) })

/-- The first of a list that satisfies a test, and the list without it. -/
def takeFirst (p : α → Bool) : List α → Option (α × List α)
  | [] => none
  | a :: t => if p a then some (a, t) else (takeFirst p t).map (fun r => (r.1, a :: r.2))

/-- The earlier writes that must be visible before a posted signal is applied: those of its stream for a SIGNAL entry, and of Burist,
the safety monitor or a collective engine the remote ones as acknowledged (R258). -/
def postedReady (s : Chip) (p : Posted) : Bool :=
  !s.stalledBy p.unit.toNat
    && !s.fab.requests.any (fun r => r.unit = p.unit.toNat && p.after.contains (r.dest, r.flow, r.seq))
    && match p.entry with
      | some (c, st) => s.streamQuiet c st
      | none => true

/-- A signal without a stream entry that its home refuses enters the event log, and the status of a core stream or of the job whose
copy sent it (R247, R253). -/
def refusePosted (s : Chip) (p : Posted) (code : Nat) : Chip :=
  let u := p.unit.toNat
  if unitNode u = s.node && unitKind u = 1 then
    s.record (unitNumber u / 4) (unitNumber u % 4) code (s.stream (unitNumber u / 4) (unitNumber u % 4)).count
  else
    let j := if p.slot = 0xFF then s.slotOfSignaller u else p.slot
    (s.noteError j u code).addLog code (if j < 8 then j else 0xFF) 0 u []

/-- SIGNAL_ADD: the home applies a signal on its way. Operations that meet are applied in an order the home chooses. -/
def applyPosted (s : Chip) (o amount unit : Nat) : Chip :=
  match takeFirst (fun p => decide (p.obj = o) && p.amount.toNat = amount && p.unit.toNat = unit && s.postedReady p) s.posted with
  | none => s
  | some (p, rest) =>
    let s0 := { s with posted := rest }
    let r := if s0.maySignal p then s0.signalAdd o amount unit else (Code.accessDenied, s0)
    match p.entry with
    | some (c, st) =>
      (r.2.record c st r.1 (r.2.stream c st).syncIndex).updStream c st (fun y => { y with signalling := false })
    | none => if r.1 = 0 then r.2 else r.2.refusePosted p r.1

/-- WATCH_REGISTRATION: wake at once, add a watch, or refuse (R247, R251). -/
def applyRegistration (s : Chip) (w : Waiter) (o : Nat) (target : U64) : Chip :=
  match takeFirst (fun r => r.waiter = w && r.obj = o && r.target = target) s.registrations with
  | none => s
  | some (r, rest) =>
    let s0 := { s with registrations := rest }
    let x := s.obj o
    if !s.mayUse r.unit.toNat o then
      match w with
      | .stream c st =>
        (s0.record c st Code.accessDenied (s.stream c st).syncIndex).updStream c st (fun y => { y with waiting := none })
      | _ => s0
    else if r.target.toNat ≤ x.value.toNat then { s0 with wakes := s0.wakes ++ [r] }
    else s0.setObj o { x with watches := x.watches ++ [⟨r.waiter, r.unit, r.target, r.flags, r.remaining⟩] }

/-! ## Waiters, R250, R255, R256 -/

/-- A WAIT ends; a core of the cluster that completes a WAIT drops its remote lines (R317). -/
def endWait (s : Chip) (c : CoreId) (st : StreamIx) : Chip :=
  (s.updStream c st (fun y => { y with waiting := none })).dropLines (c.val / 4)

/-- A WAIT completes OK: the step of the stream's draws follows a WAIT on the step object (R376). -/
def wakeStream (s : Chip) (c : CoreId) (st : StreamIx) : Chip :=
  match (s.stream c st).waiting with
  | none => s
  | some x =>
    let o := objOfRef x.obj.toNat
    let step := match s.job (s.slotOfCore c) with
      | some j => decide (jobStepObj j = some o)
      | none => false
    let n := x.operand.toNat
    ((s.endWait c st).updStream c st (fun y =>
      if step && y.step ≠ n then { y with step := n, ordinal := 0 } else y)).bumpSync c 1 1

/-- WAKE: a wake message reaches its waiter. -/
def deliverWake (s : Chip) (w : Waiter) : Chip :=
  match takeFirst (fun r => r.waiter = w) s.wakes with
  | none => s
  | some (r, rest) =>
    let s0 := { s with wakes := rest }
    match w with
    | .stream c st => s0.wakeStream c st
    | .solver k =>
      match s0.solveFront k with
      | some d => if d.phase = .waiting then s0.updSolve k d.ticket (fun d => { d with phase := .ready }) else s0
      | none => s0
    | .burist =>
      match takeFirst (fun b => b.obj = r.obj && b.target = r.target) s0.buristWaits with
      | some (_, l) => { s0 with buristWaits := l }
      | none => s0

/-- WAIT_EXPIRY: the waiter sends a cancel, once; the count stands still while its job is frozen (R255, R265). -/
def expireWait (s : Chip) (w : Waiter) : Chip :=
  match w with
  | .stream c st =>
    match (s.stream c st).waiting with
    | none => s
    | some x =>
      let o := objOfRef x.obj.toNat
      let r : Registration := ⟨w, o, BitVec.ofNat 32 (s.streamUnit c st), x.operand, x.sflags.toNat, x.expiry⟩
      if expiryEn x && s.jobState (s.slotOfCore c) ≠ 5 && !s.cancels.contains r then { s with cancels := s.cancels ++ [r] }
      else s
  | _ => s

/-- A dump of a job's objects starts on its first expiry, where DUMP_ON_EXPIRY is 1 then (R268); one that finds a dump running
follows it. -/
def dumpOnExpiry (s : Chip) (j : Nat) : Chip :=
  if 8 ≤ j || s.dumped.contains j then s
  else
    let s1 := { s with dumped := s.dumped ++ [j] }
    if s.reg 0x8100 3 = 0 then s1
    else match s.dumping with
      | none => { s1 with dumping := some (1, j) }
      | some _ => { s1 with dumpNext := s1.dumpNext ++ [j] }

/-- A WAIT ends with WATCH_EXPIRED: status, event with the object, the value found and the target, and halt or go on
(R256). -/
def expired (s : Chip) (c : CoreId) (st : StreamIx) (x : SyncOp) : Chip :=
  let o := objOfRef x.obj.toNat
  let b := s.obj o
  let j := s.slotOfCore c
  let u := s.streamUnit c st
  let s1 := (s.updStream c st (fun y => { y with status := Code.first y.status Code.watchExpired })).noteError j u Code.watchExpired
  let s2 := s1.addLog Code.watchExpired j 6 u
    (leBytes 2 x.obj.toNat ++ leBytes 8 b.value.toNat ++ leBytes 8 x.operand.toNat ++ leBytes 4 b.last.toNat)
  let s3 := ((s2.endWait c st).bumpSync c 2 1).countNd 0x0A j 1
  let s4 := if expiryGoesOn x then s3
    else
      let t := s3.updStream c st (fun y => { y with halted := true })
      if j < 8 then t.setStatus j 9 (t.reg 0x6001 (16 * j + 9) + 1) else t
  s4.dumpOnExpiry j

/-- CANCEL: the home removes the watch and the wait expires; a cancel that finds no watch is discarded (R253). -/
def applyCancel (s : Chip) (w : Waiter) : Chip :=
  match takeFirst (fun r => r.waiter = w && !s.registrations.any (fun q => q.waiter = w && q.obj = r.obj && q.target = r.target))
      s.cancels with
  | none => s
  | some (r, rest) =>
    let s0 := { s with cancels := rest }
    let x := s0.obj r.obj
    if x.watches.any (fun v => v.waiter = w && v.target = r.target) then
      let s1 := s0.setObj r.obj { x with watches := x.watches.filter (fun v => !(v.waiter = w && v.target = r.target)) }
      match w with
      | .stream c st =>
        match (s1.stream c st).waiting with
        | some op => s1.expired c st op
        | none => s1
      | _ => s1
    else s0

/-- Cancel a stream's WAIT at once, as draining does: the watch goes without a wake (R264). -/
def cancelWait (s : Chip) (c : CoreId) (st : StreamIx) : Chip :=
  match (s.stream c st).waiting with
  | none => s
  | some x =>
    let w : Waiter := .stream c st
    let o := objOfRef x.obj.toNat
    let b := s.obj o
    let s1 := s.setObj o { b with watches := b.watches.filter (fun v => v.waiter ≠ w) }
    let s2 := { s1 with
      registrations := s1.registrations.filter (fun r => r.waiter ≠ w)
      wakes := s1.wakes.filter (fun r => r.waiter ≠ w)
      cancels := s1.cancels.filter (fun r => r.waiter ≠ w) }
    (s2.record c st Code.unitDraining (s2.stream c st).syncIndex).updStream c st (fun y => { y with waiting := none })

/-- Burist registers a wait on an object, R252. -/
def buristWait (s : Chip) (o target : Nat) : Chip :=
  let r : Registration := ⟨.burist, o, BitVec.ofNat 32 s.buristUnit, BitVec.ofNat 64 target, 0, 0⟩
  if s.buristWaits.any (fun b => b.obj = o && b.target = r.target) then s
  else { s with registrations := s.registrations ++ [r], buristWaits := s.buristWaits ++ [r] }

/-- A wait of Burist on an object has been satisfied: the value has been reached and its wake has been delivered. -/
def buristMet (s : Chip) (o target : Nat) : Bool :=
  decide (target ≤ (s.obj o).value.toNat) && !s.buristWaits.any (fun b => b.obj = o && b.target.toNat = target)

/-! ## SET, R266 -/

/-- A stream runs: a command of it is in flight, or it is in a WAIT, FENCE, SIGNAL or CVERIFY, or has entries that neither a halt nor
a stop keeps from issuing. -/
def streamRuns (s : Chip) (c st : Nat) : Bool :=
  let y := s.stream c st
  s.streamBusy c st || (!y.held.isEmpty && !y.stopped && !y.halted) || (y.waiting.isSome && !y.stopped) || y.fencing.isSome
    || y.signalling || y.verify.isSome

/-- Some stream, solver descriptor or copy descriptor of the job in slot j is running. -/
def jobBusy (s : Chip) (j : Nat) : Bool :=
  match s.job j with
  | none => false
  | some x =>
    (jobCores x).any (fun c => (List.range 4).any (s.streamRuns c))
    || s.solvers.any (fun e => e.2.any (fun r => r.slot = j))
    || s.engines.any (fun e => (e.2.job ++ e.2.service ++ e.2.waiting).any (fun r => r.slot = j))

/-- SET by Burist: its code and the state after it. -/
def setObject (s : Chip) (o : Nat) (v : U64) : Nat × Chip :=
  let x := s.obj o
  let j := x.owner.toNat
  if !x.watches.isEmpty || s.jobBusy j then (Code.stateConflict, s)
  else (0, s.setObj o { x with value := v, last := BitVec.ofNat 32 s.buristUnit })

/-! ## Dump, R268 and R269 -/

/-- References of the objects in a dump's scope, ascending. -/
def dumpObjects (s : Chip) (scope : Nat) : List Nat :=
  if scope = 0xFF then List.range 17408
  else (List.range 17408).filter (fun o => (s.obj o).owner.toNat = scope)

def objRecord (o : Nat) (x : Obj) (first : Nat) : List Byte :=
  leBytes 2 (refOfObj o) ++ [x.owner, 0] ++ leBytes 4 x.last.toNat ++ leBytes 8 x.value.toNat ++ leBytes 8 x.count.toNat
    ++ leBytes 2 x.watches.length ++ [0, 0] ++ leBytes 4 (if x.watches.isEmpty then 0xFFFFFFFF else first)

/-- A watch record; the remaining cycles of an expiry are free (timing). -/
def watchRecord (s : Chip) (o n : Nat) (w : Watch) : List Byte :=
  leBytes 4 w.unit.toNat ++ leBytes 2 (refOfObj o)
    ++ leBytes 2 (match w.waiter with | .solver _ => w.flags % 4 + 4 | _ => w.flags % 4) ++ leBytes 8 w.target.toNat
    ++ leBytes 4 (if bit w.flags 0 then (Config.freeRemaining s.free n).toNat else 0) ++ leBytes 4 0

/-- Object records with the index of each object's first watch. -/
def objRecords (s : Chip) : Nat → List Nat → List Byte
  | _, [] => []
  | n, o :: t => objRecord o (s.obj o) n ++ objRecords s (n + (s.obj o).watches.length) t

/-- The bytes of a dump. -/
def dumpBytes (s : Chip) (reason scope : Nat) : List Byte :=
  let os := s.dumpObjects scope
  let ws := os.flatMap (fun o => (s.obj o).watches.map (fun w => (o, w)))
  let id := if scope = 0xFF then 0 else ((s.job scope).map (fun j => j.jobId.toNat)).getD 0
  leBytes 4 0x53594E44 ++ leBytes 1 reason ++ leBytes 1 scope ++ leBytes 2 0 ++ leBytes 4 os.length ++ leBytes 4 ws.length
    ++ leBytes 8 id ++ List.replicate 40 0 ++ s.objRecords 0 os
    ++ (SMap.number 0 ws).flatMap (fun e => s.watchRecord e.2.1 e.1 e.2.2)

/-- One event for an object with a watch, DETAIL_KIND 6. -/
def dumpEvent (s : Chip) (scope o : Nat) : Chip :=
  let x := s.obj o
  s.addLog 0 scope 6 0 (leBytes 2 (refOfObj o) ++ leBytes 8 x.value.toNat
    ++ leBytes 8 ((x.watches.head?.map (fun w => w.target.toNat)).getD 0) ++ leBytes 4 x.last.toNat)

/-- DUMP_COMPLETE: the records stand in HBM, the log and the counters follow, and a dump that waits starts. -/
def completeDump (s : Chip) : Chip :=
  match s.dumping with
  | none => s
  | some (reason, scope) =>
    let bs := s.dumpBytes reason scope
    let s1 := (s.storeRaw (3 * stackBytes + stackBytes - 0x200000) bs).2
    let s2 := s1.addLog 0 scope 0 0 []
    let s3 := ((s.dumpObjects scope).filter (fun o => !(s.obj o).watches.isEmpty)).take 256 |>.foldl (fun (t : Chip) o =>
      t.dumpEvent scope o) s2
    let s4 := (s3.setReg 0x8100 4 (s3.reg 0x8100 4 + 1)).setReg 0x8100 5 bs.length
    match s4.dumpNext with
    | j :: t => { s4 with dumping := some (1, j), dumpNext := t }
    | [] => { s4 with dumping := none }

end Chip

end Sys2Proof.Machine
end

