-- ==== Sys2Proof/Machine/Streams.lean ====
section
/-! DEFINITION. The four streams of a core: entries in order, issue at the head, and what holds a stream
(spec/04_matrix_arrays.md R98, R99; spec/09_synchronisation.md R248 to R264). -/

namespace Sys2Proof.Machine

namespace Chip

/-- What an entry at the head does: whether it has left the stream, and the state after it. An entry that cannot issue yet
changes nothing but the conversion block it holds (R499). -/
def issued (s : Chip) (r : Option Chip) : Bool × Chip :=
  match r with
  | some t => (true, t)
  | none => (false, s)

/-- Issue the entry at the head of its stream. -/
def issue (s : Chip) (i : Instr) : Bool × Chip :=
  match i with
  | .wload c a t x => s.issued (s.headWload c a t x)
  | .stream c a t x => s.issued (s.headStream c a t x)
  | .drain c a t x => s.headDrain c a t x
  | .vld c t x => s.issued (s.headVld c t x)
  | .vst c t x => s.issued (s.headVst c t x)
  | .mov c t x => s.issued (s.headMov c t x)
  | .bcast c t x => s.issued (s.headBcast c t x)
  | .add c t x => s.issued (s.headAdd c t x)
  | .sub c t x => s.issued (s.headSub c t x)
  | .mul c t x => s.issued (s.headMul c t x)
  | .fma c t x => s.issued (s.headFma c t x)
  | .min c t x => s.issued (s.headMin c t x)
  | .max c t x => s.issued (s.headMax c t x)
  | .abs c t x => s.issued (s.headAbs c t x)
  | .neg c t x => s.issued (s.headNeg c t x)
  | .and c t x => s.issued (s.headAnd c t x)
  | .or c t x => s.issued (s.headOr c t x)
  | .xor c t x => s.issued (s.headXor c t x)
  | .shl c t x => s.issued (s.headShl c t x)
  | .shr c t x => s.issued (s.headShr c t x)
  | .rcp c t x => s.issued (s.headRcp c t x)
  | .rsqrt c t x => s.issued (s.headRsqrt c t x)
  | .sqrt c t x => s.issued (s.headSqrt c t x)
  | .exp2 c t x => s.issued (s.headExp2 c t x)
  | .log2 c t x => s.issued (s.headLog2 c t x)
  | .tanh c t x => s.issued (s.headTanh c t x)
  | .sigmoid c t x => s.issued (s.headSigmoid c t x)
  | .silu c t x => s.issued (s.headSilu c t x)
  | .gelu c t x => s.issued (s.headGelu c t x)
  | .cmp c t x => s.issued (s.headCmp c t x)
  | .sel c t x => s.issued (s.headSel c t x)
  | .cmpp c t x => s.issued (s.headCmpp c t x)
  | .pfirst c t x => s.issued (s.headPfirst c t x)
  | .plogic c t x => s.issued (s.headPlogic c t x)
  | .cvt c t x => s.issued (s.headCvt c t x)
  | .cvtb c t x => s.headCvtb c t x
  | .dcvb c t x => s.issued (s.headDcvb c t x)
  | .red c t x => s.issued (s.headRed c t x)
  | .xpose c t x => s.issued (s.headXpose c t x)
  | .tperm c t x => s.issued (s.headTperm c t x)
  | .cmpr c t x => s.issued (s.headCmpr c t x)
  | .expd c t x => s.issued (s.headExpd c t x)
  | .rand c t x => s.issued (s.headRand c t x)
  | .solve c t x => s.issued (s.headSolve c t x)
  | .copy c t x => s.issued (s.headCopy c t x)
  | .prefetch c t x => s.issued (s.headPrefetch c t x)
  | .rload c t x => s.issued (s.headRemote 0x20 c t x)
  | .rstore c t x => s.issued (s.headRemote 0x21 c t x)
  | .ratomic c t x => s.issued (s.headRemote 0x22 c t x)
  | .coll c t x => s.issued (s.headColl c t x)
  | .cverify c t x => s.issued (s.headCverify c t x)
  | .wait c st t x => s.issued (s.headWait c st t x)
  | .signal c st t x => s.issued (s.headSignal c st t x)
  | .fence c st t x => s.issued (s.headFence c st t x)
  | _ => (true, s)

/-- A stream whose head may not be looked at: an operation in progress holds it, it is halted or stopped, or a write of it waits at a
guard, so that later entries see it (R250, R256, R257, R259, R364). A core that is not enabled ends its entries whether or not it is halted or stopped (R433). -/
def streamHeld (s : Chip) (c st : Nat) : Bool :=
  let y := s.stream c st
  y.waiting.isSome || y.fencing.isSome || y.signalling || y.verify.isSome
    || (s.coreState c = 1 && (y.halted || y.stopped || s.stalledBy (s.streamUnit c st)))

/-- Issue entries of a stream from its head while they can. -/
def pumpN : Nat → Chip → Nat → Nat → Chip
  | 0, s, _, _ => s
  | n + 1, s, c, st =>
    if s.streamHeld c st then s
    else match (s.stream c st).held with
      | [] => s
      | i :: _ =>
        let r := s.issue i
        if r.1 then pumpN n (r.2.updStream c st (fun y => { y with held := y.held.drop 1 })) c st else r.2

/-- Issue what a stream can issue. -/
def pump (s : Chip) (c st : Nat) : Chip := pumpN (s.stream c st).held.length s c st

/-- Requests that found no route end (R297), and every stream with entries that wait issues what it can. -/
def pumpAll (s : Chip) : Chip :=
  let t := dropLost 64 s
  (t.streams.filter (fun e => !e.2.held.isEmpty)).foldl (fun (t : Chip) e => t.pump (e.1 / 4) (e.1 % 4)) t

/-- An entry joins its stream (R98). -/
def addEntry (s : Chip) (c st : Nat) (i : Instr) : Chip :=
  (s.updStream c st (fun y => { y with held := y.held ++ [i] })).pump c st

end Chip

end Sys2Proof.Machine
end

