-- ==== Sys2Proof/Machine/Drain.lean ====
section
/-! DEFINITION. Draining of arrays, cores and the other units (spec/04_matrix_arrays.md R118, R501;
spec/05_vector_engine.md R144; spec/16_object_dictionary.md R433, R434). -/

namespace Sys2Proof.Machine

namespace Chip

/-- Nothing of an array is in flight. -/
def arrayIdle (s : Chip) (c a : Nat) : Bool :=
  let x := s.array c a
  x.wload.isNone && x.streams.isEmpty && x.drain.isNone && x.testing.isNone

/-- Planes and accumulator are discarded: they read as after power-on (R103, R118). -/
def discardArray (s : Chip) (c a : Nat) : Chip :=
  s.setArray c a { s.array c a with active := {}, shadow := {}, acc := [], due := false, takeNext := false }

/-- An entry that is an array command (R98). -/
def isArrayCmd : Instr → Bool
  | .wload .. | .stream .. | .drain .. => true
  | _ => false

/-- The end of an array's draining, R118: no command in flight, and none left in its stream. -/
def endArrayDrain (s : Chip) (c : CoreId) (a : ArrId) : Chip :=
  if s.arrayState c a = 2 && s.arrayIdle c a && !(s.stream c a).held.any isArrayCmd then
    (s.discardArray c a).changeUnit (.array c a) 0
  else s

/-- A test of an array in the wide-shallow configuration: its outputs go into the 256-column signature register and not into the
accumulator (R115). -/
def signColumns (s : Chip) (c a : Nat) : Chip := s.setArray c a { s.array c a with columns := s.free }

/-- Column j of an array's signature register. -/
def signatureColumn (s : Chip) (c a j : Nat) : U32 := Config.freeColumn (2 * c + a) (s.array c a).columns j

/-- No stream of a core holds an entry, an operation in progress or a command in flight, and its CP stream has no
uncompleted remote command (R433). -/
def coreEmpty (s : Chip) (c : Nat) : Bool :=
  (List.range 4).all (fun st =>
    let y := s.stream c st
    y.held.isEmpty && y.waiting.isNone && y.fencing.isNone && !y.signalling && y.verify.isNone && !s.streamBusy c st
      && (s.requestsOf (s.streamUnit c st)).isEmpty)
  && s.arrayIdle c 0 && s.arrayIdle c 1

/-- The end of a core's draining: state 0 with both arrays, tile registers and p1 to p15 zeroed (R144, R433). -/
def settleCore (s : Chip) (c : CoreId) : Chip :=
  if s.coreState c = 2 && s.coreEmpty c then
    let s1 := ((s.discardArray c 0).discardArray c 1).changeUnit (.array c 0) 0 |>.changeUnit (.array c 1) 0
    let s2 := { s1 with
      tiles := s1.tiles.filter (fun p => p.1 / 2 ^ 19 ≠ c.val), preds := s1.preds.filter (fun p => p.1 / 16 ≠ c.val) }
    s2.changeUnit (.core c) 0
  else s

/-- Issue what the streams of a core can issue, then see whether its draining has ended. -/
def settle (s : Chip) (c : CoreId) : Chip := ((((s.pump c 0).pump c 1).pump c 2).pump c 3).settleCore c

/-- A unit begins draining, with what its own chapter does at once: entries and descriptors that have not started end with
UNIT_DRAINING. -/
def drainUnit (s : Chip) (u : UnitRef) : Chip :=
  if s.unitState u ≠ 1 then s
  else
    let s1 := s.beginDrain u
    match u with
    | .array c a => (s1.pump c a).settleCore c
    | .core c =>
      ((((s1.cancelWait c 0).cancelWait c 1).cancelWait c 2).cancelWait c 3).settle c
    | .solver k => s1.endUnstarted k
    | .engine e => s1.engineDrain e
    | .channel n => s1.channelDrain n

/-- The end of draining where nothing is left to run: a unit that no job holds passes through state 2 to 0 at once
(R434). -/
def endDrain (s : Chip) (u : UnitRef) : Chip :=
  match u with
  | .array c a => s.endArrayDrain c a
  | .core c => s.settleCore c
  | .solver k => s.solverEnd k
  | .engine e => s.engineDrain e
  | .channel n => s.channelDrain n

/-- A stream entry of core c joins its stream. -/
def enter (s : Chip) (c : CoreId) (st : StreamIx) (i : Instr) : Chip := (s.addEntry c st i).settleCore c

end Chip

end Sys2Proof.Machine
end

