-- ==== Sys2Proof/Machine/ArrayRows.lean ====
section
/-! DEFINITION. Matrix-array commands and their events (spec/04_matrix_arrays.md R94 to R119, spec/18_safety_and_security.md
R471). -/

namespace Sys2Proof.Machine

namespace Chip

/-- What a unit's own parity error leaves of the FP32 lines a STREAM wrote: free values (R119). -/
def spoilLines (s : Chip) (c a : Nat) (lines : List Nat) : Chip :=
  let x := s.array c a
  s.setArray c a { x with acc := lines.foldl (fun (m : SMap U32) l =>
    SMap.setRange 0 m (64 * l) ((List.range 64).map (fun i => (Config.freeCycles s.free (64 * l + i)).setWidth 32))) x.acc }

/-- The same for the shadow plane that a WLOAD filled. -/
def spoilShadow (s : Chip) (c a : Nat) : Chip :=
  let x := s.array c a
  s.setArray c a { x with shadow := { x.shadow with cells := (List.range x.shadow.n).map (fun n =>
    (List.range x.shadow.k).map (fun k =>
      ((Config.freeCycles s.free (256 * n + k)).toNat % 256, (Config.freeCycles s.free (65536 + 256 * n + k)).toNat % 256))) } }

/-- The destination of a DRAIN. -/
def spoilOuts (s : Chip) (unit : Nat) (outs : List (Nat × Nat)) (tile : Option (Nat × Nat)) : Chip :=
  let s1 := outs.foldl (fun (t : Chip) r => t.spoil unit r.1 r.2) s
  match tile with
  | some r => s1.spoilTile r.1 r.2
  | none => s1

/-- A parity error drains the array or, in a tile register, the core (R119, R144). -/
def parityDrain (s : Chip) (c : CoreId) (a : ArrId) (p : ParityObs) : Chip :=
  match p with
  | .clean => s
  | .array => s.drainUnit (.array c a)
  | .tile => s.drainUnit (.core c)

/-- Whether a command's outputs are not valid: by parity (R119, R144), or by a line of its source that was lost (R223). -/
def outputsLost (p : ParityObs) (lost : Option Nat) : Bool := decide (p ≠ .clean) || lost.isSome

/-- The status that a command carries with what parity and ECC found. -/
def foundStatus (status : Nat) (p : ParityObs) (lost : Option Nat) : Nat :=
  if outputsLost p lost then Code.uncorrectable else status

/-- The running WLOAD completes, R99. -/
def wloadDone (s : Chip) (c : CoreId) (a : ArrId) (p : ParityObs) (o : LineObs) : Chip :=
  match (s.array c a).wload with
  | none => s
  | some r =>
    let lost := s.lostLine o
    let s0 := s.found (s.streamUnit c a) o
    let s1 := if outputsLost p lost then s0.spoilShadow c a else s0
    let s2 := (s1.setArray c a { s1.array c a with wload := none }).finishAt c a (foundStatus r.status p lost) r.index r.signalObj
      (lost <|> r.bad)
    (s2.parityDrain c a p).settle c

/-- The oldest running STREAM completes. -/
def streamDone (s : Chip) (c : CoreId) (a : ArrId) (p : ParityObs) (o : LineObs) : Chip :=
  match (s.array c a).streams with
  | [] => s
  | r :: t =>
    let lost := s.lostLine o
    let s0 := s.found (s.streamUnit c a) o
    let s1 := if outputsLost p lost then s0.spoilLines c a r.lines else s0
    let s2 := (s1.setArray c a { s1.array c a with streams := t }).finishAt c a (foundStatus r.status p lost) r.index r.signalObj
      (lost <|> r.bad)
    (s2.parityDrain c a p).settle c

/-- Conversion block and coarse scale at a completion with OK (R88, R89), then the block is free (R499). -/
def endConv (s : Chip) (unit j : Nat) (conv : Option Nat) (coarse : Nat) (amax : FVal) (dst : Option Nat) (status : Nat) :
    Chip :=
  match conv with
  | none => s
  | some b =>
    let s1 := if status = 0 then
        let t := s.updateConv unit b amax
        match dst with
        | some off =>
          match t.tensorAt j off with
          | some x => t.setCoarse j x.id coarse
          | none => t
        | none => t
      else s
    s1.freeConv b

/-- The running DRAIN completes, once no write of it waits at a guard (R240, R242). -/
def drainDone (s : Chip) (c : CoreId) (a : ArrId) (p : ParityObs) (o : LineObs) : Chip :=
  match (s.array c a).drain with
  | none => s
  | some r =>
    let u := s.streamUnit c a
    if s.stalledBy u then s
    else
      let lost := s.lostLine o
      let s0 := s.found u o
      let s1 := if outputsLost p lost then s0.spoilOuts u r.outs r.tileOut else s0
      let s2 := s1.setArray c a { s1.array c a with drain := none }
      let code := foundStatus r.status p lost
      let s3 := s2.endConv u (s.slotOfCore c) r.conv r.coarse r.amax (r.outs.head?.map Prod.fst) code
      ((s3.finishAt c a code r.index r.signalObj (lost <|> r.bad)).parityDrain c a p).settle c

/-- The drain bound: commands still running are aborted with UNIT_DISABLED, and what they wrote is not valid (R118). -/
def abortArray (s : Chip) (c : CoreId) (a : ArrId) : Chip :=
  let x := s.array c a
  let s0 := s.setArray c a { x with wload := none, streams := [], drain := none }
  let s1 := match x.wload with
    | some r => (s0.spoilShadow c a).finish c a Code.unitDisabled r.index r.signalObj
    | none => s0
  let s2 := x.streams.foldl (fun (t : Chip) r =>
    (t.spoilLines c a r.lines).finish c a Code.unitDisabled r.index r.signalObj) s1
  match x.drain with
  | some r =>
    let t := s2.spoilOuts (s2.streamUnit c a) r.outs r.tileOut
    (t.endConv (t.streamUnit c a) 0xFF r.conv 0 FVal.zero none Code.unitDisabled).finish c a Code.unitDisabled r.index r.signalObj
  | none => s2

/-! ## Self-test, R116 and R471 -/

/-- A pass becomes due; one that is still due at the next interval takes the next command boundary. -/
def selftestDue (s : Chip) (c a : Nat) : Chip :=
  if s.partition && s.arrayState c a = 1 then
    let x := s.array c a
    s.setArray c a (if x.due then { x with takeNext := true } else { x with due := true })
  else s

/-- A pass starts at a command boundary and saves both planes. -/
def selftestStart (s : Chip) (c : CoreId) (a : ArrId) (parity : Bool) : Chip :=
  let x := s.array c a
  if x.due && s.arrayState c a = 1 && s.arrayIdle c a && ((s.stream c a).held.isEmpty || x.takeNext) then
    if parity then (s.setArray c a { x with due := false, takeNext := false }).drainUnit (.array c a)
    else s.setArray c a { x with testing := some (x.active, x.shadow) }
  else s

/-- The first running lockstep pair's unit ID, which is the SOURCE of the monitor's events. -/
def monitorUnit (s : Chip) : Nat := mkUnit 5 s.node (if s.mon.pairState.getD 0 0 = 1 then 0 else 1)

/-- A pass ends: the planes are restored, and a signature that differs is a class 1 detection that drains the array. -/
def selftestEnd (s : Chip) (c : CoreId) (a : ArrId) (signature : U32) : Chip :=
  let x := s.array c a
  match x.testing with
  | none => s
  | some (p, q) =>
    let s1 := (s.setArray c a { x with
      active := p, shadow := q, testing := none, due := false, takeNext := false, signature := signature }).signColumns c a
    if signature = Config.selftestSignature then s1.settle c
    else
      ((s1.detect 1 Code.checkMismatch (s1.slotOfCore c) s1.monitorUnit).drainUnit (.array c a)).settle c

end Chip

/-! ## The commands -/

/-- WLOAD enters its array's stream (R98, R103). -/
def execWload (c : CoreId) (a : ArrId) (tag : EntryTag) (x : ArrayCmd) (s : State) : Host.Outcome State Fault Refusal :=
  onChip (fun h => h.enter c ⟨a.val, by omega⟩ (.wload c a tag x)) s

/-- STREAM enters its array's stream (R98, R105). -/
def execStream (c : CoreId) (a : ArrId) (tag : EntryTag) (x : ArrayCmd) (s : State) : Host.Outcome State Fault Refusal :=
  onChip (fun h => h.enter c ⟨a.val, by omega⟩ (.stream c a tag x)) s

/-- DRAIN enters its array's stream (R98, R107). -/
def execDrain (c : CoreId) (a : ArrId) (tag : EntryTag) (x : ArrayCmd) (s : State) : Host.Outcome State Fault Refusal :=
  onChip (fun h => h.enter c ⟨a.val, by omega⟩ (.drain c a tag x)) s

/-- WLOAD_COMPLETE, R99. -/
def execWloadComplete (c : CoreId) (a : ArrId) (p : ParityObs) (s : State) (o : LineObs := none) : Host.Outcome State Fault Refusal :=
  onChip (fun h => h.wloadDone c a p o) s

/-- STREAM_COMPLETE, R99 and R119. -/
def execStreamComplete (c : CoreId) (a : ArrId) (p : ParityObs) (s : State) (o : LineObs := none) : Host.Outcome State Fault Refusal :=
  onChip (fun h => h.streamDone c a p o) s

/-- DRAIN_COMPLETE, R88, R89, R99 and R119. -/
def execDrainComplete (c : CoreId) (a : ArrId) (p : ParityObs) (s : State) (o : LineObs := none) : Host.Outcome State Fault Refusal :=
  onChip (fun h => h.drainDone c a p o) s

/-- SELFTEST_DUE, R471. -/
def execSelftestDue (c : CoreId) (a : ArrId) (s : State) : Host.Outcome State Fault Refusal :=
  onChip (fun h => h.selftestDue c a) s

/-- SELFTEST_PASS, R116. -/
def execSelftestPass (c : CoreId) (a : ArrId) (parity : Bool) (s : State) : Host.Outcome State Fault Refusal :=
  onChip (fun h => h.selftestStart c a parity) s

/-- SELFTEST_PASS_END, R116 and R471. -/
def execSelftestPassEnd (c : CoreId) (a : ArrId) (signature : U32) (s : State) : Host.Outcome State Fault Refusal :=
  onChip (fun h => h.selftestEnd c a signature) s

/-- ARRAY_DRAIN_BOUND, R118. -/
def execArrayDrainBound (c : CoreId) (a : ArrId) (s : State) : Host.Outcome State Fault Refusal :=
  onChip (fun h => if h.arrayState c a = 2 then (h.abortArray c a).settle c else h) s

/-- ARRAY_DRAIN_END, R118. -/
def execArrayDrainEnd (c : CoreId) (a : ArrId) (s : State) : Host.Outcome State Fault Refusal :=
  onChip (fun h => (h.endArrayDrain c a).settleCore c) s

end Sys2Proof.Machine
end

