-- ==== Sys2Proof/Machine/CollRows.lean ====
section
/-! DEFINITION. Messages of the collectives (spec/12_collectives.md R333 to R355). -/

namespace Sys2Proof.Machine

/-- COLLECTIVE_START, R337. -/
def execCollectiveStart (at_ : Arrival) (m : CollMsg) (s : State) : Host.Outcome State Fault Refusal :=
  onChip (fun h => (h.arriveColl at_ 0x20 m).pumpAll) s

/-- GO, R337. -/
def execGo (at_ : Arrival) (m : CollMsg) (s : State) : Host.Outcome State Fault Refusal :=
  onChip (fun h => (h.arriveColl at_ 0x21 m).pumpAll) s

/-- LEASE, R347. -/
def execLease (at_ : Arrival) (m : CollMsg) (s : State) : Host.Outcome State Fault Refusal :=
  onChip (fun h => (h.arriveColl at_ 0x22 m).pumpAll) s

/-- LEASE_REPLY, R347. -/
def execLeaseReply (at_ : Arrival) (m : CollMsg) (s : State) : Host.Outcome State Fault Refusal :=
  onChip (fun h => (h.arriveColl at_ 0x23 m).pumpAll) s

/-- RELEASE, R347. -/
def execRelease (at_ : Arrival) (m : CollMsg) (s : State) : Host.Outcome State Fault Refusal :=
  onChip (fun h => (h.arriveColl at_ 0x24 m).pumpAll) s

/-- GRANT, R339. -/
def execGrant (at_ : Arrival) (m : CollMsg) (s : State) : Host.Outcome State Fault Refusal :=
  onChip (fun h => (h.arriveColl at_ 0x25 m).pumpAll) s

/-- DATA, R342. -/
def execData (at_ : Arrival) (m : CollMsg) (s : State) : Host.Outcome State Fault Refusal :=
  onChip (fun h => (h.arriveColl at_ 0x26 m).pumpAll) s

/-- RESULT, R348. -/
def execResult (at_ : Arrival) (m : CollMsg) (s : State) : Host.Outcome State Fault Refusal :=
  onChip (fun h => (h.arriveColl at_ 0x27 m).pumpAll) s

/-- ABORT, R353. -/
def execAbort (at_ : Arrival) (m : CollMsg) (s : State) : Host.Outcome State Fault Refusal :=
  onChip (fun h => (h.arriveColl at_ 0x28 m).pumpAll) s

/-- LEASE_IDLE, R350. -/
def execLeaseIdle (r : RidgeId) (jobId : U64) (comm : Byte) (seq : U32) (s : State) : Host.Outcome State Fault Refusal :=
  onChip (fun h => (h.revokeLease r jobId comm.toNat seq.toNat).pumpAll) s

end Sys2Proof.Machine
end

