-- ==== Sys2Proof/Machine/CpRows.lean ====
section
/-! DEFINITION. Entries of the CP stream and the events of what they hand on: solver units, check-value channels and remote
commands (spec/07_solver_units.md R181 to R214, spec/13_field_exchange_and_check_values.md R357 to R371,
spec/16_object_dictionary.md R433). -/

namespace Sys2Proof.Machine

namespace Chip

/-- After a change of a solver unit: a draining unit ends what has not started (R214), and streams may go on. -/
def settleSolver (s : Chip) (k : ClusterId) : Chip :=
  (if s.solverState k = 2 then s.endUnstarted k else s).pumpAll

/-- CP_DRAIN_BOUND: uncompleted remote commands of a draining core end with UNIT_DISABLED (R433). -/
def cpBound (s : Chip) (c : CoreId) : Chip :=
  if s.coreState c = 2 then
    ((s.fab.requests.filter (fun r => r.unit = s.streamUnit c 3)).foldl (fun (t : Chip) r =>
      t.completeRequest r Code.unitDisabled []) s).settle c
  else s

end Chip

/-! ## The commands -/

/-- SOLVE enters the CP stream of its core (R181). -/
def execSolve (c : CoreId) (tag : EntryTag) (x : CpEntry) (s : State) : Host.Outcome State Fault Refusal :=
  onChip (fun h => h.enter c 3 (.solve c tag x)) s

/-- COPY enters the CP stream of its core (R232). -/
def execCopy (c : CoreId) (tag : EntryTag) (x : CpEntry) (s : State) : Host.Outcome State Fault Refusal :=
  onChip (fun h => h.enter c 3 (.copy c tag x)) s

/-- PREFETCH enters the CP stream of its core (R228). -/
def execPrefetch (c : CoreId) (tag : EntryTag) (x : CpEntry) (s : State) : Host.Outcome State Fault Refusal :=
  onChip (fun h => h.enter c 3 (.prefetch c tag x)) s

/-- RLOAD enters the CP stream of its core (R308). -/
def execRload (c : CoreId) (tag : EntryTag) (x : RemoteCmd) (s : State) : Host.Outcome State Fault Refusal :=
  onChip (fun h => h.enter c 3 (.rload c tag x)) s

/-- RSTORE enters the CP stream of its core (R308). -/
def execRstore (c : CoreId) (tag : EntryTag) (x : RemoteCmd) (s : State) : Host.Outcome State Fault Refusal :=
  onChip (fun h => h.enter c 3 (.rstore c tag x)) s

/-- RATOMIC enters the CP stream of its core (R309). -/
def execRatomic (c : CoreId) (tag : EntryTag) (x : RemoteCmd) (s : State) : Host.Outcome State Fault Refusal :=
  onChip (fun h => h.enter c 3 (.ratomic c tag x)) s

/-- COLL enters the CP stream of its core (R334). -/
def execColl (c : CoreId) (tag : EntryTag) (x : CollCmd) (s : State) : Host.Outcome State Fault Refusal :=
  onChip (fun h => h.enter c 3 (.coll c tag x)) s

/-- CVERIFY enters the CP stream of its core (R364). -/
def execCverify (c : CoreId) (tag : EntryTag) (x : CverifyCmd) (s : State) : Host.Outcome State Fault Refusal :=
  onChip (fun h => h.enter c 3 (.cverify c tag x)) s

/-- CHANNEL_ACQUIRE, R357. -/
def execChannelAcquire (n : ChanId) (s : State) : Host.Outcome State Fault Refusal :=
  onChip (fun h => (h.acquireChannel n).pumpAll) s

/-- CVERIFY_COMPLETE, R366. -/
def execCverifyComplete (n : ChanId) (s : State) (o : LineObs := none) : Host.Outcome State Fault Refusal :=
  onChip (fun h => ((h.found (h.verifyUnit n) o).completeVerify n).pumpAll) s

/-- CHANNEL_DRAIN_BOUND, R371. -/
def execChannelDrainBound (n : ChanId) (s : State) : Host.Outcome State Fault Refusal :=
  onChip (fun h => (h.channelBound n).pumpAll) s

/-- CP_DRAIN_BOUND, R433. -/
def execCpDrainBound (c : CoreId) (s : State) : Host.Outcome State Fault Refusal :=
  onChip (fun h => h.cpBound c) s

/-- DESCRIPTOR_START, R183. -/
def execDescriptorStart (k : ClusterId) (s : State) (o : LineObs := none) : Host.Outcome State Fault Refusal :=
  onChip (fun h => ((h.found (h.solverUnit k) o).startDescriptor k).settleSolver k) s

/-- SOLVER_ASSEMBLY_DONE, R189. -/
def execSolverAssemblyDone (k : ClusterId) (window : WindowObs) (s : State) : Host.Outcome State Fault Refusal :=
  onChip (fun h => (h.assemblyDone k window).settleSolver k) s

/-- SOLVER_FACTOR_DONE, R193. -/
def execSolverFactorDone (k : ClusterId) (window : WindowObs) (s : State) : Host.Outcome State Fault Refusal :=
  onChip (fun h => (h.factorDone k window).settleSolver k) s

/-- SOLVER_ITERATION, R194. -/
def execSolverIteration (k : ClusterId) (window : WindowObs) (s : State) : Host.Outcome State Fault Refusal :=
  onChip (fun h => (h.iterationDone k window).settleSolver k) s

/-- SOLVER_REFACT_DONE, R195. -/
def execSolverRefactDone (k : ClusterId) (window : WindowObs) (s : State) : Host.Outcome State Fault Refusal :=
  onChip (fun h => (h.refactDone k window).settleSolver k) s

/-- SOLVER_DELIVERY, R196. -/
def execSolverDelivery (k : ClusterId) (pairDiffers : Bool) (s : State) (window : WindowObs := .clean) : Host.Outcome State Fault Refusal :=
  onChip (fun h => (h.deliveryDone k window pairDiffers).settleSolver k) s

/-- DEADLINE, R198. -/
def execDeadline (k : ClusterId) (seq : U64) (s : State) (pairBehind pairDiffers : Bool := false) : Host.Outcome State Fault Refusal :=
  onChip (fun h => (h.deadlineAt k seq.toNat pairBehind pairDiffers).settleSolver k) s

/-- SOLVER_DRAIN_BOUND, R214. -/
def execSolverDrainBound (k : ClusterId) (s : State) : Host.Outcome State Fault Refusal :=
  onChip (fun h => (h.solverBound k).settleSolver k) s

/-- SOLVER_DRAIN_END, R214. -/
def execSolverDrainEnd (k : ClusterId) (s : State) : Host.Outcome State Fault Refusal :=
  onChip (fun h => h.solverEnd k) s

end Sys2Proof.Machine
end

