-- ==== Sys2Proof/Machine/Scrub.lean ====
section
/-! DEFINITION. Memory in the background: poison, scrubbing, region fill, bypass and remote lines
(spec/08_memory_hierarchy.md R219 to R231, spec/11_remote_memory.md R317). -/

namespace Sys2Proof.Machine

/-- HBM stack h lies under Slate stack h / 3, on every third granule of 4 KiB (R29): the first line of that stack at or
after line `l` of the Slate stack's range. -/
def lineOnStack (h l : Nat) : Nat :=
  let first := h / 3 * (stackBytes / 64)
  let g := (l - first) / 64
  if g % 3 = h % 3 then l else first + 64 * (g + (h % 3 + 3 - g % 3) % 3)

namespace Chip

/-! ## The HBM scrubber, R226 -/

/-- Lines [first, end) of the scrubbed regions of Slate stack d, by ascending offset. -/
def scrubbed (s : Chip) (d : Nat) : List (Nat × Nat) :=
  (((List.range 8).filterMap (fun j =>
    let ix := 0x5100 + 8 * j + 2 * d
    if s.reg ix 2 = 0 then none else some (s.reg ix 1 / 64, (s.reg ix 1 + s.reg ix 2) / 64))).mergeSort (fun a b => a.1 ≤ b.1))

/-- The first line of HBM stack h in those ranges at or after line `l`. -/
def scrubNext (h l : Nat) (rs : List (Nat × Nat)) : Option Nat :=
  (rs.filterMap (fun r =>
    let x := lineOnStack h (max l r.1)
    if x < r.2 then some x else none)).head?

/-- PASSES follows the slowest of the twelve stacks. -/
def countPass (s : Chip) (h : Nat) : Chip :=
  let s1 := { s with
    scrubPasses := SMap.set 0 s.scrubPasses h (SMap.get 0 s.scrubPasses h + 1)
    scrubCorrected := SMap.set 0 s.scrubCorrected h 0 }
  s1.setReg 0x5010 5 (((List.range 12).map (SMap.get 0 s1.scrubPasses)).min?.getD 0)

/-- SCRUB_READ: the next line of the stack's scrubbed regions, wrapping at the end. -/
def scrubRead (s : Chip) (h : Nat) (ecc : EccObs) : Chip :=
  if s.reg 0x5010 1 = 0 then s
  else
    let rs := s.scrubbed (h / 3)
    let at_ := SMap.get 0 s.scrubAt h
    let go (t : Chip) (l : Nat) : Chip :=
      (({ t with scrubAt := SMap.set 0 t.scrubAt h (l + 1) }.bump 0x80BC (h + 1) 1).eccRead l 0 ecc).countBad (64 * l) 64
    match scrubNext h at_ rs with
    | some l => go s l
    | none =>
      match scrubNext h 0 rs with
      | some l => go (s.countPass h) l
      | none => s

/-- An uncorrectable error in the window of a unit ends the descriptor that it runs and drains it (R215). -/
def windowStruck (s : Chip) (m : ClusterId) : Chip :=
  match (s.solveFront m.val).map s.leadRun with
  | some r =>
    match r.phase with
    | .queued | .waiting | .ready => s.drainUnit (.solver m)
    | _ => s.windowFault m r
  | none => s.drainUnit (.solver m)

/-- SRAM_SCRUB, R222 and R226: a word of local memory, of a cache line or of a solver unit's window. Which line of memory the
scrubber has reached is free. -/
def sramScrub (s : Chip) (d : Nat) (o : SramObs) : Chip :=
  if s.reg 0x5010 1 = 0 then s
  else
    let n := Config.freeChoice s.free 1
    match o with
    | .memory .clean => s
    | .memory .corrected | .memory .cacheCorrected => s.bump 0x80D2 (d + 1) 1
    | .memory .cacheRefetched => s.bump 0x80D3 (d + 1) 1
    | .memory .uncorrectable =>
      (s.bump 0x80D3 (d + 1) 1).poisonLine ((localBase + 64 * coreBytes * d) / 64 + n % coreBytes) 0
    | .memory .cacheLost => (s.bump 0x80D3 (d + 1) 1).poisonLine (d * (stackBytes / 64) + n % (stackBytes / 64)) 0
    | .window (.uncorrectable m) => if m.val / 16 = d then (s.seeWindow (.uncorrectable m)).windowStruck m else s
    | .window (.corrected m) => if m.val / 16 = d then s.seeWindow (.corrected m) else s
    | .window .clean => s

/-! ## Region fill, R219 -/

/-- Zero a range of memory by whole lines, which clears its poison. -/
def zeroRange (s : Chip) (off n : Nat) : Chip :=
  { s with
    mem := s.mem.filter (fun p => decide (p.1 < off) || decide (off + n ≤ p.1))
    poison := s.poison.filter (fun p => decide (64 * p.1 + 64 ≤ off) || decide (off + n ≤ 64 * p.1)) }

/-- The copy engines of Slate stack d in state 1. -/
def enginesUp (s : Chip) (d : Nat) : List Nat := (List.range' (32 * d) 32).filter (fun e => s.engineState e = 1)

/-- REGION_FILL: the regions of an ended job are filled with zeros by engines of their stack, then freed. -/
def regionFill (s : Chip) (j : Nat) : Chip :=
  if (s.job j).isSome then s
  else (List.range 8).foldl (fun (t : Chip) i =>
    let ix := 0x5100 + 8 * j + i
    let es := t.enginesUp (i / 2)
    match es[Config.freeChoice t.free i % es.length]? with
    | none => t
    | some e =>
      if t.reg ix 2 = 0 then t
      else
        let t1 := (t.zeroRange (t.reg ix 1) (t.reg ix 2)).bumpEngine e 2 (t.reg ix 2)
        (((t1.setReg ix 1 0).setReg ix 2 0).setReg ix 5 0).setReg ix 6 0) s

/-! ## Copy descriptors -/

/-- What ECC found in a line of the source of the descriptor in front of a queue, as it starts. -/
def badSource (s : Chip) (e : EngineId) (q : EngineQueue) (o : LineObs) : Chip :=
  match o, s.copyFront e q with
  | some (off, ecc), some r =>
    let l := off.toNat / 64
    if !r.started && (CopyField.reads r.desc).any (fun a => !s.isRemote a.1
        && decide (addrOff a.1 < 64 * l + 64) && decide (64 * l < addrOff a.1 + a.2)) then
      s.eccRead l (s.engineUnit e) ecc
    else s
  | _, _ => s

/-- A service queue has room for one more descriptor, R232. -/
def serviceRoom (s : Chip) (e : Nat) : Bool := decide ((s.engine e).service.length < 16)

end Chip

end Sys2Proof.Machine
end

