-- ==== Sys2Proof/Machine/Receive.lean ====
section
/-! DEFINITION. The receiving Ridge, rate limits and Eave gateways (spec/11_remote_memory.md R311 to R327). -/

namespace Sys2Proof.Machine

/-- How a constituent stands against the sequence state of its source, R314. -/
inductive SeqKind where
  | inOrder | duplicate | ahead
  deriving DecidableEq, Repr

/-- Flow `a` is newer than flow `b`, as 16-bit counters that wrap. -/
def newerFlow (a b : Nat) : Bool := decide (0 < (a + 65536 - b) % 65536) && decide ((a + 65536 - b) % 65536 < 32768)

/-- The response lane of a message is 1; bulk-lane requests go on lane 3, the others on 0 (R283). -/
def requestLane (m : Msg) : Nat := if m.mtype = 9 || m.mtype = 0x0A then 3 else 0

namespace Chip

/-- The Ridge die that handles a unit's requests, R314. -/
def dieOfUnit (u : Nat) : Nat := unitNode u % 2

def seqEntry (s : Chip) (u : Nat) : Option (Nat × Nat) :=
  (((s.ridge (dieOfUnit u)).seqs.find? (fun e => e.1 = u)).map Prod.snd)

/-- The kind of a constituent, R314. -/
def seqKind (s : Chip) (p : Constituent) : SeqKind :=
  let f := p.flow.toNat
  let q := p.seq.toNat
  match s.seqEntry p.unit.toNat with
  | none => if q = 0 then .inOrder else .ahead
  | some (cur, want) =>
    if f = cur then (if q = want then .inOrder else if q < want then .duplicate else .ahead)
    else if newerFlow f cur then (if q = 0 then .inOrder else .ahead)
    else .duplicate

/-- EXPECTED_SEQ of a source. -/
def expectedSeq (s : Chip) (p : Constituent) : Nat :=
  match s.seqEntry p.unit.toNat with
  | some (cur, want) => if p.flow.toNat = cur then want else 0
  | none => 0

/-- Advance the expected SEQ of a constituent's source. -/
def advanceSeq (s : Chip) (p : Constituent) : Chip :=
  let r := dieOfUnit p.unit.toNat
  let x := s.ridge r
  let e := (p.unit.toNat, p.flow.toNat, p.seq.toNat + 1)
  s.setRidge r { x with seqs := x.seqs.filter (fun q => q.1 ≠ p.unit.toNat) ++ [e] }

/-! ## Answers -/


/-- Answer a write of [off, off + n): at once, or, where a guard stalled it, when that lets it go (R241, R316). -/
def replyWrite (s : Chip) (held : Bool) (units : List Nat) (off n : Nat) (ms : List Msg) : Chip :=
  if held then { s with fab := { s.fab with heldReplies := s.fab.heldReplies ++ [⟨units, off, n, ms⟩] } }
  else s.sendAnswers ms

/-- The units whose constituents a message carries. -/
def unitsOf (m : Msg) : List Nat := m.parts.map (fun p => p.unit.toNat)

/-- RETRY to every constituent, with its source's expected SEQ in OPERAND2[63:32]. -/
def retryAll (s : Chip) (m : Msg) : Chip :=
  m.parts.foldl (fun (t : Chip) p =>
    let a := { t.answerMsg 6 m p with operand2 := BitVec.ofNat 64 (t.expectedSeq p * 2 ^ 32) }
    (t.bump 0x8035 (dieOfUnit p.unit.toNat + 1) 1).sendAnswers [a]) s

/-- Every constituent receives the same status. -/
def refuseMsg (s : Chip) (m : Msg) (status : Nat) : Chip := s.sendAnswers (m.parts.map (fun p => s.responseOf m p status 0 []))

/-! ## Target checks, R316 -/

/-- The bytes of an object, R245. -/
def objBytes (x : Obj) : List Byte :=
  leBytes 8 x.value.toNat ++ List.replicate 16 0 ++ leBytes 4 x.last.toNat ++ leBytes 2 x.watches.length ++ [x.owner, 0]
    ++ leBytes 8 x.count.toNat ++ leBytes 4 ((x.watches.head?.map (fun w => w.unit.toNat)).getD 0) ++ List.replicate 20 0

def recordBytes (r : CheckRec) : List Byte :=
  leBytes 1 (boolNat r.valid) ++ leBytes 1 r.poly ++ [0, 0] ++ leBytes 4 r.producer ++ leBytes 8 r.alive
    ++ leBytes 8 r.length ++ leBytes 8 r.check

/-- The bytes of a channel, R359. -/
def chanBytes (s : Chip) (n : Nat) : List Byte :=
  let c := s.chan n
  let busy := match c.busy with | none => 0 | some (.copy _ _) => 1 | some (.verify _) => 2
  leBytes 1 (s.channelState n) ++ leBytes 1 (s.reg (0x7100 + n) 2) ++ leBytes 1 (s.reg (0x7100 + n) 3) ++ leBytes 1 busy
    ++ List.replicate 60 0 ++ recordBytes c.slot0 ++ recordBytes c.slot1 ++ List.replicate 128 0

/-- A class-10 read of 4 or 8 bytes: its code and bytes (R220, R245, R247, R359). -/
def readClass2 (s : Chip) (slot off n : Nat) : Nat × List Byte :=
  let fit := (n = 4 || n = 8) && off % n = 0
  if decide (0x020000000000 ≤ off) && decide (off < 0x020000000000 + 64 * 17408) && fit then
    let o := (off - 0x020000000000) / 64
    if ((s.job slot).map (fun x => jobHoldsObj x o)).getD false then (0, ((objBytes (s.obj o)).drop (off % 64)).take n)
    else (Code.accessDenied, [])
  else if decide (0x021000000000 ≤ off) && decide (off < 0x021000010000) && fit then
    let c := (off - 0x021000000000) / 256
    if ((s.job slot).map (fun x => x.res.channels.getLsbD c)).getD false then
      (0, ((s.chanBytes c).drop (off % 256)).take n)
    else (Code.accessDenied, [])
  else (Code.outOfRange, [])

/-- The check of a memory range for the job whose JOB_ID the message carries. -/
def targetCode (s : Chip) (m : Msg) (n : Nat) : Nat :=
  let j := s.slotOfJobId m.jobId
  if 8 ≤ j then Code.accessDenied else s.checkRange j m.address.toNat n true

/-! ## Coalescing, R321 and R322 -/

/-- Close the entry of a line: one masked write, then every merged write is acknowledged. -/
def closeEntry (s : Chip) (r line : Nat) : Chip :=
  let x := s.ridge r
  match x.entries.find? (fun e => e.line = line) with
  | none => s
  | some e =>
    let s1 := s.setRidge r { x with entries := x.entries.filter (fun f => f.line ≠ line) }
    let units := (e.writes.flatMap unitsOf).eraseDups
    let runs := joinRuns ((e.bytes.map (fun b => (b.1, b.2.1))).mergeSort (fun a b => a.1 ≤ b.1))
    let w := runs.foldl (fun (t : Nat × Chip) q =>
      let y := t.2.storeFor units q.1 q.2 none
      (Code.first t.1 y.1, y.2)) (0, s1)
    let acks := e.writes.flatMap (fun m => m.parts.map (fun p => w.2.responseOf m p w.1 0 []))
    w.2.replyWrite (runs.any (fun q => (s.guardAt q.1 q.2.length).isSome)) units (64 * line) 64 acks

/-- Close entries of a Ridge that satisfy a test. -/
def closeEntries (s : Chip) (r : Nat) (p : Coalesce → Bool) : Chip :=
  ((s.ridge r).entries.filter p).foldl (fun (t : Chip) e => t.closeEntry r e.line) s

/-- Merge a write into the open entry of its line, or open one. A byte taken over from another source unit counts (R322). -/
def coalesce (s : Chip) (r : Nat) (m : Msg) (unit : Nat) : Chip :=
  let off := addrOff m.address.toNat
  let line := off / 64
  let new : List (Nat × Byte × Nat) := (SMap.number off m.data).map (fun b => (b.1, b.2, unit))
  let x := s.ridge r
  match x.entries.find? (fun e => e.line = line) with
  | some e =>
    let hit := e.bytes.any (fun b => b.2.2 ≠ unit && decide (off ≤ b.1) && decide (b.1 < off + m.data.length))
    let e1 : Coalesce := { e with
      bytes := e.bytes.filter (fun b => decide (b.1 < off) || decide (off + m.data.length ≤ b.1)) ++ new
      writes := e.writes ++ [m] }
    let s1 := (s.setRidge r { x with entries := x.entries.map (fun f => if f.line = line then e1 else f) }).bump 0x8032 (r + 1) 1
    if hit then s1.countNd 4 (s.slotOfJobId m.jobId) 1 else s1
  | none =>
    let s1 := if x.entries.length < 1024 then s else match x.entries.head? with
      | some e => s.closeEntry r e.line
      | none => s
    let y := s1.ridge r
    s1.setRidge r { y with entries := y.entries ++ [⟨line, new, [m]⟩] }

/-! ## Hot lines and rate limits, R323 -/

/-- Count a request to a line; a request beyond the threshold makes the Ridge send RATE to its source, once per line, source
and window. -/
def countHot (s : Chip) (r : Nat) (m : Msg) : Chip :=
  let line := lineOf m
  let x := s.ridge r
  let n := ((x.hot.find? (fun h => h.1 = line)).map Prod.snd).getD 0
  let src := m.srcNode.toNat
  let x1 := { x with hot := x.hot.filter (fun h => h.1 ≠ line) ++ [(line, n + 1)] }
  if s.reg 0x4030 3 < n && !x.rated.contains (line, src) then
    let s1 := (s.setRidge r { x1 with rated := x1.rated ++ [(line, src)] }).bump 0x8033 (r + 1) 1
    match m.parts.head? with
    | some p =>
      let a := { s1.answerMsg 7 m p with dest := m.srcNode }
      s1.sendAnswers [a]
    | none => s1
  else s.setRidge r x1

/-- Send what waited in a rate entry. -/
def sendWaits (s : Chip) (ms : List Msg) : Chip :=
  ms.foldl (fun (t : Chip) m =>
    match t.launch 0 m with
    | some u => u
    | none => (t.fab.requests.filter (fun r => m.parts.any (fun p =>
        r.unit = p.unit.toNat && r.flow = p.flow.toNat && r.seq = p.seq.toNat))).foldl
        (fun (u : Chip) r => u.completeRequest r Code.peerUnreachable []) t) s

/-- RATE at its source package: 64 entries; the one that expires soonest makes room. -/
def onRate (s : Chip) (m : Msg) : Chip :=
  let d := m.srcNode.toNat
  let line := lineOf m
  match s.fab.rates.find? (fun e => e.dest = d && e.line = line) with
  | some e =>
    { s with fab := { s.fab with rates := s.fab.rates.filter (fun f => !(f.dest = d && f.line = line)) ++ [e] } }
  | none =>
    let s1 := if s.fab.rates.length < 64 then s else match s.fab.rates with
      | e :: t => ({ s with fab := { s.fab with rates := t } }).sendWaits e.waits
      | [] => s
    { s1 with fab := { s1.fab with rates := s1.fab.rates ++ [{ dest := d, line := line }] } }

/-- RATE_INTERVAL: the spacing of an entry ends, and the next message that waits goes. -/
def rateSpaced (s : Chip) (d line : Nat) : Chip :=
  match s.fab.rates.find? (fun e => e.dest = d && e.line = line) with
  | none => s
  | some e =>
    let put (f : RateEntry) : Chip :=
      { s with fab := { s.fab with rates := s.fab.rates.map (fun x => if x.dest = d && x.line = line then f else x) } }
    match e.waits with
    | m :: t => (put { e with waits := t }).sendWaits [m]
    | [] => put { e with busy := false }

/-- RATE_HOLD: the entry ends, and what waits goes. -/
def rateOver (s : Chip) (d line : Nat) : Chip :=
  match s.fab.rates.find? (fun e => e.dest = d && e.line = line) with
  | none => s
  | some e =>
    ({ s with fab := { s.fab with rates := s.fab.rates.filter (fun x => !(x.dest = d && x.line = line)) } }).sendWaits e.waits

/-! ## Requests at their target -/

/-- The bytes that a READ or BULK_READ asks for, with the code. -/
def readTarget (s : Chip) (m : Msg) : Nat × List Byte :=
  let n := m.length.toNat
  if addrClass m.address.toNat = 2 then s.readClass2 (s.slotOfJobId m.jobId) (addrOff m.address.toNat) n
  else
    let code := s.targetCode m n
    if code ≠ 0 then (code, [])
    else
      let b := s.load (addrOff m.address.toNat) n
      (b.2, if b.2 = 0 then b.1 else [])

/-- Serve a READ for the given constituents. -/
def serveRead (s : Chip) (m : Msg) (ps : List Constituent) : Chip :=
  let b := s.readTarget m
  let t := if b.1 = Code.uncorrectable then s.countBad (addrOff m.address.toNat) m.length.toNat else s
  t.sendAnswers (ps.map (fun p => t.responseOf m p b.1 0 b.2))

/-- Apply an ATOMIC. One that a guard stalls reads its cell when the guard lets it go, and is answered then. -/
def serveAtomic (s : Chip) (m : Msg) : Chip :=
  let n := atypeBytes m.atype.toNat
  let off := addrOff m.address.toNat
  let units := unitsOf m
  let code := Code.first (s.targetCode m n) (Code.need (atomicOk m.aop.toNat m.atype.toNat && off % n = 0) Code.outOfRange)
  if code ≠ 0 then s.refuseMsg m code
  else
    let b := s.load off n
    if b.2 ≠ 0 then (s.countBad off n).refuseMsg m b.2
    else
      let v := leNat b.1
      let w := s.storeFor units off (leBytes n (atomicNew m v)) (some m)
      if (s.guardAt off n).isSome then w.2
      else w.2.replyWrite false units off n (m.parts.map (fun p => w.2.responseOf m p w.1 (fetched m p v) []))

/-- Apply a WRITE: coalesced where R321 lets it, else directly. -/
def serveWrite (s : Chip) (r : Nat) (m : Msg) : Chip :=
  let n := m.data.length
  let off := addrOff m.address.toNat
  let unit := (m.parts.head?.map (fun p => p.unit.toNat)).getD 0
  let code := s.targetCode m n
  if code ≠ 0 then s.refuseMsg m code
  else if m.mtype = 2 && decide (n ≤ 64) && decide (off % 64 + n ≤ 64) && s.reg 0x4030 1 ≠ 0 && decide (0 < n) then s.coalesce r m unit
  else
    let w := s.storeFor (unitsOf m) off m.data none
    w.2.replyWrite (s.guardAt off n).isSome (unitsOf m) off n (m.parts.map (fun p => w.2.responseOf m p w.1 0 []))

/-- Apply a SIGNAL: it closes the entries that hold a write of its source, so that R261 holds. Behind a write of its source
that a guard stalls it waits with its answer. -/
def serveSignal (s : Chip) (m : Msg) : Chip :=
  let off := addrOff m.address.toNat
  let unit := (m.parts.head?.map (fun p => p.unit.toNat)).getD 0
  let s1 := (s.closeEntries 0 (fun e => e.bytes.any (fun b => b.2.2 = unit) || e.writes.any (fun w => w.parts.any (fun p => p.unit.toNat = unit)))).closeEntries
    1 (fun e => e.bytes.any (fun b => b.2.2 = unit) || e.writes.any (fun w => w.parts.any (fun p => p.unit.toNat = unit)))
  let o := (off - 0x020000000000) / 64
  let n := m.operand.toNat
  let fieldsOk := addrClass m.address.toNat = 2 && decide (0x020000000000 ≤ off) && decide (o < 17408) && off % 64 = 8
    && decide (1 ≤ n) && decide (n ≤ 65535)
  let holds := ((s.job (s.slotOfJobId m.jobId)).map (fun x => jobHoldsObj x o)).getD false
  if !fieldsOk then s1.refuseMsg m Code.outOfRange
  else if !holds then s1.refuseMsg m Code.accessDenied
  else if s1.stalledBy unit then
    { s1 with
      posted := s1.posted ++ [{ obj := o, amount := m.operand, unit := BitVec.ofNat 32 unit, entry := none }]
      fab := { s1.fab with heldReplies := s1.fab.heldReplies ++ [⟨[unit], 0, 0, m.parts.map (fun p => s1.responseOf m p 0 0 [])⟩] } }
  else
    let w := s1.signalAdd o n unit
    let s2 := if w.1 = 0 then w.2 else w.2.addLog w.1 (s1.slotOfJobId m.jobId) 0 unit []
    s2.refuseMsg m w.1

/-- Apply an in-order request. A READ or ATOMIC closes the open entries of its lines first (R321). -/
def serve (s : Chip) (m : Msg) (ecc : EccObs) : Chip :=
  let r := m.srcNode.toNat % 2
  let off := addrOff m.address.toNat
  let unit := (m.parts.head?.map (fun p => p.unit.toNat)).getD 0
  let s1 := if requestLane m = 0 && m.mtype ≠ 4 then s.countHot r m else s
  let n := match m.mtype.toNat with | 1 => m.length.toNat | 3 => atypeBytes m.atype.toNat | _ => 0
  let s2 := if n = 0 then s1 else s1.closeEntries r (fun e => decide (off < 64 * e.line + 64) && decide (64 * e.line < off + n))
  let s3 := if addrClass m.address.toNat = 2 || s2.targetCode m 1 ≠ 0 then s2 else s2.eccRead (off / 64) unit ecc
  match m.mtype.toNat with
  | 1 => s3.serveRead m m.parts
  | 0x0A => s3.serveRead m m.parts
  | 3 => s3.serveAtomic m
  | 4 => s3.serveSignal m
  | _ => s3.serveWrite r m

/-- A request at its receiving Ridge, R314. -/
def receive (s : Chip) (m : Msg) (ecc : EccObs) : Chip :=
  if m.parts.isEmpty || decide (16 < m.parts.length) then s.addLog Code.outOfRange 0xFF 0 0 []
  else
    let ks := m.parts.map s.seqKind
    let dups := m.parts.filter (fun p => s.seqKind p = .duplicate)
    let s1 := dups.foldl (fun (t : Chip) p => t.bump 0x8036 (dieOfUnit p.unit.toNat + 1) 1) s
    if ks.all (fun k => k = .inOrder) then (m.parts.foldl (fun (t : Chip) p => t.advanceSeq p) s1).serve m ecc
    else if ks.any (fun k => k = .ahead) then s1.retryAll m
    else if m.mtype = 1 || m.mtype = 0x0A then s1.serveRead m dups
    else s1.sendAnswers (dups.map (fun p =>
      s1.responseOf m p 0 (if bit p.cflags.toNat 0 then (Config.freeCycles s.free 12).toNat else 0) []))

/-! ## Answers at their source -/

/-- RESPONSE: the request completes once; a response that finds none is discarded and counted (R314, R315). -/
def onResponse (s : Chip) (m : Msg) : Chip :=
  match m.parts.head? with
  | none => s
  | some p =>
    match s.fab.requests.find? (fun r => r.unit = p.unit.toNat && r.flow = p.flow.toNat && r.seq = p.seq.toNat) with
    | some r =>
      let data := if r.msg.mtype = 3 then leBytes (atypeBytes r.msg.atype.toNat) m.operand.toNat else m.data
      s.completeRequest r (Code.received (Config.freeChoice s.free 60) (m.operand2.toNat % 65536)) data
    | none => s.bump 0x8037 (s.node % 2 + 1) 1

/-- Send an uncompleted request again: RESENT, never combined, minimal routes by the Jade rule (R314). -/
def resend (s : Chip) (r : Request) : Chip :=
  let m := { r.msg with mflags := BitVec.ofNat 8 (2 + 4 * boolNat (bit r.msg.mflags.toNat 2)) }
  match s.route (requestLane m) 0 s.node r.dest none true (.msg m) with
  | some t => t
  | none => s.completeRequest r Code.peerUnreachable []

/-- RETRY: the source resends its uncompleted requests of the flow from EXPECTED_SEQ on, in SEQ order. -/
def onRetry (s : Chip) (m : Msg) : Chip :=
  match m.parts.head? with
  | none => s
  | some p =>
    let want := m.operand2.toNat / 2 ^ 32
    let rs := (s.fab.requests.filter (fun r => r.unit = p.unit.toNat && r.flow = p.flow.toNat && decide (want ≤ r.seq))).mergeSort
      (fun a b => a.seq ≤ b.seq)
    rs.foldl (fun (t : Chip) r => t.resend r) s

/-! ## Arrival at a package -/

/-- The request of a write that a guard stalls keeps its entries of the buffer it came in by (R241, R316). `before` are the stalled
writes before it came. The entries count as held again unless their credits are on their way. -/
def keepEntries (s : Chip) (a : Arrival) (m : Msg) (before : Nat) : Chip :=
  let off := addrOff m.address.toNat
  let n := if m.mtype = 3 then atypeBytes m.atype.toNat else m.data.length
  if (s.engines.map (fun e => e.2.stalled.length)).sum ≤ before || !s.stallsOver (unitsOf m) off n then s
  else
    let i := bufIx (requestLane m) a.hop.val
    let k := min (flitsOf (msgBytes m).length) ((s.port a.port).freed.getD i 0)
    let s1 := s.updPort a.port (fun x => { x with held := x.held.modify i (· + k), freed := x.freed.modify i (· - k) })
    { s1 with fab := { s1.fab with kept := s1.fab.kept ++ [⟨a.port.val, i, k, unitsOf m, off, n⟩] } }

/-- A message that no route takes, R297. -/
def dropWire (s : Chip) (w : Wire) : Chip :=
  match w with
  | .msg m => if m.mtype.toNat ≤ 4 || m.mtype = 9 || m.mtype = 0x0A then s.dropRequest m else s
  | .batch _ _ ms => s.dropRequests ms
  | _ => s

/-- A message in transit goes on with its hop class one higher (R297); `lost` is done where no route takes it. -/
def transit (s : Chip) (a : Arrival) (vl src dest : Nat) (fixed : Bool) (w : Wire) (lost : Chip → Chip) : Chip :=
  (s.route vl (a.hop.val + 1) src dest (some a.port.val) fixed w).getD (lost s)

/-- A request of the request or bulk lane. -/
def arriveRequest (s : Chip) (a : Arrival) (m : Msg) (ecc : EccObs) : Chip :=
  let vl := requestLane m
  if !s.laneOpen vl || 16384 < m.age.toNat then s
  else if m.dest.toNat ≠ s.node then
    s.transit a vl m.srcNode.toNat m.dest.toNat (Msg.resent m) (.msg m) (fun t => t.dropRequest m)
  else if s.reg 0x2200 2 = 2 && vl = 0 then s.dropRequest m
  else (s.receive m ecc).keepEntries a m (s.engines.map (fun e => e.2.stalled.length)).sum

/-- A message of the response lane. -/
def arriveAnswer (s : Chip) (a : Arrival) (m : Msg) : Chip :=
  if !s.laneOpen 1 then s
  else if m.dest.toNat ≠ s.node then s.transit a 1 m.srcNode.toNat m.dest.toNat false (.msg m) (fun t => t)
  else match m.mtype.toNat with
    | 5 => s.onResponse m
    | 6 => s.onRetry m
    | _ => s.onRate m

/-- A message of a BATCH at its destination: one too old is dropped (R315), a Dormant package drops requests (R300), and one of
another MTYPE is dropped and logged (R311). -/
def unpack (s : Chip) (m : Msg) : Chip :=
  let t := m.mtype.toNat
  if decide (1 ≤ t) && decide (t ≤ 4) then
    if 16384 < m.age.toNat then s else if s.reg 0x2200 2 = 2 then s.dropRequest m else s.receive m .clean
  else match t with
    | 5 => s.onResponse m
    | 6 => s.onRetry m
    | 7 => s.onRate m
    | _ => s.addLog Code.outOfRange 0xFF 0 0 []

/-- A BATCH: at its destination each message is handled, in order, as if it had arrived alone (R327). -/
def arriveBatch (s : Chip) (a : Arrival) (dest src : Nat) (ms : List Msg) : Chip :=
  if !s.laneOpen 3 then s
  else if dest ≠ s.node then
    s.transit a 3 src dest false (.batch dest src ms) (fun t => t.dropRequests ms)
  else ms.foldl unpack s

/-- A unit's request gets no answer in time, R315. -/
def timeoutRequest (s : Chip) (unit dest flow seq : Nat) : Chip :=
  match s.fab.requests.find? (fun r => r.unit = unit && r.dest = dest && r.flow = flow && r.seq = seq) with
  | some r => s.completeRequest r Code.peerUnreachable []
  | none => s

end Chip

end Sys2Proof.Machine
end

