-- ==== Sys2Proof/Machine/Links.lean ====
section
/-! DEFINITION. Ports and the link layer (spec/10_links_and_topology.md R273 to R303): training, flits, replay, credits, the
audit, arbitration and the link-state database. -/

namespace Sys2Proof.Machine

/-- The header of a flit as a number, R279. -/
def FlitHdr.word (h : FlitHdr) : Nat :=
  h.vl.val + 8 * h.hop.val + 64 * h.ftype.val + 256 * boolNat h.msgStart + 512 * boolNat h.msgEnd + 2 ^ 10 * h.fseq.val
    + 2 ^ 22 * h.ackSeq.val + 2 ^ 34 * boolNat h.ackValid + 2 ^ 35 * h.credVl.val + 2 ^ 38 * h.credHop.val
    + 2 ^ 41 * h.credCount.toNat + 2 ^ 49 * h.reserved.toNat

/-- The CRC of a flit, R279. -/
def flitCrc (h : FlitHdr) (body : List Byte) : Nat := crc32c (leBytes 8 (FlitHdr.word h) ++ body)

/-- CRC and reserved bits are good (R280). -/
def Flit.good (f : Flit) : Bool := f.crc.toNat = flitCrc f.hdr f.body && f.hdr.reserved = 0

/-- Buffer sizes, R285. -/
def bufSize (i : Nat) : Nat :=
  let vl := i / 8
  let far := decide (5 ≤ i % 8)
  if vl < 3 then (if far then 16 else 128) else if vl = 3 then (if far then 16 else 192) else (if far then 4 else 16)

def zeros48 : List Nat := List.replicate 48 0

/-- The own capabilities that IDENT carries: FP64 sum, non-minimal transit, Eave gateway (R281). -/
def ownCaps : Nat := 7

def ownSerial : List Byte := (List.range 16).map Config.serial

/-- The entries of the replay buffer up to an acknowledged FSEQ are gone. -/
def dropAcked (q : Nat) : List Flit → Option (List Flit)
  | [] => none
  | f :: t => if f.hdr.fseq.val = q then some t else dropAcked q t

namespace Chip

/-! ## Flits -/

/-- The first buffer with entries to return, and how many of them a flit can carry. -/
def creditToReturn (x : Port) : Nat × Nat :=
  match (List.range 48).find? (fun i => x.freed.getD i 0 ≠ 0) with
  | some i => (i, min 255 (x.freed.getD i 0))
  | none => (0, 0)

/-- A flit of port p with its acknowledgement and credit fields; the port has then acknowledged and returned them. -/
def buildFlit (s : Chip) (p ftype vl hop : Nat) (first last : Bool) (seq : Nat) (body : List Byte) : Flit × Chip :=
  let x := s.port p
  let c := creditToReturn x
  let h : FlitHdr := {
    vl := Fin.ofNat 8 vl, hop := Fin.ofNat 8 hop, ftype := Fin.ofNat 4 ftype, msgStart := first, msgEnd := last
    fseq := Fin.ofNat 4096 seq, ackSeq := Fin.ofNat 4096 (x.expected + 4095), ackValid := x.ackOk
    credVl := Fin.ofNat 8 (c.1 / 8), credHop := Fin.ofNat 8 (c.1 % 8), credCount := BitVec.ofNat 8 c.2, reserved := 0 }
  let b := body ++ List.replicate (244 - body.length) 0
  let f : Flit := ⟨h, b, BitVec.ofNat 32 (flitCrc h b)⟩
  (f, s.setPort p { x with
    sinceAck := 0, freed := x.freed.modify c.1 (· - c.2), returned := x.returned.modify c.1 (fun n => (n + c.2) % 65536) })

/-- Send a flit. -/
def sendFlit (s : Chip) (p : Nat) (f : Flit) : Chip := { s with out := s.out ++ [.flit p f] }

/-- Send a new sequenced flit: it stays in the replay buffer until it is acknowledged. -/
def sendSequenced (s : Chip) (p ftype vl hop : Nat) (first last : Bool) (body : List Byte) : Chip :=
  let seq := (s.port p).nextFseq
  let r := s.buildFlit p ftype vl hop first last seq body
  let s1 := r.2.updPort p (fun x => { x with
    nextFseq := (seq + 1) % 4096, replay := x.replay ++ [r.1], sinceAudit := x.sinceAudit + 1 })
  (s1.bump (0x4100 + p) 0x0A 1).sendFlit p r.1

/-- The body of a control flit; an AUDIT takes its values as they stand when it is sent (R286). -/
def controlBody (s : Chip) (p : Nat) (body : List Byte) : List Byte :=
  if body = [3] then
    let x := s.port p
    3 :: (List.range 48).flatMap (fun i => leBytes 2 (x.avail.getD i 0) ++ leBytes 2 (x.credited.getD i 0))
  else body

/-- Traffic may move: a live port, or one that drains (R278). -/
def carries (s : Chip) (p : Nat) : Bool := s.portLive p || s.portReg p 2 = 8

/-- Send a control flit of a port in the next slot, or as soon as its state and the replay buffer let it. -/
def sendControl (s : Chip) (p : Nat) (body : List Byte) : Chip :=
  let x := s.port p
  if s.carries p && x.resend.isEmpty && decide (x.replay.length < 2048) then
    s.sendSequenced p 1 0 0 true true (s.controlBody p body)
  else s.setPort p { x with control := x.control ++ [body] }

/-- IDENT and RESYNC of a port that trains or retrains. They are outside the sequence: RESYNC itself says which number comes next,
0 after IDENT (R274), and it must be taken while flits before it are missing (R287). -/
def sendTraining (s : Chip) (p : Nat) (body : List Byte) : Chip :=
  let r := s.buildFlit p 1 0 0 true true 0 body
  r.2.sendFlit p r.1

def identBody (s : Chip) (p : Nat) : List Byte :=
  [1, 2, 4] ++ leBytes 2 s.node ++ leBytes 1 p ++ leBytes 2 ownCaps ++ ownSerial

/-- A flit that returns no credits. -/
def Flit.creditless (f : Flit) : Flit :=
  let h := { f.hdr with credVl := 0, credHop := 0, credCount := 0 }
  { f with hdr := h, crc := BitVec.ofNat 32 (flitCrc h f.body) }

/-- RESYNC: the next expected FSEQ and the free entries of every buffer; what was freed and not returned goes with it, and
the count of returned credits starts again (R287). Credits in flits that the peer has not accepted are among them, so those flits
return none when they are sent again (R288). -/
def sendResync (s : Chip) (p : Nat) : Chip :=
  let x := s.port p
  let body := [5] ++ leBytes 2 x.expected ++ (List.range 48).flatMap (fun i => leBytes 2 (bufSize i - x.held.getD i 0))
  (s.setPort p { x with
    freed := zeros48, returned := zeros48
    replay := x.replay.map Flit.creditless, resend := x.resend.map Flit.creditless }).sendTraining p body

/-! ## The link-state database, R303 -/

/-- Queue a message for the management lane of a port. -/
def queueMgmt (s : Chip) (p : Nat) (w : Wire) : Chip := s.enqueue p 4 0 (s.peerNode p) w

/-- Send a record over every live port but one. -/
def flood (s : Chip) (r : LinkRecord) (cert : Option NodeCert) (except : Option Nat) : Chip :=
  ((List.range 48).filter (fun p => s.portLive p && except ≠ some p)).foldl (fun (t : Chip) p => t.queueMgmt p (.lsdb r cert)) s

/-- The first member of the bridges that a database shows in this package's group. -/
def bridgesIn (s : Chip) : List Nat :=
  ((s.fab.lsdb.filter (fun r => r.bridge && sameGroup r.node s.node)).map (·.node)).eraseDups

/-- BRIDGE_ACTIVE and BRIDGE_CONFLICT follow the database and the host link (R299). -/
def bridgeStatus (s : Chip) : Chip :=
  let strap := s.reg 0x4010 1 = 1
  let others := s.bridgesIn.filter (fun n => n ≠ s.node)
  let conflict := strap && !others.isEmpty
  let active := strap && decide (2 ≤ s.reg 0x4010 3) && !(conflict && others.any (fun n => n < s.node))
  (s.setReg 0x4010 4 (boolNat conflict)).setReg 0x4010 2 (boolNat active)

/-- GROUPS_SEEN, NODES_REACHABLE and the bridge follow the database (R290, R299); requests to nodes it shows
unreachable complete, and collectives with such a member end (R315, R353). -/
def dbChanged (s : Chip) : Chip :=
  let db := s.fab.lsdb
  let groups := ((db.map (·.node)).filter isPackage).map groupOf
  let all := (reachSet db db.length [s.node]).filter (fun n => n ≠ s.node)
  let s1 := (s.setReg 0x4002 3 groups.eraseDups.length).setReg 0x4002 4 all.eraseDups.length
  let s2 := s1.bridgeStatus
  let s3 := { s2 with fab := { s2.fab with settled := false, unsettled := List.range 8 } }
  let lost := s3.fab.requests.filter (fun r => !s3.reachable r.dest)
  (lost.foldl (fun (t : Chip) r => t.completeRequest r Code.peerUnreachable []) s3).abortLost

/-- The certificate values that the package sends for itself, R479. -/
def ownCert (s : Chip) : NodeCert :=
  { node := s.node, serial := ownSerial, devicePublicKey := Config.devicePublicKey, deviceCert := Config.deviceCert
    jobPublicKey := Config.jobPublicKey, jobKeyCert := Config.jobKeyCert }

/-- The certificate values of a node that the package holds. -/
def certOf (s : Chip) (n : Nat) : Option NodeCert := if n = s.node then some s.ownCert else s.fab.certs.find? (fun c => c.node = n)

/-- Both certificates verify, against the root key and the device key (R472, R479). -/
def certGood (c : NodeCert) : Bool :=
  Config.verify Config.rootKey (c.serial ++ c.devicePublicKey) c.deviceCert
    && Config.verify c.devicePublicKey c.jobPublicKey c.jobKeyCert

/-- A port changes state: the package's own record of it follows, and is flooded (R303). -/
def setPortState (s0 : Chip) (p state : Nat) : Chip :=
  let s := s0.setPortReg p 2 state
  let old := s.fab.lsdb.find? (fun r => r.node = s.node && r.port = p)
  let r : LinkRecord := { node := s.node, port := p, state := Fin.ofNat 9 state, peer := s.peerNode p, generation := 4
                          caps := ownCaps, bridge := s.reg 0x4010 1 = 1, serial := leNat ownSerial
                          seq := ((old.map (·.seq)).getD 0) + 1 }
  if old.any (fun q => q.state = r.state && q.peer = r.peer) then s
  else
    let s1 := { s with fab := { s.fab with lsdb := s.fab.lsdb.filter (fun (q : LinkRecord) => !(q.node = s.node && q.port = p)) ++ [r] } }
    (s1.flood r (s1.certOf s.node) none).dbChanged

/-- A package announces a node number: the own number with another serial is a conflict (R289). Packages without a number announce
none. -/
def heardNode (s : Chip) (node serial : Nat) : Chip :=
  if node = s.node && node ≠ 0xFFFF && serial ≠ leNat ownSerial then
    { s.setReg 0x4002 5 1 with fab := { s.fab with rival := some serial } }
  else s

/-- LSDB_UPDATE: a record newer than the own one is stored and forwarded, certificates only where both verify (R479). A record of
this package's number with another serial is a conflict of node numbers (R289). -/
def onLsdb (s : Chip) (p : Nat) (r : LinkRecord) (cert : Option NodeCert) : Chip :=
  if r.node = s.node then s.heardNode r.node r.serial
  else
    let old := s.fab.lsdb.find? (fun q => q.node = r.node && q.port = r.port)
    let newer := match old with
      | some q => decide (q.seq.toNat < r.seq.toNat)
      | none => true
    if !newer then s
    else
      let s0 := if s.fab.rival = some r.serial then
          { s.setReg 0x4002 5 0 with fab := { s.fab with rival := none } }
        else s
      let certs := match cert with
        | some c => if certGood c then s0.fab.certs.filter (fun (d : NodeCert) => d.node ≠ c.node) ++ [c] else s0.fab.certs
        | none => s0.fab.certs
      let s1 := { s0 with fab := { s0.fab with
        lsdb := s0.fab.lsdb.filter (fun (q : LinkRecord) => !(q.node = r.node && q.port = r.port)) ++ [r], certs := certs } }
      (s1.flood r cert (some p)).dbChanged

/-! ## Port states, R273 to R278 -/

/-- A message that a port gives back is routed again on a minimal route, under the Jade rule where it was resent (R314); requests
are marked REROUTED (R275, R297). -/
def reroute (s : Chip) (q : QMsg) : Chip :=
  let w : Wire := match q.wire with
    | .msg m => .msg { m with mflags := m.mflags ||| 4 }
    | w => w
  let src := match q.wire with
    | .msg m => m.srcNode.toNat
    | .batch _ b _ => b
    | .coll _ m => m.srcNode.toNat
    | .safety _ m => m.srcNode.toNat
    | _ => s.node
  let fixed := match q.wire with
    | .msg m => Msg.resent m
    | _ => false
  match w with
  | .lsdb _ _ => s
  | _ => (s.sendBy q.vl q.hop q.dest w (s.minimalHop q.vl src q.dest fixed)).getD (s.dropWire w)

/-- Every message that a port holds, sent and unacknowledged or still queued, goes back to the switch. -/
def returnMessages (s : Chip) (p : Nat) : Chip :=
  let x := s.port p
  let ms := x.unacked.map Prod.snd ++ x.queue
  let s1 := s.setPort p { peerCaps := x.peerCaps, peerSerial := x.peerSerial, peerVersion := x.peerVersion, dormant := x.dormant }
  let s2 := { s1 with fab := { s1.fab with kept := s1.fab.kept.filter (fun k => k.port ≠ p) } }
  ms.foldl (fun (t : Chip) q => t.reroute { q with sent := 0 }) s2

/-- An event that names a port and its peer, DETAIL_KIND 7. -/
def portEvent (s : Chip) (code p : Nat) (more : List Byte) : Chip :=
  s.addLog code 0xFF 7 0 (leBytes 1 p ++ leBytes 2 (s.peerNode p) ++ more)

/-- A port goes down to a state without traffic. -/
def portDown (s : Chip) (p state : Nat) : Chip :=
  ((((s.setPortState p state).returnMessages p).setPortReg p 3 0).setPortReg p 4 0).setPortReg p 6 0

/-- Enter RETRAIN: lanes retrain, flits and credits are kept (R275). A NAK or AUDIT that waits to be sent is void after it; an
AUDIT_FAIL or POWER is not. -/
def enterRetrain (s : Chip) (p : Nat) : Chip :=
  if s.portLive p then
    ((s.bump (0x4100 + p) 0x11 1).updPort p (fun x => { x with
      lanesDone := false, control := x.control.filter (fun b => b.head? = some 4 || b.head? = some 6) })).setPortState p 6
  else s

/-- Width and lanes from the lanes that trained under LANE_MASK, R276; Dormant width is one lane. -/
def chooseLanes (l : Nat) (one : Bool) : Nat × List Nat :=
  let got := (List.range 4).filter (fun i => bit l i)
  if one then (min 1 got.length, got.take 1)
  else if got.length = 4 then (4, got)
  else if bit l 0 && bit l 1 then (2, [0, 1])
  else if bit l 2 && bit l 3 then (2, [2, 3])
  else (min 1 got.length, got.take 1)

/-- LANE_TRAINING_DONE: the lanes that trained on this side under LANE_MASK and on the peer's; each lane left out is logged once. -/
def lanesTrained (s : Chip) (p : Nat) (lanes peer : Nat) (g3 : Bool) : Chip :=
  let st := s.portReg p 2
  let x := s.port p
  let w := chooseLanes (Nat.land (Nat.land lanes (s.portReg p 5)) peer) x.dormant
  if !(st = 2 || st = 6) || w.1 = 0 || x.lanesDone then s
  else
    let left := (List.range 4).filter (fun i => !w.2.contains i)
    let s1 := (s.setPortReg p 3 w.1).setPortReg p 4 (if g3 || x.dormant then 1 else 2)
    let s2 := if x.dormant then s1
      else (left.filter (fun i => !x.leftOut.contains i)).foldl (fun (t : Chip) i => t.portEvent 0 p (leBytes 1 i)) s1
    let s3 := s2.updPort p (fun x => { x with lanesDone := true, leftOut := if x.dormant then x.leftOut else left })
    if st = 2 then s3.sendTraining p (s3.identBody p) else s3.sendResync p

/-- TRAINING_TIMEOUT: the sixteenth failure in succession makes the port FAILED. -/
def trainingFailed (s : Chip) (p : Nat) : Chip :=
  if s.portReg p 2 = 2 then
    let n := s.portReg p 0x12 + 1
    ((((s.setPortReg p 0x12 n).setPort p { dormant := (s.port p).dormant }).setPortState p (if 16 ≤ n then 7 else 1)).setPortReg p 3 0
      |>.setPortReg p 4 0).setPortReg p 6 0
  else s

/-- The role that a peer gives a port, R292. -/
def roleOf (s : Chip) (peer : Nat) : Nat :=
  if isEndpoint peer then 3 else if !isPackage peer then 0 else if sameGroup s.node peer then 1 else 2

/-- IDENT of a port in TRAINING: the peer, then RESYNC with full buffers and NEXT_FSEQ 0 (R274). -/
def onIdent (s : Chip) (p : Nat) (x : Ident) : Chip :=
  if s.portReg p 2 = 2 && (s.port p).lanesDone && !(s.port p).identDone then
    let s1 := ((((s.setPortReg p 7 x.node.toNat).setPortReg p 8 x.port.toNat).setPortReg p 9 x.generation.toNat).setPortReg p 6
      (s.roleOf x.node.toNat)).heardNode x.node.toNat x.serial.toNat
    let s2 := if x.generation = 3 then s1.setPortReg p 4 1 else s1
    (s2.setPort p { peerCaps := x.caps.toNat, peerSerial := x.serial.toNat, peerVersion := min 2 x.nifenVersion.toNat,
                    dormant := (s.port p).dormant, leftOut := (s.port p).leftOut, lanesDone := true, identDone := true }).sendResync p
  else s

/-- The roles of ports follow a new node number. -/
def renewRoles (s : Chip) : Chip :=
  (List.range 48).foldl (fun (t : Chip) p =>
    if t.portReg p 6 = 0 then t else t.setPortReg p 6 (t.roleOf (t.peerNode p))) s

/-- The live state of a width. -/
def liveState (s : Chip) (p : Nat) : Nat :=
  if (s.port p).dormant then 5 else if s.portReg p 3 = 4 then 3 else 4

/-- RESYNC: credits and replay start from what the receiver says, the port is live, and the whole database goes to its peer (R274,
R287, R303). -/
def onResync (s : Chip) (p next : Nat) (free : List Nat) : Chip :=
  let x := s.port p
  let st := s.portReg p 2
  if (st = 2 && x.identDone) || (st = 6 && x.lanesDone) then
    let keep := if st = 2 then [] else x.replay.dropWhile (fun f =>
      decide (0 < (next + 4096 - f.hdr.fseq.val) % 4096) && decide ((next + 4096 - f.hdr.fseq.val) % 4096 ≤ 2048))
    let s1 := s.setPort p { x with
      avail := free, credited := zeros48, replay := keep, resend := keep
      uncharged := (keep.filter (fun f => f.hdr.ftype = 0)).map (fun f => f.hdr.fseq.val)
      nextFseq := if st = 2 then next else x.nextFseq
      unacked := x.unacked.filter (fun u => keep.any (fun f => f.hdr.fseq.val = u.1))
      sinceAudit := 0, nakSent := false }
    let s2 := (s1.setPortReg p 0x12 0).setPortState p (s1.liveState p)
    s2.fab.lsdb.foldl (fun (t : Chip) r => t.queueMgmt p (.lsdb r (t.certOf r.node))) s2
  else s

/-- A write of PORT_ENABLE, R278. -/
def portEnable (s : Chip) (p : Nat) (on : Bool) : Chip :=
  let st := s.portReg p 2
  if on then (if st = 0 || st = 7 then ((s.setPortReg p 1 1).setPortReg p 0x12 0).setPortState p 1 else s)
  else
    let s1 := s.setPortReg p 1 0
    if s.portLive p then s1.setPortState p 8
    else if st = 0 || st = 8 then s1
    else s1.portDown p 0

/-! ## Receiving flits, R280, R282 and R286 -/

/-- Acknowledgement and credits of a header. -/
def useHeader (s : Chip) (p : Nat) (h : FlitHdr) : Chip :=
  s.updPort p (fun x =>
    let x1 := if h.ackValid then
        match dropAcked h.ackSeq.val x.replay with
        | some t => { x with replay := t, unacked := x.unacked.filter (fun u => t.any (fun f => f.hdr.fseq.val = u.1)) }
        | none => x
      else x
    if h.credVl.val < 6 then
      let i := bufIx h.credVl.val h.credHop.val
      { x1 with
        avail := x1.avail.modify i (· + h.credCount.toNat)
        credited := x1.credited.modify i (fun n => (n + h.credCount.toNat) % 65536) }
    else x1)

/-- Send an idle flit. -/
def sendIdle (s : Chip) (p : Nat) : Chip :=
  let r := s.buildFlit p 2 0 0 false false 0 []
  r.2.sendFlit p r.1

/-- Accept a sequenced flit, or answer the first bad or out-of-sequence one with NAK; `none` where it is discarded. -/
def acceptFlit (s : Chip) (p : Nat) (h : FlitHdr) (good : Bool) : Chip × Bool :=
  let x := s.port p
  if !s.carries p then (s, false)
  else if good && h.fseq.val = x.expected then
    let s1 := (s.useHeader p h).updPort p (fun x => { x with
      expected := (x.expected + 1) % 4096, nakSent := false, sinceAck := x.sinceAck + 1, ackOk := true })
    let s2 := s1.bump (0x4100 + p) 0x0B 1
    (if 64 ≤ (s2.port p).sinceAck then s2.sendIdle p else s2, true)
  else if x.nakSent then (s, false)
  else ((s.setPort p { x with nakSent := true }).sendControl p ([2] ++ leBytes 2 x.expected), false)

/-- A control flit of a live port. -/
def onControl (s : Chip) (p : Nat) (h : FlitHdr) (f : Chip → Chip) : Chip :=
  let r := s.acceptFlit p h (h.ftype = 1 && h.reserved = 0)
  if r.2 then f r.1 else r.1

/-- A data flit: it is held in its buffer; with its message's last flit the message leaves for its next hop and its entries
are free, but for those that stalled writes keep (R241). -/
def onDataFlit (s : Chip) (p : Nat) (f : Flit) : Chip :=
  let r := s.acceptFlit p f.hdr (Flit.good f && f.hdr.ftype = 0 && decide (f.hdr.vl.val < 6))
  if !r.2 then r.1
  else
    let i := bufIx f.hdr.vl.val f.hdr.hop.val
    let kept := ((s.fab.kept.filter (fun k => k.port = p && k.buffer = i)).map (·.flits)).sum
    r.1.updPort p (fun x =>
      let n := x.held.getD i 0 + 1 - kept
      if f.hdr.msgEnd then { x with held := x.held.set i kept, freed := x.freed.modify i (· + n) }
      else { x with held := x.held.set i (kept + n) })

def onIdle (s : Chip) (p : Nat) (f : Flit) : Chip :=
  if s.carries p && f.crc.toNat = flitCrc f.hdr f.body && f.hdr.ftype = 2 then s.useHeader p f.hdr else s

/-- NAK: resend from EXPECTED_FSEQ in order. -/
def onNak (s : Chip) (p want : Nat) : Chip :=
  let x := s.port p
  let r := x.replay.dropWhile (fun f => f.hdr.fseq.val ≠ want)
  (s.setPort p { x with resend := r }).bump (0x4100 + p) 0x0C r.length

/-- The first entry of an AUDIT that does not balance, R286. -/
def auditMismatch (x : Port) (entries : List (Nat × Nat)) : Option Nat :=
  (List.range 48).find? (fun i =>
    let e := entries.getD i (0, 0)
    e.1 + x.held.getD i 0 + x.freed.getD i 0 + (x.returned.getD i 0 + 65536 - e.2 % 65536) % 65536 ≠ bufSize i)

def onAudit (s : Chip) (p : Nat) (entries : List (Nat × Nat)) : Chip :=
  let x := s.port p
  let s1 := s.bump (0x4100 + p) 0x0F 1
  match auditMismatch x entries with
  | none => s1
  | some i =>
    let e := entries.getD i (0, 0)
    let sum := e.1 + x.held.getD i 0 + x.freed.getD i 0 + (x.returned.getD i 0 + 65536 - e.2 % 65536) % 65536
    let s2 := s1.sendControl p ([4] ++ leBytes 1 i ++ leBytes 2 e.1 ++ leBytes 2 e.2 ++ leBytes 2 (x.held.getD i 0)
      ++ leBytes 2 (x.freed.getD i 0) ++ leBytes 2 (x.returned.getD i 0))
    let s3 := s2.portEvent Code.checkMismatch p (leBytes 1 i ++ leBytes 4 (wrapTo 32 ((sum : Int) - (bufSize i : Int))))
    (s3.bump (0x4100 + p) 0x10 1).enterRetrain p

/-- POWER: the peer asks for Dormant width or for full width. A port that is retraining already trains its lanes for it. -/
def onPower (s : Chip) (p : Nat) (on : Bool) : Chip :=
  (s.updPort p (fun x => { x with dormant := on, lanesDone := x.lanesDone && s.portReg p 2 ≠ 6 })).enterRetrain p

/-- This package enters or leaves Dormant: every live port sends POWER and retrains; so does, on the wake, one that is retraining
to Dormant width. A wake leaves no port at Dormant width (R300). -/
def powerPorts (s : Chip) (on : Bool) : Chip :=
  (List.range 48).foldl (fun (t : Chip) p =>
    if t.portLive p || (!on && t.portReg p 2 = 6 && (t.port p).dormant) then (t.sendControl p [6, if on then 1 else 0]).onPower p on
    else if on then t else t.updPort p (fun x => { x with dormant := false })) s

/-! ## One flit slot, R284 -/

/-- The first message of a lane that can send: the higher hop class first, with a credit. -/
def sendable (x : Port) (vl : Nat) : Option QMsg :=
  ([7, 6, 5, 4, 3, 2, 1, 0].filterMap (fun hop =>
    match x.queue.find? (fun q => q.vl = vl && q.hop = hop) with
    | some q => if 0 < x.avail.getD (bufIx vl hop) 0 then some q else none
    | none => none)).head?

/-- Lanes of the weighted round robin in its order: response, request, collective, bulk. -/
def roundLanes : List Nat := [1, 0, 2, 3]

/-- The lane that the round robin serves and the weights left; the weights start again when no lane that can send has any. -/
def robin (x : Port) : Option (Nat × List Nat) :=
  let can := fun vl => (sendable x vl).isSome
  let pickFrom (w : List Nat) : Option Nat := (List.range 4).find? (fun i => 0 < w.getD i 0 && can (roundLanes.getD i 0))
  match pickFrom x.weights with
  | some i => some (roundLanes.getD i 0, x.weights.modify i (· - 1))
  | none =>
    match pickFrom [4, 3, 3, 2] with
    | some i => some (roundLanes.getD i 0, ([4, 3, 3, 2] : List Nat).modify i (· - 1))
    | none => none

/-- The lane of the next slot, the weights and the slots of the management lane (R284). A package whose other lanes are closed
carries the management and safety lanes alone (R289). -/
def arbitrate (open_ : Bool) (x : Port) : Option (Nat × List Nat × List Nat) :=
  let recent := x.mgmt.filter (fun n => x.slot < n + 256)
  if (sendable x 5).isSome then some (5, x.weights, recent)
  else if (sendable x 4).isSome && recent.length < 16 then some (4, x.weights, recent ++ [x.slot])
  else if open_ then (robin x).map (fun r => (r.1, r.2, recent))
  else none

/-- The first queued message of a buffer has sent one flit more; with its last flit it leaves the queue. -/
def advanceQueue (vl hop : Nat) (f : QMsg → Option QMsg) : List QMsg → List QMsg
  | [] => []
  | q :: t => if q.vl = vl && q.hop = hop then (match f q with | some r => r :: t | none => t) else q :: advanceQueue vl hop f t

/-- Send the next flit of the message that the arbitration chose. -/
def sendNext (s : Chip) (p : Nat) (q : QMsg) : Chip :=
  let seq := (s.port p).nextFseq
  let n := flitsOf q.bytes.length
  let last := decide (q.sent + 1 = n)
  let s1 := s.sendSequenced p 0 q.vl q.hop (q.sent = 0) last ((q.bytes.drop (244 * q.sent)).take 244)
  s1.updPort p (fun x => { x with
    avail := x.avail.modify (bufIx q.vl q.hop) (· - 1)
    queue := advanceQueue q.vl q.hop (fun r => if last then none else some { r with sent := r.sent + 1 }) x.queue
    unacked := if last then x.unacked ++ [(seq, q)] else x.unacked })

/-- FLIT_SLOT: resent flits first, then control flits, then the lanes; otherwise an idle flit. -/
def flitSlot (s : Chip) (p : Nat) : Chip :=
  if !s.carries p then s
  else
    let s0 := s.updPort p (fun x => { x with slot := x.slot + 1 })
    let x := s0.port p
    match x.resend with
    | f :: t =>
      let i := bufIx f.hdr.vl.val f.hdr.hop.val
      let owes := x.uncharged.contains f.hdr.fseq.val
      if owes && x.avail.getD i 0 = 0 then s0.sendIdle p
      else
        let s1 := s0.setPort p { x with
          resend := t, uncharged := x.uncharged.filter (· ≠ f.hdr.fseq.val)
          avail := if owes then x.avail.modify i (· - 1) else x.avail }
        s1.sendFlit p f
    | [] =>
      if 2048 ≤ x.replay.length then s0.sendIdle p
      else match x.control with
        | c :: t => (s0.setPort p { x with control := t }).sendSequenced p 1 0 0 true true (s0.controlBody p c)
        | [] =>
          match arbitrate (s0.laneOpen 0) x with
          | none => s0.sendIdle p
          | some (vl, w, m) =>
            match sendable x vl with
            | some q => (s0.setPort p { x with weights := w, mgmt := m }).sendNext p q
            | none => s0.sendIdle p

/-- AUDIT_DUE after 2^20 sequenced flits; not in RETRAIN (R286). -/
def auditDue (s : Chip) (p : Nat) : Chip :=
  if s.portLive p && decide (2 ^ 20 ≤ (s.port p).sinceAudit) then
    (s.updPort p (fun x => { x with sinceAudit := 0 })).sendControl p [3]
  else s

/-- Ports that a reference input of a Ridge die serves, R440. -/
def portsOfRef (r input : Nat) : List Nat := List.range' (24 * r + 12 * input) 12

/-- A port whose reference is lost goes to DETECT. -/
def refLost (s : Chip) (p : Nat) : Chip :=
  let st := s.portReg p 2
  if st = 0 || st = 1 || st = 7 then s
  else
    let s1 := if s.portLive p || st = 6 then s.portEvent Code.pathLost p [] else s
    s1.portDown p 1

/-! ## The host link, R298 and R299 -/

/-- BRIDGE_ACTIVE and BRIDGE_CONFLICT follow HOST_LINK. -/
def setHostLink (s : Chip) (v : Nat) : Chip := (s.setReg 0x4010 3 v).bridgeStatus

/-- The endpoint of a package with BRIDGE_EN high trains while PERST_N is high (R298). -/
def trainHost (s : Chip) (perstN : Bool) : Chip :=
  if perstN && s.reg 0x4010 1 = 1 && s.reg 0x4010 3 = 0 then s.setHostLink 1 else s

/-- PERST_N resets the endpoint with its rings. -/
def resetEndpoint (s : Chip) : Chip :=
  { s.setHostLink 0 with dap := { s.dap with h2p := 0, p2h := 0, p2hValid := [] } }

end Chip

end Sys2Proof.Machine
end

