-- ==== Sys2Proof/Machine/Power.lean ====
section
/-! DEFINITION. Reset, boot, bring-up, power and sleep (spec/17_power_clocks_and_bringup.md R443 to R458,
spec/18_safety_and_security.md R463, R473, spec/19_package_and_signals.md R484, R485, R491). -/

namespace Sys2Proof.Machine

/-! ## Boot images, R473 -/

/-- A component at the front of an image: header, content and signature; `none` where the bytes are not one. -/
def takeComponent (b : List Byte) : Option (Component × List Byte) :=
  let n := field b 12 4
  if field b 0 4 = 0x42504D43 && decide (64 + n + 4627 ≤ b.length) then
    some ({ magic := 0x42504D43, id := BitVec.ofNat 16 (field b 4 2), version := BitVec.ofNat 32 (field b 8 4)
            length := BitVec.ofNat 32 n, content := (b.drop 64).take n, signature := (b.drop (64 + n)).take 4627 },
      b.drop (64 + n + 4627))
  else none

/-- The components of an image, up to 32. -/
def components : Nat → List Byte → List Component
  | 0, _ => []
  | n + 1, b =>
    match takeComponent b with
    | some (c, t) => c :: components n t
    | none => []

def componentHeader (c : Component) : List Byte :=
  leBytes 4 c.magic.toNat ++ leBytes 2 c.id.toNat ++ [0, 0] ++ leBytes 4 c.version.toNat ++ leBytes 4 c.length.toNat
    ++ List.replicate 48 0

/-- The floor of a firmware component: Burist first, then the seven die versions (R474). -/
def floorIx (id : Nat) : Nat := id - 1

/-- The RESULT of a component: signature, then floor. -/
def componentResult (floors : List U32) (c : Component) : Nat :=
  if !Config.verify Config.firmwareKey (componentHeader c ++ sha3_512 c.content) c.signature then 1
  else if c.id.toNat ≤ 8 && decide (c.version.toNat < (floors.getD (floorIx c.id.toNat) 0).toNat) then 2
  else 0

namespace Chip

/-- Append an entry to the measurement log and extend the measurement. -/
def measure (s : Chip) (c : Component) (source result : Nat) : Chip :=
  let e := leBytes 2 c.id.toNat ++ leBytes 1 source ++ leBytes 1 result ++ leBytes 4 c.version.toNat ++ sha3_512 c.content
    ++ List.replicate 8 0
  { s with boot := { s.boot with
    measurement := sha3_512 (s.boot.measurement ++ e)
    mlog := if s.boot.mlog.length < 32 then s.boot.mlog ++ [e] else s.boot.mlog } }

/-- The ROM works through the firmware components in the order of R473; it stops at the first that is not accepted. -/
def bootParts (source : Nat) (image : List Component) : List Nat → Chip → Bool × Chip
  | [], s => (true, s)
  | id :: t, s =>
    match image.find? (fun c => c.id.toNat = id) with
    | none => (false, s)
    | some c =>
      let r := componentResult s.flash.floors c
      let s1 := s.measure c source r
      if r ≠ 0 then (false, s1)
      else bootParts source image t { s1 with boot := { s1.boot with
        versions := s1.boot.versions.set (floorIx id) c.version } }

/-- Verify an image. With all firmware accepted, a bundle component is measured and kept, and Burist starts (R451 to R454,
R473). -/
def bootImage (s : Chip) (source : Nat) (image : List Component) : Bool × Chip :=
  let r := bootParts source image [2, 5, 6, 7, 8, 3, 4, 1] s
  if !r.1 then r
  else
    let s1 := match image.find? (fun c => c.id = 0x10) with
      | some c =>
        let t := r.2.measure c source 0
        { t with boot := { t.boot with bundle := some c.content } }
      | none => r.2
    (true, (s1.setReg 0x2300 4 1).setReg 0x7800 1 1)

/-- Boot from flash: a fallback sets BOOT_SOURCE [7]; where flash fails too, the ROM stays and FAILED bit 0 is set. -/
def bootFlash (s : Chip) (fallback : Bool) : Chip :=
  let s0 := if fallback then s.setReg 0x2300 3 (s.reg 0x2300 3 % 128 + 128) else s
  let r := s0.bootImage 0 s0.flash.image
  if r.1 then r.2 else (r.2.setReg 0x2300 2 (Nat.lor (r.2.reg 0x2300 2) 1)).setReg 0x7800 1 2

/-- ROM sessions close when Burist starts, and the staging is Burist's (R452). -/
def endRom (s : Chip) : Chip :=
  { s.setReg 0x6010 1 0 with dap := { s.dap with sessions := [] }, staging := {} }

/-- BOOT_COMMIT: the staged image, or flash where it fails (R451). -/
def bootCommit (s : Chip) : Chip :=
  let n := s.reg 0x6010 1
  let r := s.bootImage (s.reg 0x2300 3 % 4) (components 32 (SMap.getRange 0 s.staging.data 0 n))
  if r.1 then r.2.endRom
  else
    let t := r.2.bootFlash true
    if t.reg 0x2300 4 = 0 then t else t.endRom

/-- The state of the chip after a reset: flash and LAST_TRIP stay (R450), and so does the loss of the 25 MHz reference, which holds until
PG_IN falls (R462); with `lost` the always-on rail has gone, and with it these two. -/
def afterReset (s : Chip) (lost : Bool) : Chip :=
  { free := s.free + 1, flash := s.flash
    power := if lost then {} else { lastTrip := s.power.lastTrip }
    mon := if lost then {} else { refLost := s.mon.refLost, clockFault := s.mon.refLost } }

/-- GROUP and MEMBER follow the node number, R290. -/
def setNode (s : Chip) (n : Nat) : Chip :=
  ((s.setReg 0x4001 1 n).setReg 0x4002 1 (if isPackage n then groupOf n else 0xFFFF)).setReg 0x4002 2
    (if isPackage n then n % 24 else 0xFF)

/-- The defaults that depend on straps, part and flash at the release of reset. -/
def sampled (s : Chip) (x : Straps) (lf : Bool) : Chip :=
  let part := lf || x.safeEn
  let s1 := s.flash.disabled.foldl (fun (t : Chip) u => t.setReg (unitIndex u).1 (unitIndex u).2 0) s
  let s2 := (((s1.setNode s1.flash.node).setReg 0x2010 1 (boolNat x.modeG3)).setReg 0x7000 1 (boolNat part)).setReg 0x7800 0x0A
    (boolNat part)
  let s3 := ((s2.setReg 0x4010 1 (boolNat x.bridgeEn)).setReg 0x2300 5
    (boolNat x.modeG3 + 2 * boolNat x.bridgeEn + 4 * boolNat x.safeEn + 8 * x.bootSrc.val)).setReg 0x2300 3 x.bootSrc.val
  s3.setReg 0x7800 0x0D s3.flash.advances

/-! ## Bring-up, R453 to R455, R463 -/

/-- Bits of READY that a package must settle: the host link only on a bridge package. -/
def bringupBits (s : Chip) : List Nat := (List.range 24).filter (fun b => b ≠ 21 || s.reg 0x4010 1 = 1)

/-- SAFE_STATE_N is released at the end of start-up (R463). -/
def startupRelease (s : Chip) : Chip :=
  let ready := s.reg 0x2300 1
  if s.reg 0x7000 2 = 1 && s.reg 0x7000 3 = 0 && s.reg 0x2300 4 = 3 && !s.mon.refLost && !bit (s.reg 0x2300 2) 22
      && (!s.partition || bit ready 22) then s.setReg 0x7000 2 0
  else s

/-- A test of a function ends: failed units are disabled as by a fault, and its bit is set over the units that remain. -/
def bringup (s : Chip) (b : Nat) (failed : List UnitRef) (usable : Bool) : Chip :=
  let ph := s.reg 0x2300 4
  if !(ph = 2 || (ph = 1 && b = 0)) then s
  else
    let s1 := failed.foldl (fun (t : Chip) u => (t.changeUnit u 2).changeUnit u 0) s
    let s2 := if usable then s1.setReg 0x2300 1 (Nat.lor (s1.reg 0x2300 1) (2 ^ b))
      else s1.setReg 0x2300 2 (Nat.lor (s1.reg 0x2300 2) (2 ^ b))
    let s3 := if b = 0 then s2.setReg 0x2300 4 2 else s2
    let s4 := if b = 18 || b = 19 then
        (List.range' (24 * (b - 18)) 24).foldl (fun (t : Chip) p =>
          if usable && t.portReg p 1 = 1 && t.portReg p 2 = 0 then t.setPortState p 1 else t) s3
      else s3
    let done := Nat.lor (s4.reg 0x2300 1) (s4.reg 0x2300 2)
    if s4.reg 0x2300 4 = 2 && s4.bringupBits.all (fun i => bit done i) then (s4.setReg 0x2300 4 3).startupRelease else s4

/-! ## Throttling, R443, R447 and R448 -/

def floor (s : Chip) : Nat := s.reg 0x2100 3

/-- Every Slate die goes to THROTTLE_FLOOR. -/
def holdFloor (s : Chip) : Chip :=
  { s with power := { s.power with slateStep := List.replicate 4 s.floor } }

/-- Set or clear a bit of THROTTLE_STATE. -/
def throttleBit (s : Chip) (i : Nat) (b : Bool) : Chip :=
  let v := s.reg 0x2100 9
  s.setReg 0x2100 9 (if b then Nat.lor v (2 ^ i) else if bit v i then v - 2 ^ i else v)

/-- The input lies within 48 to 52 V or 72 to 75 V. -/
def inputBand (vin : Nat) : Bool :=
  let v := f32 vin
  (FVal.le (FVal.ofInt 48) v && FVal.lt v (FVal.ofInt 52)) || (FVal.lt (FVal.ofInt 72) v && FVal.le v (FVal.ofInt 75))

/-- ALERT_N is asserted: throttling, or the safe state (R448, R463). -/
def alert (s : Chip) : Bool := s.reg 0x2100 9 ≠ 0 || s.safe

/-- INPUT_OUT_OF_RANGE. -/
def inputOutOfRange (s : Chip) (vin : Nat) : Chip :=
  if inputBand vin then
    let s1 := (s.setReg 0x2100 4 vin).throttleBit 3 true
    ({ s1 with power := { s1.power with vinBand := true } }).holdFloor
  else s

/-- Junction temperature of a die in units of 1/16 °C. -/
def tjOf (tj : List U16) (i : Nat) : Int := (tj.getD i 0).toInt

/-- A reading refreshes the power object; the peak condition acts at once (R448). -/
def reading (s : Chip) (r : Readings) : Chip :=
  let peak := r.overLimit20ms || FVal.lt (FVal.ofInt 3800) (f32 r.pin.toNat)
  let s1 := (((s.setReg 0x2100 4 r.vin.toNat).setReg 0x2100 5 r.iin.toNat).setReg 0x2100 6 r.pin.toNat).setReg 0x2100 7 r.energy.toNat
  let s2 := { s1 with power := { s1.power with
    tj := (List.range 7).map (fun i => r.tj.getD i 0), vinBand := inputBand r.vin.toNat, peak := peak } }
  let s3 := if inputBand r.vin.toNat then (s2.throttleBit 3 true).holdFloor else s2
  if peak then
    let s4 := (s3.throttleBit 2 true).holdFloor
    if s.power.peak then s4 else s4.setReg 0x2100 8 (s4.reg 0x2100 8 + 1)
  else s3

/-- Some die is at 105 °C or above (R449). -/
def tripping (s : Chip) : Option Nat := (List.range 7).find? (fun i => decide (1680 ≤ tjOf s.power.tj i))

/-- STEP_DECISION of Slate die d: the lowest k of the rows that apply. -/
def stepDecision (s : Chip) (d : Nat) (hotAvg : Bool) : Chip :=
  let tj := s.power.tj
  let shared := (List.range' 4 3).any (fun i => decide (1600 ≤ tjOf tj i))
  let hot := decide (1600 ≤ tjOf tj d) || shared
  let anyHot := shared || (List.range 4).any (fun i => decide (1600 ≤ tjOf tj i))
  let cool := decide (tjOf tj d ≤ 1552) && (List.range' 4 3).all (fun i => decide (tjOf tj i ≤ 1552))
  let k := s.power.slateStep.getD d 16
  let down := max (k - 1) s.floor
  let k1 := if s.power.peak || s.power.vinBand then s.floor
    else if hot || hotAvg then down
    else if cool then min (k + 1) 16 else k
  let s1 := { s with power := { s.power with slateStep := s.power.slateStep.set d k1 } }
  ((((s1.throttleBit 0 anyHot).throttleBit 1 hotAvg).throttleBit 2 s.power.peak).throttleBit 3 s.power.vinBand)

/-- CLUSTER_POWER_RAMP: the next cluster moves between idle and full power (R446). -/
def rampCluster (s : Chip) : Chip :=
  match s.power.ramps with
  | [] => s
  | (k, up) :: t => { s with power := { s.power with ramps := t, clusterOn := SMap.set false s.power.clusterOn k up } }

/-! ## Dormant, R456 to R458 -/

/-- The wake begins: ports leave Dormant width. -/
def beginWake (s : Chip) : Chip := (s.setReg 0x2200 2 3).powerPorts false

/-- SLEEP_ENTRY_DONE: local memory, tile registers, array storage and the clusters' caches are lost; a wake that came meanwhile follows. -/
def sleepEntered (s : Chip) : Chip :=
  if s.reg 0x2200 2 ≠ 1 then s
  else
    let s1 := { s with
      mem := s.mem.filter (fun p => decide (p.1 < hbmEnd))
      poison := s.poison.filter (fun p => decide (64 * p.1 < hbmEnd))
      tiles := [], preds := [], arrays := [], fab := { s.fab with lines := [] } }
    let s2 := (s1.setReg 0x2200 2 2).bump 0x2200 3 1
    if s2.reg 0x2200 1 = 0 || !s2.cmds.isEmpty then s2.beginWake else s2

end Chip

/-! ## Pins and rails -/

/-- An instruction loaded into the TAP, R491. -/
def tapLoad (resetHigh : Bool) (x : TapOp) : TapOp :=
  match x with
  | .idcode => .idcode
  | .other => .bypass
  | x => if resetHigh then .bypass else x

/-- The record of LAST_TRIP, R447: cause, die, temperature, input voltage and the always-on count, which is free. For a
cause other than the thermal one the manual gives DIE and temperature no meaning: they are free. -/
def tripRecord (s : Chip) (cause : TripCause) (vin : Nat) : List Byte :=
  let c := match cause with | .thermal => 1 | .undervoltage => 2 | .overvoltage => 3 | .pgIn => 4
  let die := (Chip.tripping s).getD (Config.freeChoice s.free 5 % 7)
  let temp := match cause with
    | .thermal => (s.power.tj.getD die 0).toNat
    | _ => Config.freeChoice s.free 6 % 65536
  leBytes 1 c ++ leBytes 1 die ++ leBytes 2 temp ++ leBytes 4 vin ++ leBytes 8 (Config.freeCycles s.free 7).toNat

/-- POWER_DOWN: SAFE_STATE_N asserts and every rail but always-on goes off (R445). Below 36 V that rail goes too, and with
it LAST_TRIP (R447, R485). -/
def powerDown (s : State) (cause : TripCause) (vin : Nat) : State :=
  let down := s.plat.rails ≤ 1 && !s.plat.rising
  let dead := FVal.lt (f32 vin) (FVal.ofInt 36)
  let rec_ := if down then s.chip.power.lastTrip else tripRecord s.chip cause vin
  let low := cause = .pgIn
  { s with
    chip := { s.chip.afterReset (dead || low) with
      power := if dead then {} else { lastTrip := rec_ } }
    plat := { s.plat with
      rails := if dead then 0 else min s.plat.rails 1
      rising := false, running := false
      pgIn := s.plat.pgIn && !low
      latched := if low || dead then false else if down then s.plat.latched else true
      thermTrip := if low || dead then false else s.plat.thermTrip || cause = .thermal } }

/-- RESET_RELEASE: the straps are sampled, the TAP leaves EXTEST, CLAMP and HIGHZ, and boot starts (R450, R451, R485). -/
def releaseReset (s : State) (x : Straps) : State :=
  if s.plat.rails = 5 && !s.plat.running then
    let c := ((s.chip.afterReset false).sampled x s.plat.lf).trainHost s.plat.perstN
    { s with
      chip := if x.bootSrc.val = 0 then c.bootFlash false else c
      plat := { s.plat with
        resetN := true, running := true, straps := x
        tap := match s.plat.tap with | .idcode => .idcode | _ => .bypass } }
  else s

end Sys2Proof.Machine
end

