-- ==== Sys2Proof/Machine/Admit.lean ====
section
/-! DEFINITION. Admission and the end of a job: availability and reservation, lowering and commit
(spec/02_execution_contract.md R47 to R55, R58, R59; spec/08_memory_hierarchy.md R219; spec/09_synchronisation.md R262, R263;
spec/12_collectives.md R333; spec/13_field_exchange_and_check_values.md R369; spec/15_jobs_and_checkpoints.md R386, R399). -/

namespace Sys2Proof.Machine

/-! ## Sizes and places of tensors, R44, R219 -/

/-- What a tensor takes: Slate stack and bytes of each piece, then of a scale plane placed apart. -/
def tensorItems (t : Tensor) : List (Nat × Nat) :=
  let n := max 1 t.splitCount
  let e := Bundle.elemBytes t / n
  let sc := Bundle.scaleBytes t / n
  let one := if t.scalePlace = 1 || sc = 0 then e else e + sc
  (List.range n).map (fun i => (t.stack + i, one)) ++ (if t.scalePlace = 1 then [(t.scaleStack, Bundle.scaleBytes t)] else [])

/-- Bytes that the tensors of a region class take on Slate stack d, in 2 MiB units. -/
def classBytes (ts : List Tensor) (cls d : Nat) : Nat :=
  ((ts.filter (fun t => t.region = cls)).flatMap tensorItems).foldl (fun n i => if i.1 = d then n + Bundle.unit2M i.2 else n) 0

/-- Put a tensor's items behind what its regions already hold: `base` gives a region's first offset by stack. -/
def placeTensor (base : Nat → Nat → Nat) (cur : SMap Nat) (t : Tensor) : Tensor × SMap Nat :=
  let step (a : List Nat × SMap Nat) (i : Nat × Nat) : List Nat × SMap Nat :=
    let k := 2 * i.1 + (t.region - 1)
    let at_ := SMap.get 0 a.2 k
    (a.1 ++ [base i.1 (t.region - 1) + at_], SMap.set 0 a.2 k (at_ + Bundle.unit2M i.2))
  let r := (tensorItems t).foldl step ([], cur)
  let n := max 1 t.splitCount
  let e := Bundle.elemBytes t / n
  let coarse : U32 := if (Fmt.ofCode t.fmt).hasCoarse then t.coarse else 0x3F800000
  ({ t with
      coarse := coarse
      pieces := (List.range n).map (fun i =>
        (r.1.getD i 0, if t.scalePlace = 1 then r.1.getD n 0 else r.1.getD i 0 + e)) }, r.2)

def placeTensors (base : Nat → Nat → Nat) : SMap Nat → List Tensor → List Tensor
  | _, [] => []
  | cur, t :: l => let r := placeTensor base cur t; r.1 :: placeTensors base r.2 l

/-- Piece i of n of a plane that consists of `runs` runs along the split dimension. -/
def splitPiece (runs n i : Nat) (b : List Byte) : List Byte :=
  let c := b.length / max 1 runs
  (List.range runs).flatMap (fun o => Bundle.slice b (o * c + i * c / n) (c / n))

/-- The runs along the split dimension of the element plane and of the scale plane: what lies outside it, with the rows and block
rows as R65 and R66 pad them where the innermost dimension is split. -/
def splitRuns (t : Tensor) : Nat × Nat :=
  if t.splitCount = 0 then (1, 1)
  else if t.splitDim = 5 then
    (Bundle.outer t * (Fmt.ofCode t.fmt).paddedRows (Bundle.dim t 4), Bundle.outer t * Bundle.scaleRows t)
  else ((t.dims.take t.splitDim).foldl (· * ·) 1, (t.dims.take t.splitDim).foldl (· * ·) 1)

/-- The planes of a tensor, elements then scales, as ranges of its pieces. -/
def tensorRanges (t : Tensor) (b : List Byte) : List (Nat × List Byte) :=
  let n := max 1 t.splitCount
  let runs := splitRuns t
  let e := b.take (Bundle.elemBytes t)
  let sc := b.drop (Bundle.elemBytes t)
  (List.range n).map (fun i => ((t.pieces.getD i (0, 0)).1, splitPiece runs.1 n i e))
    ++ (if sc.isEmpty then [] else if t.scalePlace = 1 then [((t.pieces.getD 0 (0, 0)).2, sc)]
      else (List.range n).map (fun i => ((t.pieces.getD i (0, 0)).2, splitPiece runs.2 n i sc)))

/-! ## Copies of controlled weights, R150, R151, R176 -/

/-- Rows and columns of one piece of a tensor. -/
def pieceShape (t : Tensor) : Nat × Nat :=
  let n := max 1 t.splitCount
  (Bundle.outer t * Bundle.dim t 4 / (if t.splitDim = 5 then 1 else n), Bundle.dim t 5 / (if t.splitDim = 5 then n else 1))

/-- A piece of a controlled weight, with its entry and the places of its copies. -/
structure WeightPiece where
  tensor : Tensor
  piece : Nat
  entry : TrainEntry
  copy : Config.WeightCopy
  deriving DecidableEq, Repr

/-- The pieces of the controlled weights among the entries of a TRAINING record, by entry and piece. -/
def weightCopies (inp : Config.LowerInput) (es : List TrainEntry) (ts : List Tensor) : List WeightPiece :=
  (SMap.number 0 es).flatMap (fun e =>
    match (if e.2.kind = 0 then ts.find? (fun t => t.id = e.2.tensor) else none) with
    | none => []
    | some t => (List.range (max 1 t.splitCount)).map (fun i => ⟨t, i, e.2, Config.ptoCopies inp e.1 i⟩))

/-- Bytes of a piece in a format: its elements and its fine scales. -/
def pieceBytes (t : Tensor) (code : Nat) : Nat :=
  let f := Fmt.ofCode code
  let m := pieceShape t
  f.paddedRows m.1 * f.rowBytes m.2 + f.scaleCount m.1 m.2

/-- HBM of the copies of a weight piece that its entry's CEILING allows: PB4_SQ with its conversion block, published again where the
job evaluates, and BF16 of a FP32 master whose CEILING is 1 or 2 (R150, R176). -/
def copyBytes (evals : Bool) (w : WeightPiece) : Nat :=
  let sq := roundUp (pieceBytes w.tensor 0x21) 64
  sq + 64 + (if evals then sq else 0)
    + (if w.entry.weightClass = 0 && decide (1 ≤ w.entry.ceiling) then roundUp (pieceBytes w.tensor 0x03) 64 else 0)

/-! ## Lowering, R52 to R55 -/

/-- Objects of core c that a bundle names: EXCHANGE_OBJECTS, the TRAINING objects and those of the role's program (R262). -/
def namedOn (b : List Byte) (inp : Config.LowerInput) (role c : Nat) : List Nat :=
  let refs := (Bundle.exchange b).map objOfRef
    ++ (match Bundle.rec? b 0x0C with | some v => let t := Bundle.training v; [t.doneObj, t.decisionObj, t.stepObj] | none => [])
    ++ Config.ptoNamed inp role
  ((refs.filter (fun o => o < 16384 && o / 64 = c)).map (· % 64)).eraseDups

/-- The index that PTO event e takes on core c. -/
def eventObj (b : List Byte) (inp : Config.LowerInput) (role c e : Nat) : Nat :=
  64 * c + ((List.range 64).filter (fun i => !(namedOn b inp role c).contains i)).getD e 0

/-- The Slate stack of an engine under R33: that of the end with more bytes, the source's where they are equal. -/
def widerStack (b : List Byte) (src dst : Nat) : Nat :=
  match Bundle.tensor? b src, Bundle.tensor? b dst with
  | some x, some y => if Bundle.tensorBytes y ≤ Bundle.tensorBytes x then x.stack else y.stack
  | _, _ => 0

def fieldStack (b : List Byte) (i : Nat) : Nat := ((Bundle.tensor? b ((Bundle.fields b).getD i 0)).map (·.stack)).getD 0

/-- The Slate stacks of G_FWD, V_FWD, G_RET and V_RET. One engine and one channel serve both parities of a direction, so the buffers
of parity 0 give the stack where those of parity 1 lie on another (DESIGN CHOICE, log entry 85: R33 and R369 do not require the
two to lie on one stack). -/
def bindStacks (b : List Byte) : List Nat :=
  let f (i : Nat) : Nat := (Bundle.fields b).getD i 0
  [widerStack b (f 0) (f 4), fieldStack b 4, widerStack b (f 2) (f 6), fieldStack b 6]

/-- The lowest held channel still free on each stack in turn, R369. -/
def bindChannels (held : BitVec 256) : List Nat → List Nat → Option (List Nat)
  | _, [] => some []
  | used, d :: t =>
    match (List.range' (48 * d) 48).find? (fun n => held.getLsbD n && !used.contains n) with
    | some n => (bindChannels held (n :: used) t).map (n :: ·)
    | none => none

/-- Place communicators on Batten dies: the most free staging, the lowest number among equals (R333). `load` counts the
communicators on each die. -/
def placeComms : List Nat → List (Nat × List Nat × Nat × Bool) → Option (List Comm)
  | _, [] => some []
  | load, (n, ms, core, own) :: t =>
    if !own then (placeComms load t).map (⟨n, ms, core, 0⟩ :: ·)
    else
      let least := (load.min?).getD 0
      let d := load.idxOf least
      if 16 ≤ least then none else (placeComms (load.modify d (· + 1)) t).map (⟨n, ms, core, d⟩ :: ·)

namespace Chip

/-! ## Free HBM -/

/-- Bytes of Slate stack d that jobs declare, that regions of ended jobs still take, or that are staged. -/
def hbmTaken (s : Chip) (d : Nat) : Nat :=
  (List.range 8).foldl (fun n j => n + (match s.job j with
    | some x => x.res.hbm.getD d 0
    | none => s.reg (0x5100 + 8 * j + 2 * d) 2 + s.reg (0x5100 + 8 * j + 2 * d + 1) 2)) 0
    + s.staging.share.getD d 0 + (s.casts.map (fun c => c.share.getD d 0)).sum

/-- Free HBM of Slate stack d; 2 MiB of stack 3 are the dump's (R268). -/
def hbmFree (s : Chip) (d : Nat) : Nat := stackBytes - (if d = 3 then 0x200000 else 0) - s.hbmTaken d

/-- Spread n staged bytes over the stacks, from a stack the device chooses on; `none` where they do not fit. -/
def spreadHbm (s : Chip) (n : Nat) : Option (List Nat) :=
  let k := Config.freeChoice s.free 50
  let r := (List.range 4).foldl (fun (a : List Nat × Nat) i =>
    let d := (k + i) % 4
    let x := min a.2 (s.hbmFree d)
    (a.1.set d x, a.2 - x)) ([0, 0, 0, 0], n)
  if r.2 = 0 then some r.1 else none

/-- Regions now allocated on Slate stack d, by base. -/
def regionsOn (s : Chip) (d : Nat) : List (Nat × Nat) :=
  (((List.range 64).filter (fun i => i % 8 / 2 = d && s.reg (0x5100 + i) 2 ≠ 0)).map (fun i =>
    (s.reg (0x5100 + i) 1, s.reg (0x5100 + i) 2))).mergeSort (fun x y => x.1 ≤ y.1)

/-- Gaps of [from, end) between rising ranges. -/
def gapsOf (last : Nat) : Nat → List (Nat × Nat) → List (Nat × Nat)
  | pos, [] => [(pos, last - pos)]
  | pos, (a, n) :: t => (pos, a - pos) :: gapsOf last (a + n) t

/-- A place for a region of n bytes on stack d, clear of the ranges `more`: the `pick`th of the 2 MiB units where it fits. -/
def placeRegion (s : Chip) (d n pick : Nat) (more : List (Nat × Nat)) : Option Nat :=
  let last := (d + 1) * stackBytes - (if d = 3 then 0x200000 else 0)
  let all := (s.regionsOn d ++ more).mergeSort (fun x y => x.1 ≤ y.1)
  let gaps := (gapsOf last (d * stackBytes) all).filter (fun g => n ≤ g.2)
  let count := gaps.foldl (fun k g => k + ((g.2 - n) / 0x200000 + 1)) 0
  let rec at_ : Nat → List (Nat × Nat) → Nat
    | _, [] => 0
    | i, g :: t => let c := (g.2 - n) / 0x200000 + 1; if i < c then g.1 + i * 0x200000 else at_ (i - c) t
  if count = 0 then none else some (at_ (pick % count) gaps)

/-! ## Stage 6, R49, R455 -/

def readyBit (s : Chip) (b : Nat) : Bool := bit (s.reg 0x2300 1) b

def coreFree (s : Chip) (c : Nat) : Bool :=
  s.coreState c = 1 && s.arrayState c 0 = 1 && s.arrayState c 1 = 1 && s.slotOfCore c = 0xFF && s.readyBit (2 + c / 64)
def solverFree (s : Chip) (k : Nat) : Bool := s.solverState k = 1 && s.slotOfSolver k = 0xFF && s.readyBit (2 + k / 16)
def channelFree (s : Chip) (n : Nat) : Bool :=
  s.channelState n = 1 && s.slotOfChannel n = 0xFF && s.readyBit (if n < 192 then 2 + n / 48 else 0)
def engineFree (s : Chip) (e : Nat) : Bool := s.engineState e = 1 && s.readyBit (2 + e / 32)

/-- The lowest slot that holds no job and whose regions have been freed. -/
def freeSlot (s : Chip) : Option Nat :=
  (List.range 8).find? (fun j => (s.job j).isNone && (List.range 8).all (fun i => s.reg (0x5100 + 8 * j + i) 2 = 0))

/-- HBM of the four stacks by a declaration, with the readiness of their HBM stacks. -/
def hbmFits (s : Chip) (r : Resources) : Bool :=
  (List.range 4).all (fun d =>
    let n := r.hbm.getD d 0
    n = 0 || (decide (n ≤ s.hbmFree d) && (List.range 3).all (fun i => s.readyBit (6 + 3 * d + i))))

def bundleCores (b : List Byte) : List Nat := (List.range 256).filter (fun c => (Bundle.roles b).any (fun r => r.2.getLsbD c))

/-! ## Places of regions, R52, R54, R219 -/

/-- The inputs of lowering, R54. -/
def lowerInput (s : Chip) (b : List Byte) : Config.LowerInput :=
  { bundle := b, version := s.boot.versions.getD 0 0
    disabled := (s.flash.disabled.map (fun u => 256 * (unitIndex u).1 + (unitIndex u).2)).mergeSort (fun x y => x ≤ y)
    g3 := s.g3, jade := s.jade }

/-- The region objects of a job with their places: place and size by stack and class (1 ACTIVATION, its tensors; 0 DATA,
the rest of the HBM that the job declares there); `none` where a contiguous region is not free. -/
def placeWith (s : Chip) (b : List Byte) (pick : Nat → Nat) : Option (List (Nat × Nat × Nat × Nat)) :=
  let ts := Bundle.layout b
  (List.range 4).foldlM (fun (acc : List (Nat × Nat × Nat × Nat)) d =>
    let all := (Bundle.resources b).hbm.getD d 0
    let act := min (classBytes ts 2 d) all
    let data := all - act
    let one (acc : List (Nat × Nat × Nat × Nat)) (c n : Nat) : Option (List (Nat × Nat × Nat × Nat)) :=
      if n = 0 then some acc
      else (s.placeRegion d n (pick (2 * d + c)) ((acc.filter (fun r => r.1 = d)).map (fun r => (r.2.2.1, r.2.2.2)))).map (fun a =>
        acc ++ [(d, c, a, n)])
    (one acc 0 data).bind (fun a => one a 1 act)) []

/-- The job's regions, at the places that lowering chooses from its inputs (R54); at the lowest places where that choice leaves a
region none. -/
def placeRegions (s : Chip) (b : List Byte) : Option (List (Nat × Nat × Nat × Nat)) :=
  (s.placeWith b (Config.ptoRegion (s.lowerInput b))).orElse (fun _ => s.placeWith b (fun _ => 0))

/-- Stage 6: every declared resource in the order of the KIND codes, cores first (R49, R51); KIND 3 also fails where a contiguous
region has no place. A ninth job is refused before the declared resources with ITEM 0. SECTION is that of RESOURCES throughout,
for the slot and the cores too (DESIGN CHOICE, log entry 86: R49 and R50 give neither a place in the order nor a SECTION and ITEM
for the slot, and no SECTION for cores, which ROLE_MAP of the manifest names). -/
def stage6 (s : Chip) (b : List Byte) : Option Refused :=
  let r := Bundle.resources b
  let cores := bundleCores b
  let chk (ok : Bool) (item : Nat) : Option Refused := Bundle.need ok 6 Code.resourceExceeded (Bundle.theIx b 3) item
  Bundle.first [
    chk s.freeSlot.isSome 0,
    chk (cores.all s.coreFree) 0,
    chk ((List.range 64).all (fun k => !r.solvers.getLsbD k || s.solverFree k)) 1,
    chk (s.hbmFits r && (s.placeRegions b).isSome) 3,
    chk ((List.range 1024).all (fun i => !r.services.getLsbD i || s.slotWhere (fun x => x.res.services.getLsbD i) = 0xFF)) 6,
    chk ((List.range 256).all (fun n => !r.channels.getLsbD n || s.channelFree n)) 7,
    chk (cores.all (fun c => (List.range r.engines).all (fun e => s.engineFree (2 * (c / 4) + e)))) 8]

/-! ## Stage 7 -/

/-- HBM that lowering needs beside the tensors on stack d when the entries `re` are recomputed: what the programs need, the working
copies of controlled weights, and the coupler's conversion blocks (R150, R174, R367). -/
def workBytes (b : List Byte) (inp : Config.LowerInput) (re : List Nat) (d : Nat) : Nat :=
  let bs := bindStacks b
  let evals := (Bundle.rec? b 0x0C).any (fun v => (Bundle.training v).evalInterval ≠ 0)
  let ws := (weightCopies inp (Bundle.trainEntries b) (Bundle.layout b)).filter (fun w => w.copy.stack = d)
  Bundle.unit2M (Config.ptoHbm inp re d) + Bundle.unit2M (ws.map (copyBytes evals)).sum
    + (if (Bundle.coupling b).isSome && (bs.getD 0 9 = d || bs.getD 2 9 = d) then 64 else 0)

/-- The job's work fits its HBM declaration when the entries `re` are recomputed (R53, R174). -/
def hbmEnough (b : List Byte) (inp : Config.LowerInput) (re : List Nat) : Bool :=
  (List.range 4).all (fun d => decide (classBytes (Bundle.layout b) 1 d + classBytes (Bundle.layout b) 2 d + workBytes b inp re d
    ≤ (Bundle.resources b).hbm.getD d 0))

/-- Entries with SAVE_MODE 4 by rising ratio of the cycles of their recomputation to their saved bytes (two an element), then by
TENSOR_ID (R174). -/
def recomputeOrder (b : List Byte) (inp : Config.LowerInput) : List Nat :=
  let es := (SMap.number 0 (Bundle.trainEntries b)).filter (fun e => e.2.kind = 1 && e.2.saveMode = 4)
  let saved (e : TrainEntry) : Nat := 2 * ((Bundle.tensor? b e.tensor).map Bundle.elements).getD 0
  (es.mergeSort (fun x y =>
    let l := Config.ptoRerun inp x.1 * saved y.2
    let r := Config.ptoRerun inp y.1 * saved x.2
    decide (l < r) || (l = r && decide (x.2.tensor ≤ y.2.tensor)))).map Prod.fst

/-- The entries that lowering marks for recomputation: as few of that order as let the work fit; `none` where all do not suffice. -/
def recompute (b : List Byte) (inp : Config.LowerInput) : Option (List Nat) :=
  let l := recomputeOrder b inp
  ((List.range (l.length + 1)).map (fun n => l.take n)).find? (hbmEnough b inp)

/-- A recomputed activation, by SAVE_MODE 3 or by its mark, whose forward segment draws generator bits (R174). -/
def rerunDraws (b : List Byte) (inp : Config.LowerInput) : Bool :=
  let three := ((SMap.number 0 (Bundle.trainEntries b)).filter (fun e => e.2.kind = 1 && e.2.saveMode = 3)).map Prod.fst
  (three ++ (recompute b inp).getD []).any (Config.ptoDraws inp)

/-- Communicators of a bundle: number, members, issuing core, and whether this package belongs to it. -/
def commList (s : Chip) (b : List Byte) (inp : Config.LowerInput) : List (Nat × List Nat × Nat × Bool) :=
  let l := (Bundle.members b :: Config.ptoComms inp).map (fun ms => ms.mergeSort (fun x y => x ≤ y))
  (SMap.number 0 l).map (fun e => (e.1, e.2, Config.ptoIssuing inp e.1, e.1 = 0 || e.2.contains s.node))

/-- Communicators that the admitted jobs hold on each Batten die. -/
def commLoad (s : Chip) : List Nat :=
  (List.range 4).map (fun d => s.jobs.foldl (fun n e => match e.2 with
    | some x => n + (x.comms.filter (fun c => c.die = d && c.members.contains s.node)).length
    | none => n) 0)

/-- Lowering's refusals in the order of their causes, R53, R59, R178. SECTION is that of the program for what a program asks (causes 3
and 5) and of RESOURCES for what exceeds a declaration or the package (DESIGN CHOICE, log entry 43). -/
def stage7 (s : Chip) (b : List Byte) : Option Refused :=
  let inp := s.lowerInput b
  let r := Bundle.resources b
  let rs := Bundle.roles b
  let chk (ok : Bool) (cause : Nat) : Option Refused := Bundle.need ok 7 Code.resourceExceeded (Bundle.theIx b 3) cause
  let program (bad : Nat → Bool) (cause : Nat) : Option Refused :=
    ((Bundle.ofType b 2).find? (fun x => bad x.role)).map (fun x => ⟨7, Code.resourceExceeded, x.index, cause⟩)
  let objsOk : Bool := rs.all (fun e => (List.range 256).all (fun c => !e.2.getLsbD c ||
    (let named := namedOn b inp e.1 c
     decide (named.length + Config.ptoEvents inp e.1 ≤ r.objects) && named.all (fun i => i < r.objects))))

  let g3ok : Bool := !s.g3 || (!(bits r.features.toNat 3 1 ≠ 0) && (match Bundle.rec? b 0x0C with
    | some v => !(Bundle.training v).controlEn && !(Bundle.training v).entries.any (fun e => e.initial = 0)
    | none => true))
  Bundle.first [
    chk objsOk 1,
    chk ((recompute b inp).isSome && rs.all (fun e => Config.ptoLocal inp e.1 ≤ r.localMem)) 2,
    program (Config.ptoSolverTooBig inp) 3,
    chk (decide (r.features.toNat < 64) && g3ok) 4,
    program (Config.ptoNoLowering inp) 5,
    chk (!rerunDraws b inp) 5,
    chk (rs.all (fun e => Config.ptoTiles inp e.1 ≤ r.tileRegs)) 6,
    chk (placeComms s.commLoad (s.commList b inp)).isSome 7,
    chk ((Bundle.coupling b).isNone || (bindChannels r.channels [] (bindStacks b)).isSome) 8]

/-! ## Stage 8, R48 -/

/-- The job of a bundle, lowered. -/
def makeJob (s : Chip) (b : List Byte) (rg : List (Nat × Nat × Nat × Nat)) : Job :=
  let inp := s.lowerInput b
  let res := Bundle.resources b
  let base (d c : Nat) : Nat := ((rg.find? (fun r => r.1 = d && r.2.1 = c)).map (·.2.2.1)).getD 0
  let dataEnd (d : Nat) : Nat := ((rg.find? (fun r => r.1 = d && r.2.1 = 0)).map (fun r => r.2.2.1 + r.2.2.2)).getD 0
  let ts := (Bundle.layout b).mergeSort (fun x y => Config.ptoPlace inp x.id ≤ Config.ptoPlace inp y.id)
  let ms := Bundle.members b
  let tr := (Bundle.rec? b 0x0C).map Bundle.training
  let bs := bindStacks b
  let pol := (Bundle.rec? b 0x0A).map Bundle.policy
  { jobId := BitVec.ofNat 64 (Bundle.jobId b), members := ms, anchor := Bundle.anchor b
    ownIndex := if ms.contains s.node then ms.idxOf s.node else Config.spareIndex (BitVec.ofNat 64 (Bundle.jobId b)) s.node
    roles := Bundle.roles b, coupling := Bundle.coupling b, fields := Bundle.fields b
    exchange := (Bundle.exchange b).map objOfRef
    bind := if (Bundle.coupling b).isSome then (bindChannels res.channels [] bs).getD [] else []
    tree := Bundle.tree b, pacing := (Bundle.rec? b 9).map Bundle.pacing, policy := pol
    spareMode := field ((Bundle.rec? b 0x0B).getD []) 0 1, spares := Bundle.spares b
    training := tr, reproducible := Bundle.reproducible b, genMix := Bundle.genMix b, res := res
    tensors := placeTensors base [] ts
    jobSeed := Bundle.jobSeed b, roleSeeds := Bundle.roleSeeds b, digest := Bundle.stated b, signer := Bundle.signer b
    lower := inp, comms := (placeComms s.commLoad (s.commList b inp)).getD []
    products := (Config.ptoProducts b).map (Bundle.productOf b)
    recomputed := (recompute b inp).getD []
    physical := (bundleCores b).map (fun c => (c, physicalCore c))
    boundary := if pol.isNone then [] else (Bundle.roles b).flatMap (fun e =>
      ((List.range 256).filter (fun c => e.2.getLsbD c)).map (fun c =>
        let g := Config.ptoBoundary inp e.1
        (c, eventObj b inp e.1 c g.1, eventObj b inp e.1 c g.2)))
    memberStates := (SMap.number 0 ms).map (fun m =>
      ⟨m.2, m.1, false, false, false, decide (m.2 = s.node)⟩)
    controller := tr.map (fun t => ⟨t.entries.map (fun e => ⟨e.initial, 0, 0, t.demoteSteps, none, 0⟩), 0, none, 0, [], false, [], [], 0, none, 0, false⟩)
    forward := ⟨0, dataEnd (bs.getD 0 0) - 64, 0, none⟩, ret := ⟨0, dataEnd (bs.getD 2 0) - 32, 0, none⟩
    batcher := ⟨65536, 0, 0⟩ }

/-- IN_PB4, IN_MXFP8 and IN_BF16 of a slot, R170. -/
def countStates (s : Chip) (j : Nat) : Chip :=
  let es := match s.job j with | some x => (x.controller.map (fun (c : Controller) => c.entries)).getD [] | none => []
  (List.range 3).foldl (fun (t : Chip) k => t.setReg 0x8020 (16 * j + 8 + k) (es.countP (fun (e : EntryState) => e.state = k))) s

/-- Reset the words 16j + 1 on of an object that keeps a block for each slot. -/
def resetSlot (s : Chip) (ix j n : Nat) : Chip :=
  (List.range n).foldl (fun (t : Chip) f => t.setReg ix (16 * j + f + 1) (Objects.dflt (Objects.key ix (16 * j + f + 1))).toNat) s

/-- The clusters of a set of cores. -/
def clustersOf (cores : List Nat) : List Nat := (cores.map (· / 4)).eraseDups

/-- Objects of a job, R247. -/
def objectsOf (x : Job) : List Nat :=
  (jobCores x).flatMap (fun c => (List.range x.res.objects).map (fun i => 64 * c + i))
    ++ ((List.range 1024).filter (fun i => x.res.services.getLsbD i)).map (16384 + ·)

/-- The watchdog of a slot returns to its defaults, R468. -/
def clearWatchdog (s : Chip) (j : Nat) : Chip :=
  ((s.setReg 0x7000 (16 * j + 0x11) 0xFFFF).setReg 0x7000 (16 * j + 0x12) 0).updJob j (fun x => { x with
    wdArmed := false, wdLast := none })

/-- At admission both planes of every array of the job's cores, their tile registers and the predicate registers p1 to p15 hold
zeros (R103, R121). -/
def zeroCores (s : Chip) (cores : List Nat) : Chip :=
  { s with
    arrays := cores.foldl (fun (m : SMap Arr) c => (List.range 2).foldl (fun (m : SMap Arr) a =>
      SMap.set {} m (2 * c + a) { SMap.get {} m (2 * c + a) with active := {}, shadow := {} }) m) s.arrays
    tiles := s.tiles.filter (fun e => !cores.contains (e.1 / 2 ^ 19))
    preds := s.preds.filter (fun e => !cores.contains (e.1 / 16)) }

/-- Stage 8: the job's units, memory, objects and channels become its own in one step (R48, R103, R121, R170, R219, R263, R359, R407,
R429). -/
def commit (s : Chip) (b : List Byte) (j : Nat) (rg : List (Nat × Nat × Nat × Nat)) : Chip :=
  let x := s.makeJob b rg
  let s1 := (((s.setJob j (some x)).resetSlot 0x6001 j 11).resetSlot 0x6100 j 8).resetSlot 0x8020 j 12
  let s2 := (((s1.setReg 0x6001 (16 * j + 1) x.jobId.toNat).setStatus j 2 1).setStatus j 6 x.anchor).setReg 0x8020 (16 * j + 12)
    x.jobId.toNat
  let s3 := (s2.clearWatchdog j).setReg 0x8010 (0x11 + j) 0
  let s4 := rg.foldl (fun (t : Chip) r =>
    let ix := 0x5100 + 8 * j + 2 * r.1 + r.2.1
    (((t.setReg ix 1 r.2.2.1).setReg ix 2 r.2.2.2).setReg ix 5 x.jobId.toNat).setReg ix 6 0) s3
  let s5 := (objectsOf x).foldl (fun (t : Chip) o => t.setObj o { owner := BitVec.ofNat 8 j }) s4
  let s6 := ((List.range 256).filter (fun n => x.res.channels.getLsbD n)).foldl (fun (t : Chip) n =>
    (t.setReg (0x7100 + n) 3 j).setChan n { t.chan n with slot0 := {}, slot1 := {} }) s5
  let s7 := (jobCores x).foldl (fun (t : Chip) c => (List.range 4).foldl (fun (t : Chip) st => t.setStream c st { stopped := true }) t)
    (s6.zeroCores (jobCores x))
  let s8 := (Bundle.ofType b 6).foldl (fun (t : Chip) y =>
    let d := Bundle.body b y
    match x.tensors.find? (fun tn => tn.id = field d 0 4) with
    | some tn => (tensorRanges tn (d.drop 8)).foldl (fun (t : Chip) r => (t.storeRaw r.1 r.2).2) t
    | none => t) s7
  ({ s8 with
    firstError := SMap.set (List.replicate 8 0) s8.firstError j (List.replicate 8 0)
    dumped := s8.dumped.filter (fun k => k ≠ j)
    fab := { s8.fab with collSeq := s8.fab.collSeq.filter (fun e => e.1 / 256 ≠ j) }
    power := { s8.power with ramps := s8.power.ramps ++ (clustersOf (jobCores x)).map (fun k => (k, true)) } }).countStates j

/-! ## Admission, R47 -/

/-- Who submits a bundle: its host or boot source, a peer session by its node, or the broadcast. -/
inductive Submitter where
  | local_
  | peer (node : Nat)
  | broadcast
  deriving DecidableEq, Repr

/-- The checks of stage 4 on the package's state: Jade mode, G3 compatibility, and which packages the bundle is for
(R47, R59, R373, R413, R428). -/
def stage4state (s : Chip) (b : List Byte) (w : Submitter) : Option Refused :=
  let sec := Bundle.theIx b 1
  let ms := Bundle.members b
  let mine := ms.contains s.node || (Bundle.spares b).contains s.node
  let gen := if Bundle.anchor b = s.node then 4 else s.nodeGeneration (Bundle.anchor b)
  Bundle.first [
    Bundle.need (Bundle.reproducible b == s.jade) 4 Code.stateConflict sec 0x0D,
    Bundle.need (!Bundle.genMix b || s.g3) 4 Code.stateConflict sec 0x0E,
    Bundle.need (!Bundle.genMix b || gen = 4) 4 Code.outOfRange sec 3,
    match w with
    | .local_ => Bundle.first [Bundle.need mine 4 Code.outOfRange sec 2,
        Bundle.need (Bundle.anchor b = s.node) 4 Code.stateConflict sec 3]
    | .peer n => Bundle.need (Bundle.anchor b = n && mine) 4 Code.accessDenied sec 3
    | .broadcast => Bundle.need mine 4 Code.outOfRange sec 2]

/-- An admission may not begin: no node number, a node conflict, or a safety partition that is not ready (R289, R460). -/
def admissionBarred (s : Chip) : Bool :=
  s.node = 0xFFFF || s.reg 0x4002 5 = 1 || (s.partition && !s.readyBit 22)

/-- The first refusal of stages 1 to 7. A shape that the programs and LAYOUT disagree on shows the SECTION of LAYOUT and the tensor's
ID (DESIGN CHOICE, log entry 86). -/
def judge (s : Chip) (b : List Byte) (w : Submitter) : Option Refused :=
  Bundle.first [
    Bundle.need (!s.admissionBarred) 1 Code.stateConflict 0xFF 0,
    Bundle.stage1 b,
    Bundle.stage2 (s.reg 0x7800 0x0A) (s.flash.keys.map (fun k => (k.keyId, k.use, k.publicKey))) b,
    Bundle.stage3 s.g3 b,
    Bundle.stage4 b,
    s.stage4state b w,
    Bundle.stage5 b,
    match Config.ptoShapeError b with
    | some t => some ⟨5, Code.shapeMismatch, Bundle.theIx b 4, t % 65536⟩
    | none => none,
    Bundle.checkProducts b (Config.ptoProducts b),
    s.stage6 b, s.stage7 b]

/-- The admission block of 0x6001, R429, R50. SECTION has 8 bits: it shows a section index modulo 256 (DESIGN CHOICE, log entry 86:
a bundle may have 1,024 sections). -/
def showAdmission (s : Chip) (jobId cmdId : Nat) (r : Option Refused) (slot : Nat) : Chip :=
  let v : List Nat := match r with
    | some e => [jobId, 9, e.code, e.stage * 2 ^ 28 + e.section_ % 256 * 2 ^ 16 + e.item % 65536, cmdId, 0xFF]
    | none => [jobId, 8, 0, 0, cmdId, slot]
  (SMap.number 0x81 v).foldl (fun (t : Chip) e => t.setReg 0x6001 e.1 e.2) s

/-- Admit a bundle: its code, the slot it took, and the state after it. A refusal in stages 1 to 3 shows ADM_JOB_ID 0, since the
manifest's ranges have not been checked then (DESIGN CHOICE, log entry 86). The admission runs whole within the command that starts
it (DESIGN CHOICE, log entry 88). -/
def admitJob (s : Chip) (b : List Byte) (w : Submitter) (cmdId : Nat) : Nat × Nat × Chip :=
  let refuse (e : Refused) : Nat × Nat × Chip :=
    (e.code, 0xFF, s.showAdmission (if e.stage ≤ 3 then 0 else Bundle.jobId b) cmdId (some e) 0xFF)
  match s.judge b w, s.freeSlot, s.placeRegions b with
  | some e, _, _ => refuse e
  | none, some j, some rg => (0, j, (s.commit b j rg).showAdmission (Bundle.jobId b) cmdId none j)
  | none, _, _ => refuse ⟨6, Code.resourceExceeded, Bundle.theIx b 3, 3⟩

/-! ## The command log, R428 -/

/-- A command completes: event with DETAIL_KIND 3, LAST_COMPLETED and its slot's LAST_COMMAND. -/
def completeCommand (s : Chip) (j cmd id code : Nat) : Chip :=
  let s1 := (s.addLog code j 3 s.buristUnit (leBytes 4 id ++ leBytes 1 cmd)).setReg 0x6000 4 id
  if j < 8 then s1.setStatus j 11 id else s1

/-- The started commands of a kind complete. -/
def finishCommands (s : Chip) (j cmd code : Nat) : Chip :=
  match s.job j with
  | none => s
  | some x =>
    let s1 := s.setJob j (some { x with waits := x.waits.filter (fun w => w.1 ≠ cmd) })
    (x.waits.filter (fun w => w.1 = cmd)).foldl (fun (t : Chip) w => t.completeCommand j w.1 w.2 code) s1

/-! ## The end of a job, R219, R263 -/

def waiterOf (x : Job) (w : Waiter) (o : Nat) : Bool :=
  match w with
  | .stream c _ => jobHasCore x c.val
  | .solver k => x.res.solvers.getLsbD k.val
  | .burist => jobHoldsObj x o

/-- What the units of a job still run goes with it. -/
def dropWork (s : Chip) (j : Nat) (x : Job) : Chip :=
  let cores := jobCores x
  let own (c : Nat) : Bool := cores.contains c
  let chanUser (u : ChanUser) : Bool := match u with
    | .verify c => own c.val
    | .copy e q => match s.copyFront e q with | some r => r.slot = j | none => false
  let s1 := (s.requestsOf s.buristUnit).foldl (fun (t : Chip) r =>
    match r.owner with | .burist k _ => if k = j then t.closeRequest r true else t | _ => t) s
  let s2 := (s1.fab.requests.filter (fun r => match r.owner with
    | .command c _ _ _ => own c.val
    | .signal c _ _ => own c.val
    | .bulk e q _ => (match s1.copyFront e q with | some r => r.slot = j | none => false)
    | .arrival e q => (match s1.copyFront e q with | some r => r.slot = j | none => false)
    | .arrivalEnd _ _ k => k = j
    | .burist _ _ => false)).foldl (fun (t : Chip) r => t.closeRequest r true) s1
  let s2 := s2.logGuards (fun r => r.slot = j)
  let s3 := { s2 with
    streams := s2.streams.filter (fun e => !own (e.1 / 4))
    arrays := s2.arrays.map (fun (e : Nat × Arr) => if own (e.1 / 2) then (e.1, { e.2 with wload := none, streams := [], drain := none }) else e)
    ves := s2.ves.filter (fun e => !own e.1)
    solvers := (s2.solvers.map (fun (e : Nat × List SolveRun) => (e.1, e.2.filter (fun (r : SolveRun) => r.slot ≠ j)))).filter (fun e => !e.2.isEmpty)
    channels := s2.channels.map (fun (e : Nat × Chan) => (e.1, { e.2 with
      busy := e.2.busy.filter (fun u => !chanUser u), waiting := e.2.waiting.filter (fun u => !chanUser u) }))
    engines := s2.engines.map (fun (e : Nat × Engine) => (e.1, { e.2 with
      job := e.2.job.filter (fun r => r.slot ≠ j), service := e.2.service.filter (fun r => r.slot ≠ j)
      waiting := e.2.waiting.filter (fun r => r.slot ≠ j) }))
    prefetch := s2.prefetch.filter (fun e => !(clustersOf cores).contains (e.1 / 16))
    registrations := s2.registrations.filter (fun r => !waiterOf x r.waiter r.obj)
    wakes := s2.wakes.filter (fun r => !waiterOf x r.waiter r.obj)
    cancels := s2.cancels.filter (fun r => !waiterOf x r.waiter r.obj)
    buristWaits := s2.buristWaits.filter (fun r => !jobHoldsObj x r.obj)
    posted := s2.posted.filter (fun p => !jobHoldsObj x p.obj)
    convUse := s2.convUse.filter (fun a => !(s2.inRegions j a 32 || (decide (localBase ≤ a) && own ((a - localBase) / coreBytes))))
    fab := { s2.fab with
      colls := s2.fab.colls.filter (fun r => r.jobId ≠ x.jobId), starts := s2.fab.starts.filter (fun m => m.jobId ≠ x.jobId)
      inbox := s2.fab.inbox.filter (fun m => m.2.jobId ≠ x.jobId)
      revoked := s2.fab.revoked.filter (fun q => q.1 ≠ x.jobId.toNat) } }
  let s4 := { s3 with
    arrays := s3.arrays.filter (fun e => e.2 ≠ ({} : Arr)), channels := s3.channels.filter (fun e => e.2 ≠ ({} : Chan))
    engines := s3.engines.filter (fun e => e.2 ≠ ({} : Engine)) }
  s4.releaseStalls.admitAll

/-- Units of a job that were to be disabled, or drain with nothing left to run. -/
def settleUnits (s : Chip) (x : Job) : Chip :=
  let s1 := (s.pendingOff.filter (fun u => match u with
    | .array c _ => jobHasCore x c.val | .core c => jobHasCore x c.val | .solver k => x.res.solvers.getLsbD k.val
    | .engine e => jobHasEngine x e.val | .channel n => x.res.channels.getLsbD n.val)).foldl (fun (t : Chip) u => t.drainUnit u) s
  let s2 := (List.finRange 256).foldl (fun (t : Chip) c =>
    if jobHasCore x c.val then ((t.endArrayDrain c 0).endArrayDrain c 1).settleCore c else t) s1
  let s3 := (List.finRange 64).foldl (fun (t : Chip) k => if x.res.solvers.getLsbD k.val then t.solverEnd k else t) s2
  let s4 := (List.finRange 128).foldl (fun (t : Chip) e => if jobHasEngine x e.val then t.engineDrain e else t) s3
  (List.finRange 256).foldl (fun (t : Chip) n => if x.res.channels.getLsbD n.val then t.channelEnd n else t) s4

/-- The job of a slot ends: commands that still wait complete, STOP with OK; its work, watches, objects, channels and units are
released; its regions wait for their fill (R219, R263, R359, R427, R446, R468). -/
def endJob (s : Chip) (j : Nat) : Chip :=
  match s.job j with
  | none => s
  | some x =>
    let s1 := x.waits.foldl (fun (t : Chip) w => t.completeCommand j w.1 w.2 (if w.1 = 6 then 0 else Code.stateConflict)) s
    let s2 := (s1.dropWork j x).returnLeases (fun l => l.jobId = x.jobId)
    let s3 := { s2 with objs := s2.objs.filter (fun e => e.2.owner.toNat ≠ j) }
    let s4 := ((List.range 256).filter (fun n => x.res.channels.getLsbD n)).foldl (fun (t : Chip) n =>
      (t.setReg (0x7100 + n) 3 0xFF).setChan n { t.chan n with slot0 := {}, slot1 := {} }) s3
    let s5 := ((s4.clearWatchdog j).setStatus j 2 7).setReg 0x6100 (16 * j + 6) 0
    let s6 := (s5.setJob j none).settleUnits x
    { s6 with
      casts := s6.casts.filter (fun c => c.jobId ≠ x.jobId)
      power := { s6.power with ramps := s6.power.ramps ++ (clustersOf (jobCores x)).map (fun k => (k, false)) } }

end Chip

end Sys2Proof.Machine
end

