-- ==== Sys2Proof/Machine/Run.lean ====
section
/-! DEFINITION. Jobs that run: notes between Burists, streams that start and stop, checkpoints and their end
(spec/09_synchronisation.md R265, R266; spec/15_jobs_and_checkpoints.md R398 to R407; spec/16_object_dictionary.md R427). -/

namespace Sys2Proof.Machine

/-- The parts of a job, R399. -/
def jobParts (x : Job) : List Part := if jobCoupled x then [.solver, .surrogate] else [.whole]

def partIx (p : Part) : Nat := match p with | .solver => 0 | .surrogate => 1 | .whole => 2

/-- The cores of a part. -/
def partCores (x : Job) (p : Part) : List Nat :=
  (jobCores x).filter (fun c => match p with
    | .whole => true
    | .solver => !Config.ptoSurrogate x.lower ((jobRole x c).getD 0)
    | .surrogate => Config.ptoSurrogate x.lower ((jobRole x c).getD 0))

/-- The largest power of two not above n, for n ≤ 4. -/
def pow2Below (n : Nat) : Nat := if 4 ≤ n then 4 else if 2 ≤ n then 2 else n

namespace Chip

/-! ## Notes -/

/-- Send a note to a package over the management lane, or a chunk over the bulk lane. -/
def sendNote (s : Chip) (vl dest : Nat) (n : Note) : Chip :=
  if dest = s.node then s else (s.route vl 0 s.node dest none true (.note dest n)).getD s

/-- Members of a job that take part in it, spares in a failed member's place. -/
def activeMembers (x : Job) : List Nat := x.memberStates.map (·.node)

def tellMembers (s : Chip) (x : Job) (n : Note) : Chip := (activeMembers x).foldl (fun (t : Chip) m => t.sendNote 4 m n) s

/-- This package is the acting anchor of the job in slot j. -/
def actsAsAnchor (s : Chip) (j : Nat) : Bool := s.reg 0x6001 (16 * j + 6) = s.node

/-! ## Streams of a job -/

/-- Stop every stream of a job at its next entry boundary. -/
def stopStreams (s : Chip) (x : Job) : Chip :=
  (jobCores x).foldl (fun (t : Chip) c => (List.range 4).foldl (fun (t : Chip) st =>
    t.updStream c st (fun y => { y with stopped := true })) t) s

/-- Let the streams of a job go on. -/
def goStreams (s : Chip) (x : Job) : Chip :=
  let s1 := (jobCores x).foldl (fun (t : Chip) c => (List.range 4).foldl (fun (t : Chip) st =>
    t.updStream c st (fun y => { y with stopped := false })) t) s
  (jobCores x).foldl (fun (t : Chip) c => t.settle (Fin.ofNat 256 c)) s1

/-- The job of slot j pauses now (R427). -/
def pauseNow (s : Chip) (j : Nat) : Chip :=
  match s.job j with
  | none => s
  | some x =>
    let s1 := (s.setJob j (some { x with pauseReq := false, pauseCode := 0 })).stopStreams x
    let s2 := if x.pauseCode = 0 then s1 else s1.setStatus j 3 x.pauseCode
    (s2.setStatus j 2 4).finishCommands j 3 0

/-! ## Snapshots and shards, R266, R401 to R405 -/

/-- Values of objects by ascending reference (objects of cores first). -/
def snapshot (s : Chip) (os : List Nat) : List (Nat × U64) := os.map (fun o => (o, (s.obj o).value))

def partObjects (x : Job) (p : Part) : List Nat :=
  (partCores x p).flatMap (fun c => (List.range x.res.objects).map (fun i => 64 * c + i))

def serviceObjects (x : Job) : List Nat := ((List.range 1024).filter (fun i => x.res.services.getLsbD i)).map (16384 + ·)

/-- A controller entry in the context shard. -/
def entryBytes (e : EntryState) : List Byte :=
  leBytes 1 e.state ++ leBytes 4 e.qualifying ++ leBytes 4 e.promoRun ++ leBytes 4 e.hold
    ++ leBytes 1 (boolNat e.lastDemotion.isSome) ++ leBytes 8 (e.lastDemotion.getD 0) ++ leBytes 8 e.heldSince

def entryOf (b : List Byte) : EntryState :=
  { state := field b 0 1, qualifying := field b 1 4, promoRun := field b 5 4, hold := field b 9 4
    lastDemotion := if field b 13 1 = 1 then some (field b 14 8) else none, heldSince := field b 22 8 }

def controllerBytes (c : Controller) : List Byte :=
  leBytes 4 c.withheldRun ++ leBytes 1 (boolNat c.lossRef.isSome) ++ leBytes 8 ((c.lossRef.getD 0).toNat) ++ leBytes 8 c.step
    ++ c.entries.flatMap entryBytes

def controllerOf (c : Controller) (b : List Byte) : Controller :=
  { c with
    withheldRun := field b 0 4, lossRef := if field b 4 1 = 1 then some (BitVec.ofNat 64 (field b 5 8)) else none
    step := field b 13 8, entries := (SMap.number 0 c.entries).map (fun e => entryOf ((b.drop (21 + 30 * e.1)).take 30)) }

def controllerSize (c : Controller) : Nat := 21 + 30 * c.entries.length

/-- The DATA region of slot j on Slate stack d: base and size. -/
def dataRegion (s : Chip) (j d : Nat) : Nat × Nat := (s.reg (0x5100 + 8 * j + 2 * d) 1, s.reg (0x5100 + 8 * j + 2 * d) 2)

/-- Places of the conversion blocks that a checkpoint of the job holds: the coupler's two, those of the weight copies, and those of
the B-row CVTBs (R177, R401). -/
def ckptBlocks (s : Chip) (j : Nat) (x : Job) : List Nat :=
  (if jobCoupled x then [x.forward.block, x.ret.block] else [])
    ++ (weightCopies x.lower ((x.training.map (·.entries)).getD []) x.tensors).map (fun w =>
      (s.dataRegion j w.copy.stack).1 + w.copy.block)
    ++ (if x.training.isSome then (Config.ptoRowBlocks x.lower).map (fun p => localOf p.1 + p.2) else [])

/-- The context shard of R401: step, epoch, values of the job's objects, the controller and the conversion blocks as they were at the
boundary, and the ordinals of a job without a step object. -/
def contextShard (s : Chip) (j : Nat) (x : Job) (k : CkptRun) : List Byte :=
  let snap := k.snapshot.mergeSort (fun a b => a.1 ≤ b.1)
  leBytes 8 k.step ++ leBytes 4 (s.reg 0x6001 (16 * j + 5)) ++ leBytes 4 snap.length ++ snap.flatMap (fun e => leBytes 8 e.2.toNat)
    ++ (match k.controller with | some c => controllerBytes c | none => [])
    ++ k.blocks
    ++ (if (jobStepObj x).isSome then []
      else (jobCores x).flatMap (fun c => (List.range 4).flatMap (fun st => leBytes 8 (s.stream c st).ordinal))
        ++ leBytes 8 x.buristOrdinal)

/-- Where the data shards of stack d begin in the member's area: behind 1 MiB for the context shard. -/
def shardOffset (s : Chip) (j d : Nat) : Nat := 0x100000 + ((List.range d).map (fun i => (s.dataRegion j i).2)).sum

/-- Base of the generation that the next checkpoint writes. -/
def genBase (p : CkptPolicy) (g : Nat) : Nat := if g = 0 then p.baseA else p.baseB

/-- The area of member i in a generation. -/
def memberArea (p : CkptPolicy) (g i : Nat) : Nat := genBase p g + 8192 + p.manifestBytes + i * p.memberBytes

/-- The copy engines of a stack in state 1, ascending. -/
def enginesOf (s : Chip) (d : Nat) : List Nat := (List.range' (32 * d) 32).filter (fun e => s.engineState e = 1)

/-- Engines of each stack with a DATA region, R401: its own, or those of the lowest other stack that can spare them; `none`
where no stack can. `helped` are the stacks that copy for another. -/
def ckptEngines (s : Chip) (j : Nat) : List Nat → List Nat → Option (List (Nat × List Nat))
  | _, [] => some []
  | helped, d :: t =>
    let up := s.enginesOf d
    let k := pow2Below (min 4 up.length)
    if (s.dataRegion j d).2 = 0 then ckptEngines s j helped t
    else if k ≠ 0 then (ckptEngines s j helped t).map ((d, up.take k) :: ·)
    else
      match (List.range 4).find? (fun o => o ≠ d && !helped.contains o
        && decide (pow2Below (min 4 (s.enginesOf o).length) + 1 ≤ (s.enginesOf o).length)) with
      | none => none
      | some o =>
        let ko := pow2Below (min 4 (s.enginesOf o).length)
        let kd := pow2Below (min 4 ((s.enginesOf o).length - ko))
        (ckptEngines s j (o :: helped) t).map ((d, ((s.enginesOf o).drop ko).take kd) :: ·)

/-- A guarded copy of a piece to storage. -/
def shardCopy (s : Chip) (node src dst n seq : Nat) : CopyDesc :=
  { opcode := 1, cflags := 2, srcFormat := 0x08, dstFormat := 0x08, rows := BitVec.ofNat 32 (n / 65536), cols := 65536
    signalObj := 0xFFFF, arrivalObj := 0xFFFF, src := BitVec.ofNat 64 (s.node * 2 ^ 48 + src)
    dst := BitVec.ofNat 64 (node * 2 ^ 48 + dst), srcRowStride := 65536, dstRowStride := 65536, srcScale := 0, dstScale := 0
    convAddr := 0, arrivalAdd := 0, cvc := 0xFFFF, reserved := 0, srcCoarse := 0x3F800000, reservedMid := 0, alive := 0
    seq := BitVec.ofNat 64 seq, completionAddr := 0, reservedTail := 0 }

/-! ## Writes of Burist to storage, R402, R403 -/

/-- The parts of a range of bytes that cross no 4,096-byte boundary, as RSTOREs must (R308). -/
def storeParts (off : Nat) (bs : List Byte) : List (Nat × List Byte) :=
  (List.range (ceilDiv (off % 4096 + bs.length) 4096)).map (fun i =>
    let lo := max off (off / 4096 * 4096 + 4096 * i)
    let hi := min (off + bs.length) (off / 4096 * 4096 + 4096 * (i + 1))
    (lo, (bs.drop (lo - off)).take (hi - lo)))

/-- Write bytes to the storage endpoint of a job's checkpoints: the WRITEs of RSTOREs of Burist, with JOB_ID 0 (R307) and the quorum
token, the job's JOB_ID in OPERAND and its QUORUM_EPOCH in OPERAND2. -/
def buristWrite (s : Chip) (j : Nat) (x : Job) (off : Nat) (bs : List Byte) : Chip :=
  match x.policy with
  | none => s
  | some p =>
    (storeParts off bs).foldl (fun (t : Chip) d =>
      t.issueRequest t.buristUnit { t.newMsg 0x02 p.storage (p.storage * 2 ^ 48 + d.1) 0 with
        length := BitVec.ofNat 32 d.2.length, data := d.2, operand := x.jobId
        operand2 := BitVec.ofNat 64 (t.reg 0x6001 (16 * j + 5)) } 0 0 (.burist j 0)) s

/-- Uncompleted writes of Burist for a slot. -/
def writesOpen (s : Chip) (j : Nat) : Bool :=
  s.fab.requests.any (fun r => match r.owner with | .burist k _ => k = j | _ => false)

/-- Bytes of the manifest for another member, which sends them with its digests. -/
def otherBytes (s : Chip) (i n : Nat) : List Byte := (List.range n).map (fun q => Config.freeBytes s.free (0x10000 + i) q)

/-- The shard entries of this member, R404: the context shard, then the data shards. -/
def shardEntries (s : Chip) (j : Nat) (x : Job) (p : CkptPolicy) (k : CkptRun) : List Byte :=
  let area := memberArea p x.nextGen x.ownIndex
  let ctx := s.contextShard j x k
  let one (stack off n : Nat) (dg : List Byte) : List Byte :=
    leBytes 4 x.ownIndex ++ leBytes 4 stack ++ leBytes 8 off ++ leBytes 8 n ++ dg ++ List.replicate 8 0
  one 0xFF area ctx.length (sha3_512 ctx)
    ++ ((k.copies.mergeSort (fun a b => a.base ≤ b.base)).flatMap (fun c => one c.stack (area + c.offset) c.bytes c.digest))

/-- A tensor entry of this member: its shard, offsets in it, origin and extent. -/
def tensorEntry (s : Chip) (j : Nat) (x : Job) (k : CkptRun) (t : Tensor) : List Byte :=
  let pc := t.pieces.getD 0 (0, 0)
  let cs := k.copies.mergeSort (fun a b => a.base ≤ b.base)
  let i := cs.findIdx (fun c => decide (c.base ≤ pc.1) && decide (pc.1 < c.base + c.bytes))
  let first := x.ownIndex * (1 + cs.length)
  let base := ((cs[i]?).map (·.base)).getD (s.dataRegion j t.stack).1
  leBytes 4 t.id ++ leBytes 4 x.ownIndex ++ leBytes 1 t.fmt ++ leBytes 1 t.rank ++ [0, 0] ++ leBytes 4 (first + i + 1)
    ++ leBytes 8 (pc.1 - base) ++ leBytes 8 (pc.2 - base)
    ++ (List.range 6).flatMap (fun d => leBytes 8 ((Config.ptoOrigin x.lower t.id x.ownIndex).getD d 0))
    ++ (List.range 6).flatMap (fun d => leBytes 8 (t.dims.getD d 1))

/-- The manifest of a checkpoint, R404. -/
def manifestBytes (s : Chip) (j : Nat) (x : Job) (p : CkptPolicy) (k : CkptRun) : List Byte :=
  let m := x.members.length
  let per := 1 + k.copies.length
  let data := (x.tensors.filter (fun t => t.region = 1)).mergeSort (fun a b => a.id ≤ b.id)
  let others (f : Nat → List Byte) (n : Nat) : List Byte :=
    (List.range m).flatMap (fun i => if i = x.ownIndex then f i else s.otherBytes i n)
  leBytes 4 0x4D414E46 ++ leBytes 2 1 ++ leBytes 1 x.nextGen ++ [0] ++ leBytes 8 x.jobId.toNat ++ leBytes 8 k.step ++ leBytes 4 m
    ++ leBytes 4 (m * per) ++ leBytes 4 (m * data.length) ++ leBytes 4 (s.boot.versions.getD 0 0).toNat ++ List.replicate 24 0
    ++ others (fun i => leBytes 2 s.node ++ [4] ++ leBytes 1 (boolNat s.jade + 2 * boolNat s.g3) ++ leBytes 4 (i * per)
      ++ List.replicate 8 0) 16
    ++ others (fun _ => s.shardEntries j x p k) (96 * per)
    ++ data.flatMap (fun t => others (fun _ => s.tensorEntry j x k t) 128)

/-- The commit record, R405. -/
def commitRecord (s : Chip) (j : Nat) (x : Job) (p : CkptPolicy) (k : CkptRun) : List Byte :=
  let man := s.manifestBytes j x p k
  let head := leBytes 4 0x434D4954 ++ leBytes 2 1 ++ leBytes 1 x.nextGen ++ [0] ++ leBytes 8 x.jobId.toNat ++ leBytes 8 k.step
    ++ leBytes 8 x.ckptSeq ++ leBytes 4 (s.reg 0x6001 (16 * j + 5)) ++ leBytes 4 x.members.length ++ leBytes 8 man.length
    ++ sha3_512 man ++ x.digest ++ sha3_256 Config.jobPublicKey ++ leBytes 2 0x87 ++ List.replicate 46 0
  head ++ Config.jobSign head

/-! ## The end of a checkpoint, R402, R406 -/

/-- After a checkpoint has ended: its CHECKPOINT command completes, and a STOP that waited for it ends the job. -/
def afterCkpt (s : Chip) (j code : Nat) : Chip :=
  let s1 := s.finishCommands j 5 code
  match s1.job j with
  | some x => if x.afterCommit then s1.endJob j else s1
  | none => s1

/-- A checkpoint in flight is abandoned with a cause. -/
def abandonCkpt (s : Chip) (j cause : Nat) : Chip :=
  match s.job j with
  | none => s
  | some x =>
    if x.ckpt.isNone then s
    else
      let mine (r : CopyRun) : Bool := r.slot = j && r.purpose = 3
      let s0 := (s.fab.requests.filter (fun r => match r.owner with
        | .burist k _ => k = j
        | .bulk e q _ => (match s.copyFront e q with | some c => mine c | none => false)
        | _ => false)).foldl (fun (t : Chip) r => t.closeRequest r true) s
      let s1 := { s0.logGuards mine with engines := s0.engines.map (fun (e : Nat × Engine) => (e.1, { e.2 with
        service := e.2.service.filter (fun (r : CopyRun) => !mine r), waiting := e.2.waiting.filter (fun (r : CopyRun) => !mine r) })) }
      let s2 := s1.releaseStalls.admitAll
      let s3 := { s2 with engines := s2.engines.filter (fun e => e.2 ≠ ({} : Engine)) }
      let s4 := ((s3.setJob j (some { x with ckpt := none })).bump 0x6100 (16 * j + 2) 1).setReg 0x6100 (16 * j + 6) 0
      let s5 := (s4.setStatus j 3 Code.checkpointUncommitted).addLog Code.checkpointUncommitted j 0 s4.buristUnit (leBytes 2 cause)
      let s6 := (List.finRange 128).foldl (fun (t : Chip) e => t.engineDrain e) s5
      s6.afterCkpt j Code.checkpointUncommitted

/-- The checkpoint is committed: the next goes to the other generation. -/
def commitCkpt (s : Chip) (j : Nat) (x : Job) (pol : CkptPolicy) (k : CkptRun) : Chip :=
  let done := if s.actsAsAnchor j then some (s.reg 0x6001 (16 * j + 5), k.step, s.manifestBytes j x pol k) else x.committed
  let s1 := s.setJob j (some { x with ckpt := none, nextGen := 1 - x.nextGen, ckptSeq := x.ckptSeq + 1, committed := done })
  let s2 := ((s1.bump 0x6100 (16 * j + 1) 1).setReg 0x6100 (16 * j + 4) k.step).setReg 0x6100 (16 * j + 5) x.nextGen
  (s2.setReg 0x6100 (16 * j + 6) 0).afterCkpt j 0

/-- Checkpoint copies that waited, for write step 1, the database or a frozen job, send on. -/
def pumpCheckpoints (s : Chip) : Chip :=
  (List.finRange 128).foldl (fun (t : Chip) (e : EngineId) =>
    match t.copyFront e .service with
    | some r => if r.purpose = 3 && r.started then pumpBulk 257 t e .service else t
    | none => t) s

/-! ## Checkpoint boundaries, R399 to R401 -/

/-- Signal the gate objects of a part. -/
def openGates (s : Chip) (x : Job) (p : Part) : Chip :=
  let cs := partCores x p
  (x.boundary.filter (fun b => cs.contains b.1)).foldl (fun (t : Chip) b => t.post b.2.2 1 t.buristUnit) s

/-- The guarded copies of the DATA regions of some onStacks; `none` where R401 finds no engines. -/
def acceptCopies (s : Chip) (j : Nat) (x : Job) (p : CkptPolicy) (onStacks : List Nat) : Option (List CkptCopy × Chip) :=
  (s.ckptEngines j [] (List.range 4)).map (fun plan =>
    (plan.filter (fun e => onStacks.contains e.1)).foldl (fun (a : List CkptCopy × Chip) e =>
      let r := a.2.dataRegion j e.1
      let n := r.2 / e.2.length
      (SMap.number 0 e.2).foldl (fun (a : List CkptCopy × Chip) q =>
        let base := r.1 + q.1 * n
        let off := a.2.shardOffset j e.1 + q.1 * n
        let seq := 256 * x.ckptSeq + 16 * e.1 + q.1
        (a.1 ++ [⟨e.1, q.1, base, n, off, q.2, seq, false, []⟩],
          a.2.serviceCopy (Fin.ofNat 128 q.2) j 3 (a.2.shardCopy p.storage base (memberArea p x.nextGen x.ownIndex + off) n seq))) a) ([], s))

/-- The stacks whose DATA regions are copied when part p reaches its boundary: those on which it is the last part with cores
to do so, and with the last part those on which no part has cores. -/
def stacksDue (x : Job) (k : CkptRun) (p : Part) : List Nat :=
  let on (q : Part) (d : Nat) : Bool := (partCores x q).any (fun c => c / 64 = d)
  let left := (jobParts x).filter (fun q => q ≠ p && !k.parts.contains q)
  (List.range 4).filter (fun d => !(left.any (fun q => on q d)) && (on p d || left.isEmpty)
    && !(k.copies.any (fun c => c.stack = d)))

/-- A part of a step that is checkpointed: snapshot, copies, and with the last part the service objects and write step 1. -/
def ckptPart (s : Chip) (j : Nat) (x : Job) (pol : CkptPolicy) (k : CkptRun) (p : Part) : Chip :=
  match s.acceptCopies j x pol (stacksDue x k p) with
  | none => (s.setJob j (some { x with ckpt := some k })).abandonCkpt j Code.unitDisabled
  | some (cs, s1) =>
    let last := (jobParts x).all (fun q => q = p || k.parts.contains q)
    let trains := (partCores x p).any (fun c => Config.ptoTraining x.lower ((jobRole x c).getD 0))
    let k1 := { k with
      parts := k.parts ++ [p], snapshot := k.snapshot ++ s.snapshot (partObjects x p), copies := k.copies ++ cs
      controller := if trains || (last && k.controller.isNone) then x.controller else k.controller
      blocks := if last then (s.ckptBlocks j x).flatMap (fun a => s.readMem a 32) else k.blocks }
    let k2 := if last then { k1 with phase := 1, snapshot := k1.snapshot ++ s.snapshot (serviceObjects x) } else k1
    (s1.updJob j (fun y => { y with ckpt := some k2 })).setReg 0x6100 (16 * j + 6) 1

/-- Write step 1 of R402: the acting anchor writes zeros over the commit-record area, as soon as it may write (R306). -/
def beginWrite (s : Chip) (j : Nat) : Chip :=
  match s.job j with
  | none => s
  | some x =>
    match x.ckpt, x.policy with
    | some k, some pol =>
      if k.phase ≠ 1 || k.begun || !(s.actsAsAnchor j) || !(s.mayStore j) then s
      else (s.setJob j (some { x with ckpt := some { k with begun := true } })).buristWrite j x (genBase pol x.nextGen)
        (List.replicate 8192 0)
    | _, _ => s

/-- A guarded copy of the slot's checkpoint still waits for a buffer of a guard pool: it is not accepted. -/
def copiesWait (s : Chip) (j : Nat) : Bool :=
  s.engines.any (fun e => e.2.waiting.any (fun r => r.slot = j && r.purpose = 3))

/-- A part's boundary that is checkpointed, R399: snapshot and copies, then its gates; with the last part write step 1 follows.
`none` while the guard pools have no room for the copies: the boundary is not taken yet (DESIGN CHOICE, log entry 92). -/
def ckptTake (s : Chip) (j : Nat) (x : Job) (pol : CkptPolicy) (k : CkptRun) (p : Part) : Option Chip :=
  let t := s.ckptPart j x pol k p
  if t.copiesWait j then none else some ((t.openGates x p).beginWrite j)

/-- Quiesced: no stream, descriptor or collective of the job runs (R400). -/
def quiet (s : Chip) (j : Nat) (x : Job) : Bool := !s.jobBusy j && !s.fab.colls.any (fun r => r.jobId = x.jobId)

/-- Each boundary object of a part has reached 4 (n + 1), for the step n that its gates wait for. -/
def partReached (s : Chip) (x : Job) (p : Part) : Bool :=
  let cs := partCores x p
  (jobParts x).contains p && (x.boundary.filter (fun b => cs.contains b.1)).all (fun b =>
    4 * (x.gates.getD (partIx p) 0 + 1) ≤ (s.obj b.2.1).value.toNat)

/-- A one-member job without CHECKPOINT_POLICY comes to rest for a checkpoint: its streams stop at their entry boundaries (R400). -/
def beginQuiesce (s : Chip) (j : Nat) (x : Job) : Chip :=
  if x.ckpt.isSome then s
  else ((s.updJob j (fun y => { y with ckpt := some {
    step := s.reg 0x6001 (16 * j + 4), phase := 0, parts := [], snapshot := [], copies := [], failed := 0, quiesced := true } })).stopStreams
      x).setReg 0x6100 (16 * j + 6) 1

/-- CHECKPOINT_BOUNDARY of a part: due when each of its boundary objects has reached 4 (n + 1), or when a quiesced job has come
to rest. -/
def ckptBoundary (s : Chip) (j : Nat) (p : Part) : Chip :=
  match s.job j with
  | none => s
  | some x =>
    let st := s.jobState j
    if !(st = 3 || st = 4 || st = 6) then s
    else match x.ckpt, x.policy with
    | some k, none =>
      if k.quiesced && p = .whole && s.quiet j x then
        let s1 := s.setJob j (some { x with ckpt := none })
        ((if st = 3 then s1.goStreams x else s1).setReg 0x6100 (16 * j + 6) 0).afterCkpt j 0
      else s
    | _, none => s
    | cur, some pol =>
      let n := x.gates.getD (partIx p) 0
      if !s.partReached x p then s
      else
        let x1 := { x with gates := x.gates.set (partIx p) (n + 1) }
        let sel := (pol.interval ≠ 0 && (n + 1) % pol.interval = 0) || x.selected = some n
        let s1 := s.setJob j (some x1)
        let take (k : CkptRun) : Chip := (s1.ckptTake j x1 pol k p).getD s
        if !sel || x.skipStep = some n then s1.openGates x p
        else match cur with
          | some k =>
            if k.step = n && k.phase = 0 then take k
            else ((s1.setJob j (some { x1 with skipStep := some n })).bump 0x6100 (16 * j + 3) 1).openGates x p
          | none => take { step := n, phase := 0, parts := [], snapshot := [], copies := [], failed := 0, quiesced := false }

/-- CHECKPOINT_WRITE_STEP: the write step that runs completes with its writes acknowledged, or one is refused. Storage is
written only while the job is quorate and the database settled (R306). -/
def ckptWriteStep (s : Chip) (j : Nat) (ok : Bool) : Chip :=
  match s.job j with
  | none => s
  | some x =>
    match x.ckpt, x.policy with
    | some k, some pol =>
      if k.phase = 0 || !(s.mayStore j) || (k.phase = 1 && s.actsAsAnchor j && !k.begun) then s
      else if k.failed ≠ 0 then s.abandonCkpt j k.failed
      else if !ok then s.abandonCkpt j Code.partitionMinority
      else if s.writesOpen j then s
      else
        let anchor := s.actsAsAnchor j
        let s1 := s.setJob j (some { x with ckpt := some { k with phase := k.phase + 1 } })
        match k.phase with
        | 1 => (s1.buristWrite j x (memberArea pol x.nextGen x.ownIndex) (s.contextShard j x k)).pumpCheckpoints
        | 2 =>
          if !(k.copies.all (·.done)) then s
          else if anchor then s1.buristWrite j x (genBase pol x.nextGen + 8192) (s.manifestBytes j x pol k)
          else s1.sendNote 4 (s.reg 0x6001 (16 * j + 6)) (.shards x.jobId (s.shardEntries j x pol k))
        | 3 => if anchor then s1.buristWrite j x (genBase pol x.nextGen) (s.commitRecord j x pol k) else s1
        | _ => s.commitCkpt j x pol k
    | _, _ => s

/-- COMMIT_TIMEOUT, R406. -/
def commitTimeout (s : Chip) (j : Nat) : Chip := s.abandonCkpt j Code.watchExpired

/-! ## The end of a job by its rules -/

/-- The job ends now: a checkpoint in flight is abandoned first (R406, R427). -/
def stopJob (s : Chip) (j cause : Nat) : Chip := ((s.updJob j (fun x => { x with afterCommit := false })).abandonCkpt j cause).endJob j

/-- STEP_BOUNDARY, R35: STATE_READY (the step object) has reached n + 1 for the step n after the last boundary. Pending
disables, the checkpoint selection, pause and stop take effect. -/
def stepBoundary (s : Chip) (j : Nat) : Chip :=
  match s.job j with
  | none => s
  | some x =>
    let o := if jobCoupled x then x.exchange.head? else jobStepObj x
    let n := (s.reg 0x6001 (16 * j + 4) + 1) % 2 ^ 64
    let st := s.jobState j
    match o with
    | none => s
    | some o =>
      if !(st = 3 || st = 6) || (s.obj o).value.toNat < n + 1 then s
      else
        let s1 := s.setStatus j 4 n
        let mine := s1.pendingOff.filter (fun u => s1.slotOfUnit u = j)
        let s2 := mine.foldl (fun (t : Chip) u => t.drainUnit u) s1
        let s3 := if !x.ckptReq then s2
          else
            let t := s2.updJob j (fun y => { y with ckptReq := false, selected := if x.policy.isSome then some n else y.selected })
            if x.policy.isSome then t else t.beginQuiesce j x
        if x.stopReq then
          if x.afterCommit && (x.ckpt.isSome) then s3.updJob j (fun y => { y with stopReq := false }) else s3.stopJob j Code.stateConflict
        else if x.pauseReq then s3.pauseNow j else s3

end Chip

end Sys2Proof.Machine
end

