-- ==== Sys2Proof/Machine/Train.lean ====
section
/-! DEFINITION. Burist's work on a training step: totals, decisions, state vector, evaluation
(spec/06_four_bit_training.md R147, R155 to R170, R176). -/

namespace Sys2Proof.Machine

/-! ## Monitors, R157 to R160 -/

/-- sqrt (a / b) in FP64, each operation rounded. -/
def rootRatio (a b : FVal) : FVal :=
  match FVal.div fp64 a b with
  | .fin false m e => if m = 0 then FVal.zero else let q := scaleRat m 1 (-e); sqrtRat fp64 q.1 q.2
  | v => v

/-- The two operands of a product among its W, X and dY: W and X of F, W and dY of B, X and dY of U; the stationary tile is the
weight, or dY of U (R146). -/
def fedOf (p : Product) : List Nat :=
  match p.operands with
  | [w, x, y] => if p.kind = 0 then [w, x] else if p.kind = 1 then [w, y] else [x, y]
  | l => l

/-- The class of a product: the wider of its two operands' states (R147). -/
def productClass (es : List EntryState) (p : Product) : Nat :=
  ((fedOf p).map (fun i => ((es[i]?).map (·.state)).getD 0)).foldl max 0

/-! ## Probes, R155, R156 -/

/-- The window of a probe: rows of the chunk, K positions and output columns of the tile; the accumulator lines that lowering
reserves for it. -/
def probeRows : Nat := 32
def probeDepth : Nat := 64
def probeCols : Nat := 64
def probeLines : Nat × Nat := (960, 1023)

/-- A sample: product, tile, its number j among the product's samples, its narrow class (the wide class is the next one), and the
accumulator lines of its two runs. -/
structure Probe where
  product : Nat
  tile : Nat
  sample : Nat
  narrow : Nat
  lines : Nat × Nat
  deriving DecidableEq, Repr

/-- The narrow class of sample j of a product of class c: 0 gives ε4, 1 gives ε8. -/
def narrowClass (c j : Nat) : Nat := match c with | 0 => 0 | 1 => j % 2 | _ => 1

/-- Blocks of 16 elements (16 × 16 for a working copy) in the window of a product's operand (R148, R160): operand 0 is the
stationary one of F and B and feeds the rows of U. -/
def windowBlocks (kind operand : Nat) : Nat :=
  if operand = 0 then (if kind = 2 then probeRows * probeDepth / 16 else probeDepth * probeCols / 256)
  else if kind = 2 then probeDepth * probeCols / 16 else probeRows * probeDepth / 16

/-- Probes run in a job: CONTROL_EN = 1 and a period other than 0xFFFF (R167). -/
def probesOn (t : Training) : Bool := t.controlEn && t.shadowPeriod ≠ 0xFFFF

/-- The probes of a step: tile t of each product is sampled where (t + s) mod P = 0; samples in ascending t. -/
def probesOf (x : Job) (t : Training) (c : Controller) : List Probe :=
  if !probesOn t then []
  else (SMap.number 0 x.products).flatMap (fun p =>
    let cl := productClass c.entries p.2
    let tiles := (List.range (Config.ptoTileCount x.lower p.1 cl)).filter (fun k => (k + c.step) % t.shadowPeriod = 0)
    (SMap.number 0 tiles).map (fun e => ⟨p.1, e.2, e.1, narrowClass cl e.1, probeLines⟩))

/-- A scale byte out of range: the block exceeded UE5M3, or its scale is subnormal (R160). -/
def scaleStrained (b : Byte) : Bool := b = 0xFE || (decide (1 ≤ b.toNat) && decide (b.toNat ≤ 7))

/-- F_r and N_z of a window's scale bytes (R160). -/
def rangeCounts (bs : List Byte) : Nat × Nat := (bs.countP scaleStrained, bs.countP (fun b => b ≠ 0))

/-- A sample's sums are retained: S_r is not zero and both are finite (R157). -/
def retained (b : List Byte) : Bool :=
  let d := f32 (field b 0 4)
  let r := f32 (field b 4 4)
  d.isFinite && r.isFinite && !r.isZero

/-- Two FP64 totals of FP32 pairs, in the order of the list. -/
def addPairs (l : List (List Byte)) : U64 × U64 :=
  let go := l.foldl (fun (a : FVal × FVal) b => (FVal.addR fp64 a.1 (f32 (field b 0 4)), FVal.addR fp64 a.2 (f32 (field b 4 4))))
    (FVal.zero, FVal.zero)
  (BitVec.ofNat 64 (FVal.code fp64 go.1), BitVec.ofNat 64 (FVal.code fp64 go.2))

/-- The totals of a key over the members that have it, in ascending node number (R158). -/
def addMembers (key : Nat) (ls : List (List (Nat × U64 × U64))) : Option (FVal × FVal) :=
  let vs := ls.filterMap (fun l => (l.find? (fun e => e.1 = key)).map (fun e => e.2))
  if vs.isEmpty then none
  else some (vs.foldl (fun (a : FVal × FVal) v => (FVal.addR fp64 a.1 (f64 v.1.toNat), FVal.addR fp64 a.2 (f64 v.2.toNat)))
    (FVal.zero, FVal.zero))

/-- What the anchor knows of a step: the metric of a product (0 for ε4, 1 for ε8), ρ of an entry (0 for ρ4, 1 for ρ8) and its
RANGE_FRAC as a fraction. -/
structure Monitors where
  eps : Nat → Nat → Option FVal
  rho : Nat → Nat → FVal
  range : Nat → Option (Nat × Nat)

/-- The monitors of a step from its totals. -/
def monitorsOf (ts : List Totals) : Monitors :=
  let us := ts.mergeSort (fun a b => a.node ≤ b.node)
  { eps := fun p m => (addMembers (2 * p + m) (us.map (·.sums))).map (fun v => rootRatio v.1 v.2)
    rho := fun e m => match addMembers (2 * e + m) (us.map (·.rho)) with
      | some v => rootRatio v.1 v.2
      | none => FVal.zero
    range := fun e =>
      let rs := us.flatMap (fun t => t.ranges.filter (fun r => r.1 = e))
      let f := (rs.map (fun r => r.2.1)).sum
      let n := (rs.map (fun r => r.2.2)).sum
      if n = 0 then none else some (f, n) }

/-! ## Decisions, R163 to R167 -/

/-- A state change, or a promotion held back, as the event of R169 records it. -/
structure Change where
  entry : Nat
  old : Nat
  new : Nat
  cause : Nat
  metric : U32
  rho : U32
  deriving DecidableEq, Repr

/-- One operand is preferred to another as a product's candidate: the larger ρ, then gradient, activation, weight (R164). -/
def preferred (kind : Nat → Nat) (rho : Nat → FVal) (a b : Nat) : Nat :=
  if FVal.lt (rho a) (rho b) then b else if FVal.lt (rho b) (rho a) then a else if kind a < kind b then b else a

/-- The entry that an exceeded metric of a product is attributed to. -/
def attributed (t : Training) (es : List EntryState) (m : Monitors) (p : Product) : Option Nat :=
  let c := productClass es p
  let kind (i : Nat) : Nat := ((t.entries[i]?).map (·.kind)).getD 0
  match (fedOf p).filter (fun i => ((es[i]?).map (·.state)) = some c) with
  | [] => none
  | i :: l => some (l.foldl (preferred kind (fun e => m.rho e c)) i)

/-- Code of a value in FP32. -/
def code32 (v : FVal) : U32 := BitVec.ofNat 32 (FVal.code fp32 (FVal.round fp32 v))

/-- RANGE_FRAC exceeds a threshold. -/
def rangeAbove (r : Option (Nat × Nat)) (hi : U32) : Bool :=
  match r with
  | some (f, n) => FVal.lt (FVal.mul (f32 hi.toNat) (FVal.ofInt n)) (FVal.ofInt f)
  | none => false

/-- RANGE_FRAC as METRIC shows it. -/
def rangeCode (r : Option (Nat × Nat)) : U32 :=
  match r with
  | some (f, n) => BitVec.ofNat 32 (FVal.code fp32 (FVal.div fp32 (FVal.ofInt f) (FVal.ofInt n)))
  | none => 0

/-- What a promotion after a step makes of the hold H (R166). -/
def promotedHold (t : Training) (step hold : Nat) (last : Option Nat) : Nat :=
  match last with
  | some d => if step - d ≤ hold then min (2 * hold) t.backoffMax else hold
  | none => hold

/-- One entry after a step that was not withheld: its new state and the event. A hold that ends its BACKOFF_MAX steps with this step
is DEMOTE_STEPS before the step's own change is judged (DESIGN CHOICE, log entry 87). -/
def decideEntry (t : Training) (ps : List Product) (es : List EntryState) (m : Monitors) (step i : Nat) (w : TrainEntry)
    (e : EntryState) : EntryState × Option Change :=
  let c := e.state
  let mine := (SMap.number 0 ps).filter (fun p => (fedOf p.2).contains i && productClass es p.2 = c)
  let hi := if c = 0 then t.eps4Hi else t.eps8Hi
  let lo := if c = 1 then t.eps4Lo else t.eps8Lo
  -- promotion: the metric of the class itself
  let vals := if c = 2 then [] else mine.filterMap (fun p => (m.eps p.1 c).map (fun v => (p.2, v)))
  let hits := vals.filter (fun v => FVal.lt (f32 hi.toNat) v.2 && attributed t es m v.1 = some i)
  let run := if !hits.isEmpty then e.promoRun + 1 else if vals.isEmpty then e.promoRun else 0
  let shadow := decide (t.promoteSteps ≤ run) && !hits.isEmpty
  let ranged := c = 0 && rangeAbove (m.range i) t.rangeHi
  -- demotion: the metric of the class below
  let low := if c = 0 then [] else mine.filterMap (fun p => m.eps p.1 (c - 1))
  let calm := low.all (fun v => FVal.lt v (f32 lo.toNat)) && !(c = 1 && rangeAbove (m.range i) t.rangeHi)
  let count := if low.isEmpty then e.qualifying else if calm then e.qualifying + 1 else 0
  let held := if e.heldSince = 0 then 0 else e.heldSince + 1
  let hold := if held = t.backoffMax + 1 then t.demoteSteps else e.hold
  let stay : EntryState := { e with promoRun := run, qualifying := count, heldSince := held, hold := hold }
  if t.controlEn && (shadow || ranged) then
    let cause := if shadow then 1 else 2
    let metric := if shadow then ((hits.head?.map (fun v => code32 v.2)).getD 0) else rangeCode (m.range i)
    let rho := if shadow then code32 (m.rho i c) else 0
    if w.pinned || w.ceiling ≤ c then (stay, some ⟨i, c, c, cause, metric, rho⟩)
    else (⟨c + 1, 0, 0, promotedHold t step hold e.lastDemotion, e.lastDemotion, 0⟩, some ⟨i, c, c + 1, cause, metric, rho⟩)
  else if t.controlEn && !w.pinned && w.floor < c && calm && !low.isEmpty && decide (hold ≤ count) then
    (⟨c - 1, 0, 0, hold, some step, 1⟩, some ⟨i, c, c - 1, 4, code32 (low.foldl FVal.max2 FVal.zero), 0⟩)
  else (stay, none)

/-- One entry after a withheld step: gradients are promoted when the run is long enough, and counts start again. -/
def withholdEntry (t : Training) (promote : Bool) (step i : Nat) (w : TrainEntry) (e : EntryState) : EntryState × Option Change :=
  let c := e.state
  let held := if e.heldSince = 0 then 0 else e.heldSince + 1
  let hold := if held = t.backoffMax + 1 then t.demoteSteps else e.hold
  let stay : EntryState := { e with qualifying := 0, heldSince := held, hold := hold }
  if t.controlEn && promote && w.kind = 2 then
    if w.pinned || w.ceiling ≤ c then (stay, some ⟨i, c, c, 3, 0, 0⟩)
    else (⟨c + 1, 0, 0, promotedHold t step hold e.lastDemotion, e.lastDemotion, 0⟩, some ⟨i, c, c + 1, 3, 0, 0⟩)
  else (stay, none)

/-- The record of R169. -/
def changeBytes (x : Job) (t : Training) (step : Nat) (c : Change) : List Byte :=
  leBytes 8 step ++ leBytes 8 x.jobId.toNat ++ leBytes 4 (((t.entries[c.entry]?).map (·.tensor)).getD 0) ++ leBytes 1 c.old
    ++ leBytes 1 c.new ++ leBytes 1 c.cause ++ [0] ++ leBytes 4 c.metric.toNat ++ leBytes 4 c.rho.toNat

namespace Chip

/-- Bytes that lowering placed in a core's local memory. -/
def slotBytes (s : Chip) (p : Nat × Nat) (n : Nat) : List Byte := s.readMem (localOf p.1 + p.2) n

def updController (s : Chip) (j : Nat) (f : Controller → Controller) : Chip :=
  s.updJob j (fun x => { x with controller := x.controller.map f })

/-! ## The member's totals, orders 4 and 5 of R162 -/

/-- Logical cores of the member in training roles. -/
def trainingCores (x : Job) : Nat :=
  ((jobCores x).filter (fun c => Config.ptoTraining x.lower ((jobRole x c).getD 0))).length

/-- Burist's wait for the backward pass of the controller's step. -/
def trainWait (s : Chip) (j : Nat) : Chip :=
  match s.job j with
  | some x =>
    match x.training, x.controller with
    | some t, some c => s.buristWait t.doneObj (trainingCores x * (c.step + 1))
    | _, _ => s
  | none => s

/-- A node offset holds a saved activation of the job: a tensor of an activation entry, or an ACTIVATION region (R173). -/
def savedAt (s : Chip) (j : Nat) (x : Job) (t : Training) (off : Nat) : Bool :=
  (List.range 4).any (fun d =>
    let ix := 0x5100 + 8 * j + 2 * d + 1
    decide (s.reg ix 1 ≤ off) && decide (off < s.reg ix 1 + s.reg ix 2))
  || x.tensors.any (fun tn => t.entries.any (fun e => e.kind = 1 && e.tensor = tn.id)
    && tn.pieces.any (fun p => decide (p.1 ≤ off) && decide (off < p.1 + Bundle.tensorBytes tn / max 1 tn.splitCount)))

/-- A unit has met an uncorrectable error on a saved activation of the job since the last totals (R161). -/
def spoiltRead (s : Chip) (j : Nat) (x : Job) (t : Training) (mark : Nat) : Bool :=
  s.log.any (fun r => decide (mark ≤ r.seq) && r.code = Code.uncorrectable && r.slot = j && r.kind = 2
    && s.savedAt j x t (field r.detail 0 8))

/-- The totals of this member for the controller's step: the sums of the retained samples and of their windows (R157 to R161). -/
def memberTotals (s : Chip) (j : Nat) (x : Job) (t : Training) (c : Controller) : Totals :=
  let all := probesOf x t c
  let sums (p : Probe) : List Byte := s.slotBytes (Config.ptoSampleSlot x.lower p.product p.tile) 8
  let kept := all.filter (fun p => retained (sums p))
  let samples := (List.range (2 * x.products.length)).map (fun k =>
    (k, kept.filter (fun p => p.product = k / 2 && p.narrow = k % 2)))
  -- the windows of an entry at a narrow format: samples with the operand's place in its product
  let windows := (List.range (2 * t.entries.length)).map (fun k =>
    (k, kept.flatMap (fun p => match x.products[p.product]? with
      | some q => ((SMap.number 0 (fedOf q)).filter (fun o => o.2 = k / 2 && p.narrow = k % 2)).map (fun o => (p, q.kind, o.1))
      | none => [])))
  let square (w : Probe × Nat × Nat) : List Byte := s.slotBytes (Config.ptoWindowSlot x.lower w.1.product w.1.tile w.2.2) 8
  let scales (w : Probe × Nat × Nat) : List Byte :=
    s.slotBytes (Config.ptoScaleSlot x.lower w.1.product w.1.tile w.2.2) (windowBlocks w.2.1 w.2.2)
  { node := s.node, step := c.step
    nonfinite := (Config.ptoFlags x.lower).any (fun p => !(f32 (field (s.slotBytes p 4) 0 4)).isFinite) || c.badInput = some c.step
      || s.spoiltRead j x t c.mark
    sums := (samples.filter (fun e => !e.2.isEmpty)).map (fun e => (e.1, addPairs (e.2.map sums)))
    rho := (windows.filter (fun e => !e.2.isEmpty)).map (fun e => (e.1, addPairs (e.2.map square)))
    ranges := (windows.filter (fun e => e.1 % 2 = 0 && !e.2.isEmpty)).map (fun e =>
      let n := rangeCounts (e.2.flatMap scales)
      (e.1 / 2, n.1, n.2))
    probes := all.length, discarded := all.length - kept.length }

/-! ## Variant slots and the state vector, orders 6 and 7 of R162 -/

/-- Write the variant slots of the controller's state vector (R168), and whether the update pass is to write nothing (R161). -/
def writeVariants (s : Chip) (j : Nat) : Chip :=
  match s.job j with
  | some x =>
    match x.controller with
    | some c =>
      let s1 := (SMap.number 0 x.products).foldl (fun (t : Chip) p =>
        (Config.ptoVariants x.lower p.1).foldl (fun (t : Chip) v =>
          t.put t.buristUnit (localOf v.1 + v.2) (Config.ptoVariantCode x.lower p.1 (productClass c.entries p.2))) t) s
      (Config.ptoWithheld x.lower).foldl (fun (t : Chip) v =>
        t.put t.buristUnit (localOf v.1 + v.2) (leBytes 1 (boolNat c.withheld))) s1
    | none => s
  | none => s

/-- A member takes the entries of step s + 1: counters of R170, variant slots, DECISION_OBJECT. -/
def takeVector (s : Chip) (j : Nat) (withheld : Bool) (es : List EntryState) : Chip :=
  match s.job j with
  | none => s
  | some x =>
    match x.training, x.controller with
    | some t, some c =>
      let pairs := c.entries.zip es
      let up := pairs.countP (fun p => p.1.state < p.2.state)
      let down := pairs.countP (fun p => p.2.state < p.1.state)
      let s1 := ((s.bump 0x8020 (16 * j + 1) up).bump 0x8020 (16 * j + 2) down).bump 0x8020 (16 * j + 3) 1
      let s2 := if withheld then s1.bump 0x8020 (16 * j + 4) 1 else s1
      let s3 := (s2.updController j (fun c => { c with
        entries := es, variants := x.products.map (productClass es), step := c.step + 1, totals := [], sent := false, withheld := withheld, mark := s2.reg 0x8200 1 })).countStates j
      ((s3.writeVariants j).post t.decisionObj 1 s.buristUnit).trainWait j
    | _, _ => s

/-- The anchor's decision on the totals it holds; `expired` withholds the step with the vector unchanged. -/
def decideStep (s : Chip) (j : Nat) (expired : Bool) : Chip :=
  match s.job j with
  | none => s
  | some x =>
    match x.training, x.controller with
    | some t, some c =>
      let withheld := expired || c.totals.any (·.nonfinite)
      let run := if withheld then c.withheldRun + 1 else 0
      let promote := !expired && decide (t.nonfiniteLimit ≤ run)
      let m := monitorsOf c.totals
      let rs := ((SMap.number 0 (t.entries.zip c.entries))).map (fun e =>
        if withheld then withholdEntry t promote c.step e.1 e.2.1 e.2.2
        else decideEntry t x.products c.entries m c.step e.1 e.2.1 e.2.2)
      let es := rs.map Prod.fst
      let changes := rs.filterMap Prod.snd
      let promoted := withheld && changes.any (fun d => d.new ≠ d.old)
      let s1 := changes.foldl (fun (u : Chip) d =>
        let v := u.addLog Code.formatPromoted j 1 u.buristUnit (changeBytes x t c.step d)
        if d.new = d.old then v.bump 0x8020 (16 * j + 7) 1 else v) s
      let s2 := s1.updController j (fun c => { c with withheldRun := if promoted then 0 else run })
      (s2.tellMembers x (.vector x.jobId (c.step + 1) withheld (es.map (fun e => BitVec.ofNat 8 e.state)))).takeVector j withheld es
    | _, _ => s

/-- Members that take part in the decision and have not reported. -/
def unreported (x : Job) (c : Controller) : List Nat :=
  (activeMembers x).filter (fun n => !c.totals.any (fun t => t.node = n))

/-- Totals reach the anchor; with the last of them it decides. -/
def addTotals (s : Chip) (j : Nat) (t : Totals) : Chip :=
  match s.job j with
  | none => s
  | some x =>
    match x.controller with
    | some c =>
      if t.step ≠ c.step || !(activeMembers x).contains t.node then s
      else
        let c1 := { c with totals := c.totals.filter (fun u => u.node ≠ t.node) ++ [t] }
        if (unreported x c1).isEmpty then
          (s.setJob j (some { x with controller := some { c1 with silent := [] } })).decideStep j false
        else s.setJob j (some { x with controller := some c1 })
    | none => s

/-- TRAINING_TOTALS: the backward pass has ended on every training core, and Burist adds the slots and sends the totals. -/
def onBackwardDone (s : Chip) (j : Nat) : Chip :=
  match s.job j with
  | none => s
  | some x =>
    match x.training, x.controller with
    | some t, some c =>
      if !s.trains j || c.sent || !s.buristMet t.doneObj (trainingCores x * (c.step + 1)) then s
      else
        let u := s.memberTotals j x t c
        let s1 := ((s.updController j (fun c => { c with sent := true })).bump 0x8020 (16 * j + 5) u.probes).bump 0x8020 (16 * j + 6)
          u.discarded
        if s.actsAsAnchor j then s1.addTotals j u
        else s1.sendNote 4 (s.reg 0x6001 (16 * j + 6)) (.totals x.jobId u)
    | _, _ => s

/-- MEMBER_TOTALS at the anchor. -/
def onTotals (s : Chip) (j : Nat) (t : Totals) : Chip := if s.actsAsAnchor j && s.trains j then s.addTotals j t else s

/-- DECISION_EXPIRY: the anchor's wait ends with WATCH_EXPIRED and the step is withheld. A member silent at two consecutive
decisions is lost (R411). -/
def decisionExpired (s : Chip) (j : Nat) : Chip :=
  match s.job j with
  | none => s
  | some x =>
    match x.controller with
    | some c =>
      let late := unreported x c
      if !s.actsAsAnchor j || !s.trains j || !c.sent || late.isEmpty then s
      else
        let gone := late.filter (fun n => c.silent.contains n && !x.lost.contains n)
        let x1 := { x with
          controller := some { c with silent := late }, lost := x.lost ++ gone
          lostCode := if gone.isEmpty then x.lostCode else Code.watchExpired }
        ((s.setJob j (some x1)).addLog Code.watchExpired j 0 s.buristUnit []).decideStep j true
    | none => s

/-- STATE_VECTOR at a member: the vector of the step behind the controller's. -/
def onVector (s : Chip) (j step : Nat) (withheld : Bool) (vec : List Byte) : Chip :=
  match s.job j with
  | none => s
  | some x =>
    match x.controller with
    | some c =>
      if s.actsAsAnchor j || !s.trains j || step ≠ c.step + 1 || vec.length ≠ c.entries.length || vec.any (fun b => 3 ≤ b.toNat) then s
      else s.takeVector j withheld ((c.entries.zip vec).map (fun p => { p.1 with state := p.2.toNat }))
    | none => s

/-! ## Evaluation, R176 -/

/-- The copy of one piece's working copy into its published copy. -/
def publishCopy (s : Chip) (rows cols src dst : Nat) : CopyDesc :=
  let sq := Fmt.ofCode 0x21
  let plane := roundUp (sq.paddedRows rows * sq.rowBytes cols) 64
  let at_ (a : Nat) : U64 := BitVec.ofNat 64 (s.node * 2 ^ 48 + a)
  { opcode := 1, cflags := 0, srcFormat := 0x21, dstFormat := 0x21, rows := BitVec.ofNat 32 rows, cols := BitVec.ofNat 32 cols
    signalObj := 0xFFFF, arrivalObj := 0xFFFF, src := at_ src, dst := at_ dst, srcRowStride := BitVec.ofNat 64 (sq.rowBytes cols)
    dstRowStride := BitVec.ofNat 64 (sq.rowBytes cols), srcScale := at_ (src + plane), dstScale := at_ (dst + plane), convAddr := 0
    arrivalAdd := 0, cvc := 0xFFFF, reserved := 0, srcCoarse := 0x3F800000, reservedMid := 0, alive := 0, seq := 0
    completionAddr := 0, reservedTail := 0 }


/-- The engine for a copy of Burist on a stack: the first one in state 1 of it, else of the package. -/
def anyEngine (s : Chip) (d : Nat) : Option Nat :=
  match (s.enginesOf d).head? with
  | some e => some e
  | none => (List.range 128).find? (fun e => s.engineState e = 1)

/-- Copy every working PB4_SQ copy into its published copy. -/
def publish (s : Chip) (j : Nat) (x : Job) (t : Training) : Chip :=
  (weightCopies x.lower t.entries x.tensors).foldl (fun (u : Chip) w =>
    let base := (s.dataRegion j w.copy.stack).1
    match u.anyEngine w.copy.stack with
    | none => u
    | some en => u.serviceCopy (Fin.ofNat 128 en) j 6 (s.publishCopy (pieceShape w.tensor).1 (pieceShape w.tensor).2 (base + w.copy.work)
        (base + w.copy.published))) s

/-- EVALUATION: the loss of the step before the controller's is judged once. The program makes it the same on all members, so each
member's verdict is the anchor's (log entry 59). -/
def evaluate (s : Chip) (j : Nat) : Chip :=
  match s.job j with
  | none => s
  | some x =>
    match x.training, x.controller with
    | some t, some c =>
      if !s.trains j || !evalDue t c then s
      else
        let off := ((x.tensors.find? (fun tn => tn.id = t.evalLoss)).bind (fun tn => tn.pieces.head?.map Prod.fst)).getD 0
        let code := field (s.load off 4).1 0 4
        let loss := f32 code
        let ok := match c.lossRef with
          | none => true
          | some l => loss.isFinite && FVal.le loss (FVal.mul (f32 t.evalGate.toNat) (f32 l.toNat))
        let s1 := s.updController j (fun c => { c with evaluated := c.step, lossRef := if ok then some (BitVec.ofNat 64 code) else c.lossRef })
        if ok then s1.publish j x t else s1.bump 0x8020 (16 * j + 0x0B) 1
    | _, _ => s

end Chip

end Sys2Proof.Machine
end

