-- ==== Sys2Proof/Machine/Couple.lean ====
section
/-! DEFINITION. The field coupler and the inference batcher (spec/13_field_exchange_and_check_values.md R367 to R370;
spec/01_package_architecture.md R30 to R34; spec/04_matrix_arrays.md R114). -/

namespace Sys2Proof.Machine.Chip

/-- The tensor of F0, F1, C0, C1, I0, I1, K0 or K1 (R30). -/
def fieldTensor (x : Job) (i : Nat) : Option Tensor := x.tensors.find? (fun t => t.id = x.fields.getD i 0)

/-- Targets that a transfer of step n waits for: object and value. -/
def forwardTargets (x : Job) (n : Nat) : List (Nat × Nat) := [(x.exchange.getD 0 0, n + 1), (x.exchange.getD 3 0, n - 1)]
def returnTargets (x : Job) (n : Nat) : List (Nat × Nat) :=
  [(x.exchange.getD 3 0, n + 1), (x.exchange.getD 0 0, n + x.coupling.getD 0)]

/-- Register the coupler's watches for both directions. -/
def coupleWaits (s : Chip) (j : Nat) : Chip :=
  match s.job j with
  | some x =>
    if jobCoupled x then
      ((forwardTargets x x.forward.next ++ returnTargets x x.ret.next).filter (fun t => t.2 ≠ 0)).foldl (fun (u : Chip) t =>
        u.buristWait t.1 t.2) s
    else s
  | none => s

/-- CONV_CTRL of a transfer: nearest-even, SAT and a COARSE_MODE. -/
def transferCtrl (fmt mode : Nat) : Nat := fmt + 2 ^ 10 + mode * 2 ^ 13

/-- The CONVERT of a transfer. -/
def transferCopy (s : Chip) (src dst : Tensor) (block chan obj n : Nat) : CopyDesc :=
  let f := Fmt.ofCode src.fmt
  let g := Fmt.ofCode dst.fmt
  let rows := (pieceShape src).1
  let cols := (pieceShape src).2
  let at_ (a : Nat) : U64 := BitVec.ofNat 64 (s.node * 2 ^ 48 + a)
  let a := src.pieces.headD (0, 0)
  let b := dst.pieces.headD (0, 0)
  { opcode := 2, cflags := 0, srcFormat := BitVec.ofNat 8 src.fmt, dstFormat := BitVec.ofNat 8 dst.fmt
    rows := BitVec.ofNat 32 rows, cols := BitVec.ofNat 32 cols, signalObj := 0xFFFF
    arrivalObj := BitVec.ofNat 16 (refOfObj obj), src := at_ a.1, dst := at_ b.1
    srcRowStride := BitVec.ofNat 64 (f.rowBytes cols), dstRowStride := BitVec.ofNat 64 (g.rowBytes cols)
    srcScale := if f.scaled then at_ a.2 else 0, dstScale := if g.scaled then at_ b.2 else 0, convAddr := at_ block
    arrivalAdd := 1, cvc := BitVec.ofNat 16 chan, reserved := 0
    srcCoarse := if f.hasCoarse then src.coarse else 0x3F800000
    reservedMid := 0, alive := BitVec.ofNat 64 n, seq := BitVec.ofNat 64 n, completionAddr := 0, reservedTail := 0 }

/-- Put a transfer's mode into its conversion block; the block is new at step 0. -/
def transferBlock (s : Chip) (block ctrl n : Nat) : Chip :=
  let one := leBytes 4 0x3F800000
  s.put s.buristUnit block (leBytes 4 ctrl ++ (if n = 0 then one ++ List.replicate 8 0 ++ one ++ List.replicate 12 0 else []))

/-- The engines of a stack that may take a transfer: enabled, with room in the service queue (R33). -/
def transferEngines (s : Chip) (d : Nat) : List Nat := (s.enginesOf d).filter (fun e => decide ((s.engine e).service.length < 16))

/-- A job's coupler may start a transfer of step n: the job is not frozen, and no checkpoint of an earlier step still waits for
a part (R399). -/
def mayTransfer (s : Chip) (j : Nat) (x : Job) (n : Nat) : Bool :=
  (s.jobState j = 3 || s.jobState j = 4 || s.jobState j = 6) && jobCoupled x
    && !(x.ckpt.any (fun k => k.phase = 0 && !k.quiesced && decide (k.step < n)))

/-- FORWARD_TRANSFER: Fp to Ip of the next step, once its start conditions hold. -/
def forwardTransfer (s : Chip) (j : Nat) : Chip :=
  match s.job j with
  | none => s
  | some x =>
    let n := x.forward.next
    let stack := (bindStacks x.lower.bundle).getD 0 0
    let es := s.transferEngines stack
    if !s.mayTransfer j x n || x.forward.engine.isSome || !(forwardTargets x n).all (fun t => s.buristMet t.1 t.2) then s
    else match fieldTensor x (n % 2), fieldTensor x (4 + n % 2), es[Config.freeChoice s.free 70 % es.length]? with
      | some a, some b, some e =>
        let mode := if (Fmt.ofCode b.fmt).hasCoarse then (if n = 0 then 2 else 1) else 0
        let s1 := (s.setJob j (some { x with forward := { x.forward with next := n + 1, engine := some e } })).transferBlock
          x.forward.block (transferCtrl b.fmt mode) n
        (s1.serviceCopy (Fin.ofNat 128 e) j 1 (s.transferCopy a b x.forward.block (x.bind.getD 0 0) (x.exchange.getD 1 0) n)).coupleWaits j
      | _, _, _ => s

/-- RETURN_TRANSFER: Cp to Kp of the next step, once its start conditions hold. -/
def returnTransfer (s : Chip) (j : Nat) : Chip :=
  match s.job j with
  | none => s
  | some x =>
    let n := x.ret.next
    let stack := (bindStacks x.lower.bundle).getD 2 0
    let es := s.transferEngines stack
    if !s.mayTransfer j x n || x.ret.engine.isSome || !(returnTargets x n).all (fun t => s.buristMet t.1 t.2) then s
    else match fieldTensor x (2 + n % 2), fieldTensor x (6 + n % 2), es[Config.freeChoice s.free 71 % es.length]? with
      | some a, some b, some e =>
        let s1 := (s.setJob j (some { x with ret := { x.ret with next := n + 1, engine := some e } })).transferBlock
          x.ret.block (transferCtrl b.fmt 0) n
        (s1.serviceCopy (Fin.ofNat 128 e) j 2 (s.transferCopy a b x.ret.block (x.bind.getD 2 0) (x.exchange.getD 4 0) n)).coupleWaits j
      | _, _, _ => s

/-- INFERENCE_BATCH_CLOSE: a batch closes at 64 rows, or with fewer when its window expires. -/
def closeBatchRows (s : Chip) (j rows : Nat) (expired : Bool) : Chip :=
  if s.jobState j = 3 && (rows = 64 || (expired && 0 < rows && rows < 64)) then
    s.updJob j (fun x => { x with batcher := { x.batcher with closed := x.batcher.closed + 1, rows := rows } })
  else s

end Sys2Proof.Machine.Chip
end

