-- ==== Sys2Proof/Machine/Restore.lean ====
section
/-! DEFINITION. Restore: commit records, manifests, same-shape and re-sliced data (spec/15_jobs_and_checkpoints.md R404, R405,
R408 to R410; spec/18_safety_and_security.md R478; spec/09_synchronisation.md R266). -/

namespace Sys2Proof.Machine

/-- What a storage endpoint holds at [off, off + n). -/
def stored (store : List Extent) (off n : Nat) : Option (List Byte) :=
  (store.find? (fun e => decide (e.base ≤ off) && decide (off + n ≤ e.base + e.bytes.length))).map (fun e =>
    Bundle.slice e.bytes (off - e.base) n)

/-! ## The manifest, R404 -/

/-- A shard entry: member, stack, offset, bytes and digest. -/
structure ShardRow where
  member : Nat
  stack : Nat
  off : Nat
  bytes : Nat
  digest : List Byte
  deriving DecidableEq, Repr

/-- A tensor entry. -/
structure PieceRow where
  id : Nat
  member : Nat
  fmt : Nat
  rank : Nat
  shard : Nat
  elems : Nat
  scales : Nat
  origin : List Nat
  extent : List Nat
  deriving DecidableEq, Repr

def shardRows (m : List Byte) : List ShardRow :=
  (Bundle.chunks 96 (Bundle.slice m (64 + 16 * field m 0x18 4) (96 * field m 0x1C 4))).map (fun e =>
    ⟨field e 0 4, field e 4 1, field e 8 8, field e 0x10 8, Bundle.slice e 0x18 64⟩)

def pieceRows (m : List Byte) : List PieceRow :=
  (Bundle.chunks 128 (Bundle.slice m (64 + 16 * field m 0x18 4 + 96 * field m 0x1C 4) (128 * field m 0x20 4))).map (fun e =>
    ⟨field e 0 4, field e 4 4, field e 8 1, field e 9 1, field e 0x0C 4, field e 0x10 8, field e 0x18 8,
      Bundle.words 8 (Bundle.slice e 0x20 48), Bundle.words 8 (Bundle.slice e 0x50 48)⟩)

/-! ## Same-shape and re-slice, R409, R410 -/

def dataTensors (x : Job) : List Tensor := x.tensors.filter (fun t => t.region = 1)

/-- R409. -/
def sameShape (x : Job) (m : List Byte) : Bool :=
  field m 0x18 4 = x.members.length && (pieceRows m).all (fun e =>
    match x.tensors.find? (fun t => t.id = e.id) with
    | some t => e.fmt = t.fmt && e.rank = t.rank && e.extent = t.dims
    | none => false)

/-- The far corner of a set of boxes: the shape of the global tensor. -/
def corner (bs : List (List Nat × List Nat)) : List Nat :=
  (List.range 6).map (fun d => (bs.map (fun b => b.1.getD d 0 + b.2.getD d 1)).foldl max 0)

/-- The box that this package's job keeps of a tensor on member i. -/
def ownOrigin (x : Job) (t : Tensor) (i : Nat) : List Nat :=
  (List.range 6).map (fun d => (Config.ptoOrigin x.lower t.id i).getD d 0)

/-- An origin lies on the blocks of its format. -/
def aligned (f : Fmt) (o : List Nat) : Bool :=
  f.block = 0 || (o.getD 5 0 % f.block = 0 && (!f.square || o.getD 4 0 % 16 = 0))

/-- R410: whether a restore that is not same-shape may proceed. -/
def resliceOk (x : Job) (m : List Byte) : Bool :=
  let ps := pieceRows m
  let ts := dataTensors x
  ps.all (fun e => ts.any (fun t => t.id = e.id)) && ts.all (fun t =>
    let mine := ps.filter (fun e => e.id = t.id)
    let own := (List.range x.members.length).map (fun i => (ownOrigin x t i, t.dims))
    !mine.isEmpty && mine.all (fun e => e.fmt = t.fmt && aligned (Fmt.ofCode e.fmt) e.origin)
      && own.all (fun b => aligned (Fmt.ofCode t.fmt) b.1) && corner (mine.map (fun e => (e.origin, e.extent))) = corner own)

/-- Two boxes meet. -/
def boxesMeet (o₁ e₁ o₂ e₂ : List Nat) : Bool :=
  (List.range 6).all (fun d => decide (o₁.getD d 0 < o₂.getD d 0 + e₂.getD d 1) && decide (o₂.getD d 0 < o₁.getD d 0 + e₁.getD d 1))

/-- The shards that a member reads, by their number in the table: its own, or those of every piece that meets its boxes with the
context shard of member 0. -/
def wanted (x : Job) (m : List Byte) (same : Bool) : List Nat :=
  let rows := SMap.number 0 (shardRows m)
  if same then (rows.filter (fun r => r.2.member = x.ownIndex)).map Prod.fst
  else
    let from_ := (pieceRows m).filter (fun e => match (dataTensors x).find? (fun t => t.id = e.id) with
      | some t => boxesMeet (ownOrigin x t x.ownIndex) t.dims e.origin e.extent
      | none => false)
    (rows.filter (fun r => (r.2.member = 0 && r.2.stack = 0xFF)
      || (r.2.stack ≠ 0xFF && from_.any (fun e => e.member = r.2.member)))).map Prod.fst

/-- The bytes of a member's stack as read: its shards in table order. -/
def stackImage (k : Restore) (member stack : Nat) : List Byte :=
  ((SMap.number 0 (shardRows k.manifest)).filter (fun r => r.2.member = member && r.2.stack = stack)).flatMap (fun r =>
    SMap.get [] k.got r.1)

/-- A piece as read: its stack's image with the offset of its elements and of its scales. -/
def pieceImage (k : Restore) (e : PieceRow) : List Byte × Nat × Nat :=
  let rows := SMap.number 0 (shardRows k.manifest)
  match rows.find? (fun r => r.1 = e.shard) with
  | some r =>
    let before := ((rows.filter (fun q => q.2.member = r.2.member && q.2.stack = r.2.stack && decide (q.1 < e.shard))).map
      (fun q => q.2.bytes)).sum
    (stackImage k r.2.member r.2.stack, before + e.elems, before + e.scales)
  | none => ([], 0, 0)

/-- Row-major number of the outer four coordinates. -/
def outerIx (extent at_ : List Nat) : Nat :=
  (List.range 4).foldl (fun n d => n * extent.getD d 1 + at_.getD d 0) 0

/-- The plane, row and column of a global position in a piece. -/
def locate (e : PieceRow) (g : List Nat) : Nat × Nat × Nat :=
  let l := (List.range 6).map (fun d => g.getD d 0 - e.origin.getD d 0)
  (outerIx e.extent l, l.getD 4 0, l.getD 5 0)

def holds (e : PieceRow) (g : List Nat) : Bool :=
  (List.range 6).all (fun d => decide (e.origin.getD d 0 ≤ g.getD d 0) && decide (g.getD d 0 < e.origin.getD d 0 + e.extent.getD d 1))

/-- The element code, or the fine scale byte, at a global position. -/
def oldCode (k : Restore) (es : List PieceRow) (f : Fmt) (g : List Nat) : Nat :=
  match es.find? (fun e => holds e g) with
  | some e =>
    let i := pieceImage k e
    let p := locate e g
    let row := f.rowBytes (e.extent.getD 5 1)
    codeAt f.bits (Bundle.slice i.1 (i.2.1 + (p.1 * f.paddedRows (e.extent.getD 4 1) + p.2.1) * row) row) p.2.2
  | none => 0

def oldScale (k : Restore) (es : List PieceRow) (f : Fmt) (g : List Nat) : Byte :=
  match es.find? (fun e => holds e g) with
  | some e =>
    let i := pieceImage k e
    let p := locate e g
    i.1.getD (i.2.2 + p.1 * f.scaleCount (e.extent.getD 4 1) (e.extent.getD 5 1) + f.blockOf (e.extent.getD 5 1) p.2.1 p.2.2) 0
  | none => 0

/-- The six coordinates of plane number q, row i and column j of a tensor, within the global tensor. -/
def globalAt (dims origin : List Nat) (q i j : Nat) : List Nat :=
  let d (n : Nat) : Nat := dims.getD n 1
  let l := [q / (d 1 * d 2 * d 3), q / (d 2 * d 3) % d 1, q / d 3 % d 2, q % d 3, i, j]
  (List.range 6).map (fun n => origin.getD n 0 + l.getD n 0)

/-- A tensor's bytes from the old pieces: elements, then the scale plane. -/
def reslice (k : Restore) (x : Job) (t : Tensor) : List Byte :=
  let f := Fmt.ofCode t.fmt
  let es := (pieceRows k.manifest).filter (fun e => e.id = t.id)
  let o := ownOrigin x t x.ownIndex
  let m := Bundle.dim t 4
  let n := Bundle.dim t 5
  let planes := List.range (Bundle.outer t)
  planes.flatMap (fun q => (List.range (f.paddedRows m)).flatMap (fun i =>
      packCodes f.bits ((List.range (f.padded n)).map (fun j =>
        if i < m && j < n then oldCode k es f (globalAt t.dims o q i j) else 0))))
    ++ planes.flatMap (fun q => (List.range (f.scaleCount m n)).map (fun b =>
      let w := f.blocksPerRow n
      oldScale k es f (globalAt t.dims o q (if f.square then 16 * (b / w) else b / w) (f.block * (b % w)))))

namespace Chip

/-! ## Commit records, R405, R478 -/

/-- The public key that a KEY_ID names, where it is certified. -/
def certifiedKey (s : Chip) (kid : List Byte) : Option (List Byte) :=
  if sha3_256 Config.jobPublicKey = kid then some Config.jobPublicKey
  else match s.flash.keys.find? (fun k => k.keyId = kid && bit k.use 4) with
    | some k => some k.publicKey
    | none => (s.fab.certs.find? (fun c => sha3_256 c.jobPublicKey = kid)).map (·.jobPublicKey)

/-- The valid commit record of a generation, with its manifest. -/
def validRecord (s : Chip) (x : Job) (p : CkptPolicy) (store : List Extent) (g : Nat) : Option Restore :=
  match stored store (genBase p g) 4883 with
  | none => none
  | some r =>
    match s.certifiedKey (Bundle.slice r 0xB0 32), stored store (genBase p g + 8192) (field r 0x28 8) with
    | some key, some man =>
      if field r 0 4 = 0x434D4954 && field r 4 2 = 1 && field r 8 8 = x.jobId.toNat
        && Config.verify key (r.take 256) (Bundle.slice r 0x100 4627) && sha3_512 man = Bundle.slice r 0x30 64
      then
        let same := sameShape x man
        some ⟨field r 0x20 4, field r 0x10 8, g, field r 0x18 8, man, same, wanted x man same, []⟩
      else none
    | _, _ => none

/-- The record that a restore takes: the valid one with the higher SEQUENCE (R408). -/
def newestRecord (s : Chip) (x : Job) (p : CkptPolicy) (store : List Extent) : Option Restore :=
  match s.validRecord x p store 0, s.validRecord x p store 1 with
  | some a, some b => if a.seq < b.seq then some b else some a
  | some a, none => some a
  | none, r => r

/-! ## Putting a restore into place -/

/-- The copies of the controlled weights after a re-slice: no manifest entry says where the old members' copies lay, so their bytes
are free (log entry 90). -/
def restoreCopies (s : Chip) (j : Nat) (x : Job) : Chip :=
  (weightCopies x.lower ((x.training.map (·.entries)).getD []) x.tensors).foldl (fun (t : Chip) w =>
    let base := (s.dataRegion j w.copy.stack).1
    let n := roundUp (pieceBytes w.tensor 0x21) 64
    (t.spoil t.buristUnit (base + w.copy.work) n).spoil t.buristUnit (base + w.copy.published) n) s

/-- The DATA regions of a member from what it has read. Pieces of split tensors beyond the place that a manifest entry names
come from nowhere the manifest states. -/
def restoreData (s : Chip) (j : Nat) (x : Job) (k : Restore) : Chip :=
  if k.same then
    (List.range 4).foldl (fun (t : Chip) d =>
      let b := stackImage k x.ownIndex d
      (t.storeRaw (s.dataRegion j d).1 (b.take (s.dataRegion j d).2)).2) s
  else
    (dataTensors x).foldl (fun (t : Chip) tn =>
      let b := if tn.splitCount = 0 then reslice k x tn
        else (List.range (Bundle.tensorBytes tn)).map (fun q => Config.freeBytes s.free (0x20000 + tn.id) q)
      (tensorRanges tn b).foldl (fun (t : Chip) r => (t.storeRaw r.1 r.2).2) t) (s.restoreCopies j x)

/-- Objects, controller, conversion blocks and ordinals from a context shard (R266, R401, R408). -/
def restoreContext (s : Chip) (j : Nat) (x : Job) (ctx : List Byte) : Chip :=
  let n := field ctx 12 4
  let os := (objectsOf x).mergeSort (fun a b => a ≤ b)
  let s1 := (SMap.number 0 (os.take n)).foldl (fun (t : Chip) e =>
    (t.setObject e.2 (BitVec.ofNat 64 (field ctx (16 + 8 * e.1) 8))).2) s
  let at1 := 16 + 8 * n
  let s2 := match x.controller with
    | some c => (s1.updJob j (fun y => { y with controller := some (controllerOf c (ctx.drop at1)) })).countStates j
    | none => s1
  let at2 := at1 + (match x.controller with | some c => controllerSize c | none => 0)
  let blocks := s.ckptBlocks j x
  let s3 := (SMap.number 0 blocks).foldl (fun (t : Chip) e =>
    t.put t.buristUnit e.2 (Bundle.slice ctx (at2 + 32 * e.1) 32)) s2
  if (jobStepObj x).isSome then s3
  else
    let at3 := at2 + 32 * blocks.length
    let cs := jobCores x
    let s4 := (SMap.number 0 cs).foldl (fun (t : Chip) c => (List.range 4).foldl (fun (t : Chip) st =>
      t.updStream c.2 st (fun y => { y with ordinal := field ctx (at3 + 32 * c.1 + 8 * st) 8 })) t) s3
    s4.updJob j (fun y => { y with buristOrdinal := field ctx (at3 + 32 * cs.length) 8 })

/-- The context that a restore uses: the member's own, or that of member 0 (R409, R410). -/
def contextOf (x : Job) (k : Restore) : List Byte := stackImage k (if k.same then x.ownIndex else 0) 0xFF

end Chip

end Sys2Proof.Machine
end

