-- ==== Sys2Proof/Machine/Start.lean ====
section
/-! DEFINITION. The start of a job: broadcast of the bundle, paced loading, READY and RUN, failed members and spares
(spec/15_jobs_and_checkpoints.md R386 to R397, R408, R411; spec/06_four_bit_training.md R151). -/

namespace Sys2Proof.Machine.Chip

/-- A running job's watchdog arms once its object and limit are set (R468). -/
def armWatchdog (s : Chip) (j : Nat) : Chip :=
  if s.jobState j = 3 && s.reg 0x7000 (16 * j + 0x11) ≠ 0xFFFF && s.reg 0x7000 (16 * j + 0x12) ≠ 0 then
    s.updJob j (fun x => if x.wdArmed then x else { x with wdArmed := true, wdLast := none })
  else s

/-! ## Chunks, R389 -/

def castOf (s : Chip) (id : U64) : Option Broadcast := s.casts.find? (fun c => c.jobId = id)
def dropCast (s : Chip) (id : U64) : Chip := { s with casts := s.casts.filter (fun c => c.jobId ≠ id) }
def setCast (s : Chip) (c : Broadcast) : Chip :=
  { s with casts := s.casts.filter (fun d => d.jobId ≠ c.jobId) ++ [c] }

/-- The broadcast of a job at this package; one not yet known is that of the anchor's notice. -/
def castFor (s : Chip) (id : U64) : Broadcast :=
  match s.castOf id with
  | some c => c
  | none => let n := Config.treeNotice id s.node; { jobId := id, parent := n.1, alt := n.2.1, anchor := n.2.2 }

/-- Chunk k as this package holds it: the anchor in its bundle, a member in what it has staged. -/
def castChunk (s : Chip) (c : Broadcast) (k : Nat) : Option (List Byte) :=
  let b := match s.job (s.slotOfJobId c.jobId) with
    | some x => if c.anchor = s.node then Bundle.slice x.lower.bundle (0x100000 * k) 0x100000 else []
    | none => SMap.get [] c.chunks k
  if b.isEmpty then none else some b

/-- Send a child chunk k and those after it, as far as they are held. -/
def feedChild : Nat → Chip → Broadcast → Nat → Nat → Nat × Chip
  | 0, s, _, _, k => (k, s)
  | n + 1, s, c, child, k =>
    match s.castChunk c k with
    | some b => feedChild n ((s.sendNote 3 child (.chunk c.jobId k b)).bump 0x6200 3 1) c child (k + 1)
    | none => (k, s)

/-- Send every child what it can have. -/
def feedAll (s : Chip) (id : U64) : Chip :=
  match s.castOf id with
  | none => s
  | some c =>
    let r := c.children.foldl (fun (a : List (Nat × Nat) × Chip) ch =>
      let f := feedChild 262145 a.2 c ch.1 ch.2
      (a.1 ++ [(ch.1, f.1)], f.2)) ([], s)
    r.2.setCast { c with children := r.1 }

/-- The number of chunks held without a gap from chunk 0: the last good chunk plus one. -/
def goodChunks (c : Broadcast) : Nat :=
  ((List.range (c.chunks.length + 1)).find? (fun k => (SMap.get [] c.chunks k).isEmpty)).getD 0

/-- The chunks of the bundle, once chunk 0 tells TOTAL_SIZE; a size that stage 1 refuses needs no more. -/
def chunkTotal (c : Broadcast) : Option Nat :=
  let b := SMap.get [] c.chunks 0
  if b.isEmpty then none
  else let n := field b 0x10 8; some (if n = 0 || 2 ^ 38 < n then 1 else ceilDiv n 0x100000)

/-- The job of slot j loads for a START; a frozen one (R305) does not run, and loads on. -/
def starting (s : Chip) (j : Nat) : Bool :=
  s.jobState j = 2 || (s.jobState j = 5 && (s.job j).any (fun x => x.thawTo = 2))

/-! ## Running, R388 order 6, R408 -/

/-- The job of slot j runs: on a first start from step 0, after a restore from the step behind the restored one. -/
def beginRunning (s : Chip) (j : Nat) : Chip :=
  match s.job j with
  | none => s
  | some x =>
    let ms := x.memberStates.map (·.node)
    let s1 := match x.restore with
      | none => (s.setStatus j 5 1).setJob j (some { x with started := true, live := ms })
      | some k =>
        let n := (k.step + 1) % 2 ^ 64
        let t := s.restoreContext j x (contextOf x k)
        let t1 := t.updJob j (fun y => { y with
          started := true, live := ms, restore := none, nextGen := 1 - k.gen, ckptSeq := k.seq + 1, gates := [n, n, n]
          forward := { y.forward with next := n }, ret := { y.ret with next := n } })
        let t2 := (t1.setStatus j 5 (k.epoch + 1)).setStatus j 4 k.step
        if x.policy.isSome then (jobParts x).foldl (fun (u : Chip) p => u.openGates x p) t2 else t2
    let s2 := ((s1.writeVariants j).coupleWaits j).trainWait j
    let s3 := ((s2.setStatus j 2 3).goStreams x).finishCommands j 2 0
    s3.armWatchdog j

/-! ## Failed members, R392, R393 -/

/-- What a start that lost a member shows, also as an event. -/
def showFailure (s : Chip) (j code failed spare : Nat) : Chip :=
  (((s.setStatus j 3 code).setStatus j 7 failed).setStatus j 8 spare).addLog code j 0 s.buristUnit (leBytes 2 failed ++ leBytes 2 spare)

/-- The start ends, with every admission. -/
def abortStart (s : Chip) (j code : Nat) : Chip :=
  match s.job j with
  | none => s
  | some x => (((s.tellMembers x (.command x.jobId 6)).finishCommands j 1 code).finishCommands j 2 code).endJob j

/-- The spares that may take a failed member's index: reachable, unused, and held by no other job that this package knows of;
ascending. -/
def freeSpares (s : Chip) (x : Job) : List Nat :=
  (x.spares.filter (fun n => s.reachable n && !(x.memberStates.any (fun m => m.node = n)) && !x.lost.contains n
    && s.slotWhere (fun y => y.jobId ≠ x.jobId && y.members.contains n) = 0xFF)).mergeSort (fun a b => a ≤ b)

/-- Give a member's index to a spare. -/
def putSpare (ms : List MemberState) (node spare : Nat) : List MemberState :=
  ms.map (fun m => if m.node = node then ⟨spare, m.index, false, true, false, false⟩ else m)

/-- Declare a member of a start failed: a spare takes its index, or the start ends. -/
def declareFailed (s : Chip) (j node cause : Nat) : Chip :=
  match s.job j with
  | none => s
  | some x =>
    if !(x.memberStates.any (fun m => m.node = node)) then s
    else
      let code := if x.reparented then Code.broadcastReparented else Code.peerUnreachable
      let s0 := s.sendNote 4 node (.command x.jobId 6)
      match (if x.spareMode = 1 && node ≠ s.node then (s.freeSpares x).head? else none) with
      | some sp =>
        let s1 := s0.setJob j (some { x with memberStates := putSpare x.memberStates node sp, lost := x.lost ++ [node] })
        (s1.sendNote 4 sp (.command x.jobId 1)).showFailure j code node sp
      | none => (s0.showFailure j code node 0xFFFF).abortStart j (if node = s.node then cause else code)

/-! ## READY and RUN, R388 -/

/-- At the anchor: every member has its stage-8 result, or every member is READY. -/
def checkStart (s : Chip) (j : Nat) : Chip :=
  match s.job j with
  | none => s
  | some x =>
    if x.loading then
      if x.memberStates.all (·.loaded) then (s.setJob j (some { x with loading := false })).finishCommands j 1 0 else s
    else if s.jobState j = 2 && x.memberStates.all (·.ready) then
      let s1 := if x.reparented && x.lost.isEmpty then (s.setStatus j 3 Code.broadcastReparented).setStatus j 7 0xFFFF else s
      ((s1.tellMembers x (.run x.jobId)).updJob j (fun y => { y with lost := [] })).beginRunning j
    else s

/-- Change what is known of a member. -/
def markMember (s : Chip) (j node : Nat) (f : MemberState → MemberState) : Chip :=
  s.updJob j (fun x => { x with memberStates := x.memberStates.map (fun m => if m.node = node then f m else m) })

/-- This package has loaded its shards: it is READY, and reports so. -/
def reportReady (s : Chip) (j : Nat) : Chip :=
  match s.job j with
  | none => s
  | some x =>
    let s1 := s.markMember j s.node (fun m => { m with ready := true })
    if s.actsAsAnchor j then s1.checkStart j else s1.sendNote 4 (s.reg 0x6001 (16 * j + 6)) (.ready x.jobId 0)

/-- This package cannot take part in the start. -/
def reportRefusal (s : Chip) (j code : Nat) : Chip :=
  match s.job j with
  | none => s
  | some x =>
    if s.actsAsAnchor j then s.declareFailed j s.node code
    else s.sendNote 4 (s.reg 0x6001 (16 * j + 6)) (.ready x.jobId code)

/-- READY from a member: its stage-8 result, then that it is loaded. -/
def onReady (s : Chip) (id : U64) (node status : Nat) : Chip :=
  let j := s.slotOfJobId id
  match s.job j with
  | none => s
  | some x =>
    if !(s.actsAsAnchor j) || !(x.loading || s.starting j) then s
    else match x.memberStates.find? (fun m => m.node = node) with
      | none => s
      | some m =>
        if status ≠ 0 then s.declareFailed j node status
        else if !m.loaded then
          let s1 := s.markMember j node (fun m => { m with loaded := true, suspect := false })
          let s2 := if s.starting j then s1.sendNote 4 node (.command id 2) else s1
          s2.checkStart j
        else (s.markMember j node (fun m => { m with ready := true, suspect := false })).checkStart j

/-- RUN from the anchor, at a member that is READY. -/
def onRun (s : Chip) (id : U64) : Chip :=
  let j := s.slotOfJobId id
  match s.job j with
  | none => s
  | some x =>
    if s.jobState j = 2 && !(s.actsAsAnchor j) && (x.memberStates.any (fun m => m.node = s.node && m.ready)) then s.beginRunning j
    else s

/-! ## Initial weight copies, R151 -/

/-- The descriptor that writes the PB4_SQ copy of one piece of a weight in COARSE_MODE 2. -/
def seedCopy (s : Chip) (t : Tensor) (piece : Nat × Nat) (rows cols dst conv : Nat) : CopyDesc :=
  let f := Fmt.ofCode t.fmt
  let sq := Fmt.ofCode 0x21
  { opcode := 2, cflags := 0, srcFormat := BitVec.ofNat 8 t.fmt, dstFormat := 0x21, rows := BitVec.ofNat 32 rows
    cols := BitVec.ofNat 32 cols, signalObj := 0xFFFF, arrivalObj := 0xFFFF, src := BitVec.ofNat 64 (s.node * 2 ^ 48 + piece.1)
    dst := BitVec.ofNat 64 (s.node * 2 ^ 48 + dst), srcRowStride := BitVec.ofNat 64 (f.rowBytes cols)
    dstRowStride := BitVec.ofNat 64 (sq.rowBytes cols), srcScale := 0
    dstScale := BitVec.ofNat 64 (s.node * 2 ^ 48 + dst + roundUp (sq.paddedRows rows * sq.rowBytes cols) 64)
    convAddr := BitVec.ofNat 64 (s.node * 2 ^ 48 + conv), arrivalAdd := 0, cvc := 0xFFFF, reserved := 0, srcCoarse := 0x3F800000
    reservedMid := 0, alive := 0, seq := 0, completionAddr := 0, reservedTail := 0 }

/-- The conversion block of a working copy before its first use. -/
def seedBlock : List Byte := leBytes 4 (seedCtrl 2) ++ leBytes 4 0x3F800000 ++ List.replicate 8 0 ++ leBytes 4 0x3F800000
  ++ List.replicate 12 0

/-- Write the PB4_SQ copy of every controlled weight. -/
def seedCopies (s : Chip) (j : Nat) (x : Job) : Chip :=
  (weightCopies x.lower ((x.training.map (·.entries)).getD []) x.tensors).foldl (fun (t : Chip) w =>
    let base := (s.dataRegion j w.copy.stack).1
    match t.anyEngine w.copy.stack with
    | none => t
    | some en => (t.put t.buristUnit (base + w.copy.block) seedBlock).serviceCopy (Fin.ofNat 128 en) j 7
        (s.seedCopy w.tensor (w.tensor.pieces.getD w.piece (0, 0)) (pieceShape w.tensor).1 (pieceShape w.tensor).2
          (base + w.copy.work) (base + w.copy.block))) s

/-- The initial copies of a starting job have ended. -/
def seeded (s : Chip) (j : Nat) : Chip :=
  match s.job j with
  | none => s
  | some x => if x.seeding && !(s.serviceRuns j 7) then (s.setJob j (some { x with seeding := false })).reportReady j else s

/-- After a copy has ended: starts that waited for it go on. -/
def afterCopies (s : Chip) : Chip := (List.range 8).foldl (fun (t : Chip) j => t.seeded j) s

/-! ## Paced loading, R395 to R397 -/

/-- Everything that a start reads has been read: a restore's data go into place; a first start writes the initial copies. -/
def loadDone (s : Chip) (j : Nat) : Chip :=
  match s.job j with
  | none => s
  | some x =>
    match x.restore with
    | some k => (s.restoreData j x k).reportReady j
    | none => ((s.seedCopies j x).updJob j (fun y => { y with seeding := true })).seeded j

/-- Data shards of the pacing record. -/
def shardCount (x : Job) : Nat := (x.pacing.map (fun p => p.shards.length)).getD 0

/-- Order 5 of R388 begins on this package. -/
def beginLoad (s : Chip) (j : Nat) : Chip :=
  match s.job j with
  | none => s
  | some x =>
    let n := shardCount x
    let left := List.range n ++ (match x.restore with | some k => k.want.map (n + ·) | none => [])
    let s1 := (s.setJob j (some { x with
      shardsLeft := left, retried := [], reading := false, asked := 0
      memberStates := x.memberStates.map (fun m => { m with ready := false }) })).setStatus j 2 2
    if left.isEmpty then s1.loadDone j else s1

def rateCap (x : Job) : Nat := 1024 * (x.pacing.map (·.rateCap)).getD 0

/-- SHARD_LOAD_START: the stagger delay has passed. -/
def shardStart (s : Chip) (j : Nat) : Chip :=
  s.updJob j (fun x => if s.starting j && !x.reading && !x.shardsLeft.isEmpty then { x with reading := true, asked := rateCap x }
    else x)

/-- LOAD_PACING_WINDOW: another RATE_CAP may be asked for. -/
def pacingWindow (s : Chip) (j : Nat) : Chip :=
  s.updJob j (fun x => if x.reading then { x with asked := x.asked + rateCap x } else x)

/-- Bytes of shard n, and whether what was read has its digest. -/
def shardWants (x : Job) (n : Nat) : Option (Nat × (List Byte → List Byte → Bool)) :=
  let c := shardCount x
  if n < c then
    (x.pacing.bind (fun p => p.shards[n]?)).bind (fun e =>
      (x.tensors.find? (fun t => t.id = e.tensor)).map (fun t =>
        (Bundle.tensorBytes t, fun b d => e.digests = 0 || sha3_512 b = d)))
  else x.restore.bind (fun k => ((shardRows k.manifest)[n - c]?).map (fun r => (r.bytes, fun b _ => sha3_512 b = r.digest)))

/-- SHARD_READ_DONE: a shard has been read whole. -/
def shardRead (s : Chip) (j n : Nat) (bytes digest : List Byte) : Chip :=
  match s.job j with
  | none => s
  | some x =>
    match (if s.starting j && x.reading && x.shardsLeft.contains n then shardWants x n else none) with
    | none => s
    | some (size, good) =>
      if bytes.length ≠ size || (rateCap x ≠ 0 && decide (x.asked < size)) then s
      else
        let left := x.asked - size
        if !(good bytes digest) then
          if x.retried.contains n then s.reportRefusal j Code.checkMismatch
          else s.setJob j (some { x with retried := n :: x.retried, asked := left })
        else
          let y := { x with asked := left, shardsLeft := x.shardsLeft.filter (fun i => i ≠ n), retried := x.retried.filter (fun i => i ≠ n) }
          let c := shardCount x
          let s1 := if n < c then
              let t := s.setJob j (some y)
              match (x.pacing.bind (fun p => p.shards[n]?)).bind (fun e => x.tensors.find? (fun t => t.id = e.tensor)) with
              | some tn => (tensorRanges tn bytes).foldl (fun (t : Chip) r => (t.storeRaw r.1 r.2).2) t
              | none => t
            else s.setJob j (some { y with restore := y.restore.map (fun k => { k with got := SMap.insert k.got (n - c) bytes }) })
          if y.shardsLeft.isEmpty then (s1.updJob j (fun z => { z with reading := false })).loadDone j else s1

/-! ## START, R388, R408 -/

/-- START begins: the member loads, and the acting anchor tells the other members. -/
def startJob (s : Chip) (j id : Nat) (restore : Bool) (store : List Extent) : Chip :=
  match s.job j with
  | none => s
  | some x =>
    let s0 := s.setJob j (some { x with waits := x.waits ++ [(2, id)] })
    let s1 := if s.actsAsAnchor j then s0.tellMembers x (.command x.jobId 2) else s0
    if !restore then s1.beginLoad j
    else
      let fail (c : Nat) : Chip :=
        let t := (s1.setStatus j 3 c).addLog c j 0 s1.buristUnit []
        if s.actsAsAnchor j then t.abortStart j c else t.reportRefusal j c
      match x.policy.bind (fun p => s.newestRecord x p store) with
      | none => fail Code.checkpointUncommitted
      | some k =>
        if !k.same && !(resliceOk x k.manifest) then fail Code.shapeMismatch
        else
          let t := s1.updJob j (fun y => { y with restore := some k })
          (if k.same then t else t.setStatus j 3 Code.resliced).beginLoad j

/-! ## LOAD of a job with several members, R388 orders 1 to 4 -/

/-- The anchor holds an admitted bundle with more members: it waits for them. -/
def beginBroadcast (s : Chip) (j id : Nat) : Chip :=
  match s.job j with
  | none => s
  | some x =>
    ((s.setJob j (some { x with loading := true, waits := if id = 0 then x.waits else x.waits ++ [(1, id)] })).setCast
      { (s.castFor x.jobId) with anchor := s.node, complete := true, chunks := [] }).feedAll x.jobId

/-- A member's admission by broadcast has ended without success. -/
def refuseCast (s : Chip) (c : Broadcast) (code : Nat) : Chip := (s.dropCast c.jobId).sendNote 4 c.anchor (.ready c.jobId code)

/-- A member holds every chunk: stages 1 to 8. A first failure of stage 2 asks the anchor for all chunks again (R391). -/
def castAdmit (s : Chip) (c : Broadcast) : Chip :=
  let b := (List.range (goodChunks c)).flatMap (fun k => SMap.get [] c.chunks k)
  let r := s.admitJob b .broadcast 0
  let t := r.2.2
  if r.1 = Code.signatureInvalid && c.fails = 0 then
    (t.setCast { c with fails := 1, chunks := [], share := [0, 0, 0, 0], parent := c.anchor }).sendNote 4 c.anchor (.attach c.jobId 0)
  else if r.1 ≠ 0 then t.refuseCast c r.1
  else (t.setCast { c with complete := true, chunks := [], share := [0, 0, 0, 0] }).sendNote 4 c.anchor (.ready c.jobId 0)

/-- CHUNK_ARRIVAL: stage the chunk, pass it on, and let the bundle be admitted when it is whole. A member whose free HBM does not take the
bundle refuses. -/
def chunkArrival (s : Chip) (id : U64) (k : Nat) (bytes : List Byte) : Chip :=
  let c := s.castFor id
  if s.slotOfJobId id ≠ 0xFF || c.complete || bytes.isEmpty || decide (0x100000 < bytes.length) || decide (262144 ≤ k) then s
  else
    let c1 := { c with chunks := SMap.insert c.chunks k bytes }
    let total := field (SMap.get [] c1.chunks 0) 0x10 8
    match (if k = 0 && c.share = [0, 0, 0, 0] then s.spreadHbm (min total (2 ^ 38)) else some c.share) with
    | none => (s.showAdmission 0 0 (some ⟨6, Code.resourceExceeded, 0xFF, 3⟩) 0xFF).refuseCast c1 Code.resourceExceeded
    | some sh =>
      let c2 := { c1 with share := sh }
      let s1 := (s.setCast c2).feedAll id
      match s1.castOf id with
      | some c3 => if (match chunkTotal c3 with | some n => decide (n ≤ goodChunks c3) | none => false) then s1.castAdmit c3 else s1
      | none => s1

/-- ATTACH of a child: it gets the chunks from RESUME on. -/
def onAttach (s : Chip) (child resume : Nat) (id : U64) : Chip :=
  let c := s.castFor id
  let s1 := (s.setCast { c with children := c.children.filter (fun e => e.1 ≠ child) ++ [(child, resume)] }).feedAll id
  let moved (x : Job) : Bool := x.anchor = s.node && x.members.contains child
    && (x.tree.getD (x.members.idxOf child) (0, 0)).1 ≠ s.node
  s1.updJob (s1.slotOfJobId id) (fun x => if moved x then { x with reparented := true } else x)

def onDetach (s : Chip) (child : Nat) (id : U64) : Chip :=
  match s.castOf id with
  | some c => s.setCast { c with children := c.children.filter (fun e => e.1 ≠ child) }
  | none => s

/-- A child leaves its parent (R390). -/
def reattach (s : Chip) (id : U64) : Chip :=
  match s.castOf id with
  | none => s
  | some c =>
    if c.complete || c.anchor = s.node || s.slotOfJobId id ≠ 0xFF then s
    else
      let left := c.parent :: c.left
      let up := if left.contains c.alt || !(s.reachable c.alt) then c.anchor else c.alt
      let s1 := (s.setCast { c with parent := up, left := left }).sendNote 4 c.parent (.detach id)
      let s2 := (s1.sendNote 4 up (.attach id (goodChunks c))).sendNote 4 c.anchor (.suspect id c.parent)
      (s2.bump 0x6200 4 1).setReg 0x6200 5 c.parent

/-- WAITING from the parent: a package that waits itself tells its own children. -/
def onWaiting (s : Chip) (parent : Nat) (id : U64) : Chip :=
  let c := s.castFor id
  if c.complete || s.slotOfJobId id ≠ 0xFF || c.parent ≠ parent then s
  else c.children.foldl (fun (t : Chip) ch => t.sendNote 4 ch.1 (.waiting id)) (s.setCast c)

/-- SUSPECT at the anchor: it probes the suspect. -/
def onSuspect (s : Chip) (node : Nat) (id : U64) : Chip :=
  let j := s.slotOfJobId id
  match s.job j with
  | none => s
  | some x =>
    if !(s.actsAsAnchor j) || !(x.loading || s.starting j) then s
    else ((s.updJob j (fun y => { y with reparented := true })).markMember j node (fun m => { m with suspect := true })).sendNote 4 node
      (.probe id)

/-- PROBE_TIMEOUT: the suspect has not answered. -/
def probeTimeout (s : Chip) (id : U64) (node : Nat) : Chip :=
  let j := s.slotOfJobId id
  match s.job j with
  | none => s
  | some x => if x.memberStates.any (fun m => m.node = node && m.suspect) then s.declareFailed j node Code.peerUnreachable else s

/-- Members that the anchor still waits for. -/
def awaited (x : Job) : List Nat := (x.memberStates.filter (fun m => if x.loading then !m.loaded else !m.ready)).map (·.node)

/-- START_TIMEOUT at the anchor. -/
def startTimeout (s : Chip) (id : U64) : Chip :=
  let j := s.slotOfJobId id
  match s.job j with
  | none => s
  | some x =>
    if s.actsAsAnchor j && (x.loading || s.starting j) then
      (awaited x).foldl (fun (t : Chip) n => t.declareFailed j n Code.peerUnreachable) s
    else s

/-- After the link-state database has changed: children of a lost parent re-attach, and the anchor of a start declares
unreachable members failed (R390, R392). -/
def checkStarts (s : Chip) : Chip :=
  let s1 := (s.casts.filter (fun c => !(s.reachable c.parent))).foldl (fun (t : Chip) c => t.reattach c.jobId) s
  (List.range 8).foldl (fun (t : Chip) j =>
    match t.job j with
    | none => t
    | some x =>
      if t.actsAsAnchor j && (x.loading || t.starting j) then
        ((x.memberStates.map (·.node)).filter (fun n => !(t.reachable n))).foldl (fun (u : Chip) n => u.declareFailed j n Code.peerUnreachable) t
      else t) s1

/-- What follows a command that may have changed the database. -/
def afterLinks (s t : Chip) : Chip := if t.fab.lsdb = s.fab.lsdb then t else t.checkStarts

/-! ## Failures while running, R411 -/

/-- The members that the acting anchor declares failed, with the cause: those recorded as lost, and this package when a core or
array of the job is not enabled. -/
def lostMembers (s : Chip) (x : Job) : List Nat × Nat :=
  let down := (jobCores x).any (fun c => s.coreState c ≠ 1 || s.arrayState c 0 ≠ 1 || s.arrayState c 1 ≠ 1)
  if down then (x.lost ++ [s.node], if x.lostCode = 0 then Code.unitDraining else x.lostCode) else (x.lost, x.lostCode)

/-- Restart from the newest committed generation with spares in the lost members' places. -/
def restart (s : Chip) (j : Nat) (x : Job) (lost : List Nat) (ck : Nat × Nat × List Byte) : Chip :=
  let pairs := lost.zip (s.freeSpares x)
  let s1 := (s.dropWork j x).returnLeases (fun l => l.jobId = x.jobId)
  let s2 := (objectsOf x).foldl (fun (t : Chip) o => t.setObj o { owner := BitVec.ofNat 8 j }) s1
  let s3 := (jobCores x).foldl (fun (t : Chip) c => (List.range 4).foldl (fun (t : Chip) st => t.setStream c st { stopped := true }) t) s2
  let s4 := (s3.updJob j (fun y => { y with
      memberStates := (pairs.foldl (fun ms p => putSpare ms p.1 p.2) y.memberStates), lost := lost, lostCode := 0, ckpt := none
      pauseReq := false, stopReq := false, ckptReq := false
      restore := some ⟨ck.1, ck.2.1, 1 - x.nextGen, x.ckptSeq - 1, ck.2.2, true, wanted x ck.2.2 true, []⟩ })).setCast
    { (s3.castFor x.jobId) with anchor := s.node, complete := true, chunks := [] }
  let s5 := pairs.foldl (fun (t : Chip) p => (t.sendNote 4 p.2 (.command x.jobId 1)).showFailure j Code.peerUnreachable p.1 p.2) s4
  ((s5.tellMembers x (.command x.jobId 2)).feedAll x.jobId).beginLoad j

/-- The acting anchor stops a job that has lost members: it restarts with spares, or ends with the code of the cause. -/
def failRunning (s : Chip) (j : Nat) : Chip :=
  match s.job j with
  | none => s
  | some x =>
    let l := s.lostMembers x
    let s1 := s.abandonCkpt j l.2
    match (if x.spareMode = 1 && !(l.1.contains s.node) && l.1.length ≤ (s.freeSpares x).length then x.committed else none) with
    | some ck => s1.restart j ((s1.job j).getD x) l.1 ck
    | none => ((s1.showFailure j l.2 (l.1.headD 0xFFFF) 0xFFFF).tellMembers x (.command x.jobId 6)).stopJob j l.2

/-- The acting anchor is to stop the job of a slot. -/
def mustStop (s : Chip) (j : Nat) (x : Job) : Bool := s.actsAsAnchor j && !(s.lostMembers x).1.isEmpty

/-- CHECKPOINT_BOUNDARY of a part. A job that has lost members stops there, its gates closed. -/
def partBoundary (s : Chip) (j : Nat) (p : Part) : Chip :=
  match s.job j with
  | none => s
  | some x =>
    if x.policy.isSome && s.mustStop j x && (s.jobState j = 3 || s.jobState j = 6) then
      if !s.partReached x p then s
      else
        let gs := x.gates.set (partIx p) (x.gates.getD (partIx p) 0 + 1)
        let n := gs.getD (partIx p) 0
        let s1 := s.setJob j (some { x with gates := gs })
        if (jobParts x).all (fun q => n ≤ gs.getD (partIx q) 0) then s1.failRunning j else s1
    else s.ckptBoundary j p

/-- STEP_BOUNDARY. A job without checkpoint boundaries that lost members before this boundary stops here. -/
def boundary (s : Chip) (j : Nat) : Chip :=
  let t := s.stepBoundary j
  match t.job j with
  | none => t
  | some x =>
    if t.reg 0x6001 (16 * j + 4) ≠ s.reg 0x6001 (16 * j + 4) && x.policy.isNone && s.mustStop j x then t.failRunning j else t

/-! ## Quorum, R304 to R306, R412 -/


/-- The job of slot j freezes (R305). -/
def freeze (s : Chip) (j : Nat) (x : Job) : Chip :=
  if s.jobState j = 5 then s
  else
    let s1 := ((s.setJob j (some { x with thawTo := s.jobState j })).stopStreams x).setStatus j 2 5
    (s1.setStatus j 3 Code.partitionMinority).addLog Code.partitionMinority j 0 s1.buristUnit []

/-- A frozen job resumes. -/
def thaw (s : Chip) (j : Nat) : Chip :=
  match s.job j with
  | none => s
  | some x =>
    if s.jobState j ≠ 5 then s
    else
      let s1 := s.setStatus j 2 x.thawTo
      let s2 := (if x.thawTo = 3 || x.thawTo = 6 then s1.goStreams x else s1).driveJob x.jobId
      if x.thawTo = 2 then s2.checkStart j else s2.armWatchdog j

/-- QUORUM_SETTLE for one job: live set, epoch, acting anchor; freeze, go on, or end a stale copy. -/
def evaluateQuorum (s : Chip) (j : Nat) (epochs : List (Nat × Nat)) : Chip :=
  match s.job j with
  | none => s
  | some x =>
    let st := s.jobState j
    if st = 0 then s
    else
      let ms := x.memberStates.map (·.node)
      let own := s.reg 0x6001 (16 * j + 5)
      let heard := (s.node, own) :: epochs.filter (fun e => e.1 ≠ s.node && ms.contains e.1 && s.reachable e.1)
      let e := (heard.map Prod.snd).foldl max 0
      let live := ms.filter (fun n => heard.contains (n, e))
      let m := x.members.length
      let quorate := decide (m < 2 * live.length) || (2 * live.length = m && live.contains x.anchor)
      if own < e then ((s.addLog Code.partitionMinority j 0 s.buristUnit []).setStatus j 3 Code.partitionMinority).stopJob j Code.partitionMinority
      else if !quorate then s.freeze j x
      else
        let gone := x.live.filter (fun n => !live.contains n)
        let same := x.live.isEmpty || (live.all (fun n => x.live.contains n) && gone.isEmpty)
        let s1 := if same then s else s.setStatus j 5 (e + 1)
        let s2 := s1.setStatus j 6 (if live.contains x.anchor then x.anchor else (live.min?).getD s.node)
        let s3 := s2.updJob j (fun y => { y with live := live })
        -- a member declared failed ends a checkpoint in flight (R406, R411); in a start the anchor's own rules apply (R392)
        let s4 := if gone.isEmpty || st = 1 || st = 2 then s3
          else (if s3.actsAsAnchor j then s3.updJob j (fun y => { y with lost := y.lost ++ gone, lostCode := Code.peerUnreachable })
            else s3).abandonCkpt j Code.peerUnreachable
        s4.thaw j

/-- Burist sends this member's epoch of a job to its reachable members (R304, step 1). -/
def tellEpoch (s : Chip) (j : Nat) : Chip :=
  match s.job j with
  | none => s
  | some x => ((activeMembers x).filter s.reachable).foldl (fun (t : Chip) m =>
      t.sendNote 4 m (.epoch x.jobId (s.reg 0x6001 (16 * j + 5)))) s

/-- QUORUM_SETTLE of slot j: the database has settled for its job, which is evaluated; what waited for that goes on. -/
def quorumSettle (s : Chip) (j : Nat) (epochs : List (Nat × Nat)) : Chip :=
  let s1 := { s with fab := { s.fab with settled := true, unsettled := s.fab.unsettled.filter (· ≠ j) } }
  (((s1.tellEpoch j).evaluateQuorum j epochs).beginWrite j).pumpCheckpoints

end Sys2Proof.Machine.Chip
end

