-- ==== Sys2Proof/Machine/Commands.lean ====
section
/-! DEFINITION. The command object: acceptance, the queue, and what each command does (spec/16_object_dictionary.md R427 to
R430; spec/15_jobs_and_checkpoints.md R388, R400, R406; spec/02_execution_contract.md R35, R51). -/

namespace Sys2Proof.Machine.Chip

/-! ## Acceptance, R417, R428 -/

/-- The checks of the block alone. -/
def blockOk (cmd : Nat) (b : CommandBlock) : Bool :=
  let src := b.arg0.toNat % 256
  decide (1 ≤ cmd) && decide (cmd ≤ 7) && b.reserved = 0 && b.reservedTail = 0 && b.commandId ≠ 0
    && (if cmd = 2 || cmd = 6 then decide (b.cflags.toNat ≤ 1) else b.cflags = 0)
    && (if cmd = 1 then b.slot = 0xFF && b.jobId = 0 && decide (src ≤ 1)
          && (src ≠ 0 || (decide (13848 ≤ bits b.arg0.toNat 31 16) && decide (bits b.arg0.toNat 31 16 ≤ 16383)))
          && b.arg1.toNat % 4096 = 0 && decide (b.arg2.toNat ≤ 2 ^ 38)
        else decide (b.slot.toNat < 8) || (cmd = 6 && b.slot = 0xFF))
    && (cmd ≠ 7 || (decide (2 ^ 10 ≤ b.arg0.toNat) && decide (b.arg0.toNat ≤ 2 ^ 30)))

/-- Commands that each JOB_STATE permits, R429. -/
def permitted (st cmd : Nat) : Bool :=
  match st with
  | 1 => cmd = 2 || cmd = 6
  | 3 => cmd = 3 || cmd = 5 || cmd = 6 || cmd = 7
  | 4 => cmd = 4 || cmd = 5 || cmd = 6
  | 2 | 5 | 6 => cmd = 6
  | _ => false

/-- A STOP that names no slot ends an admission that arrives by broadcast. -/
def stopsCast (s : Chip) (b : CommandBlock) : Bool := b.slot = 0xFF && (s.castOf b.jobId).any (fun c => !c.complete)

/-- A peer writes LOAD, and START and STOP for jobs that its node is acting anchor of. -/
def peerMay (s : Chip) (who : Client) (cmd : Nat) (b : CommandBlock) : Bool :=
  cmd = 1 || ((cmd = 2 || cmd = 6) && (if b.slot = 0xFF then (s.castOf b.jobId).all (fun c => c.anchor = who.node.toNat)
    else decide (b.slot.toNat < 8) && s.reg 0x6001 (16 * b.slot.toNat + 6) = who.node.toNat))

/-- The code of a write of COMMAND. -/
def commandCode (s : Chip) (who : Client) (cmd : Nat) (b : CommandBlock) : Nat :=
  let j := b.slot.toNat
  let state : Bool :=
    if cmd = 1 || s.stopsCast b then true
    else match s.job j with
      | none => false
      | some x => x.jobId = b.jobId && permitted (s.jobState j) cmd
          && (x.members.length = 1 || who.role = .peer || s.actsAsAnchor j)
          && (cmd ≠ 5 || x.policy.isSome || x.members.length = 1)
  Code.firstOf [
    Code.need (who.role = .host || (who.role = .peer && s.peerMay who cmd b)) Code.accessDenied,
    Code.need (blockOk cmd b && (cmd ≠ 1 || b.arg0.toNat % 256 = 0 || decide (b.arg1.toNat + b.arg2.toNat ≤ s.reg 0x6010 1)))
      Code.outOfRange,
    Code.need state Code.stateConflict,
    Code.need (decide (s.cmds.length < 16)) Code.stateConflict]

/-! ## The commands as they start -/

def addWait (s : Chip) (j cmd id : Nat) : Chip := s.updJob j (fun x => { x with waits := x.waits ++ [(cmd, id)] })

/-- The acting anchor of a job with several members passes a command on (R428). -/
def propagate (s : Chip) (j cmd : Nat) : Chip :=
  match s.job j with
  | some x => if 1 < x.members.length && s.actsAsAnchor j then s.tellMembers x (.command x.jobId cmd) else s
  | none => s

/-- The bundle that a LOAD names: from the staging object, or from a storage endpoint that can be reached. -/
def loadBytes (s : Chip) (b : CommandBlock) (store : List Extent) : Option (List Byte) :=
  if b.arg0.toNat % 256 = 1 then some (SMap.getRange 0 s.staging.data b.arg1.toNat b.arg2.toNat)
  else if (s.candidates s.node (bits b.arg0.toNat 31 16)).isEmpty then none
  else stored store b.arg1.toNat b.arg2.toNat

/-- LOAD. -/
def doLoad (s : Chip) (q : Queued) : Chip :=
  let id := q.block.commandId.toNat
  let s := { s with staging := { s.staging with reading := q.block.arg0.toNat % 256 = 1 } }
  match s.loadBytes q.block q.store with
  | none => s.completeCommand 0xFF 1 id Code.peerUnreachable
  | some b =>
    let r := s.admitJob b (if q.who.role = .peer then .peer q.who.node.toNat else .local_) id
    let t := r.2.2
    if r.1 ≠ 0 then t.completeCommand 0xFF 1 id r.1
    else if q.who.role ≠ .peer && (t.job r.2.1).any (fun x => 1 < x.members.length) then t.beginBroadcast r.2.1 id
    else t.completeCommand r.2.1 1 id 0

/-- PAUSE: a coupled job at its next step boundary, any other at once. -/
def doPause (s : Chip) (j id : Nat) : Chip :=
  match s.job j with
  | none => s
  | some x =>
    let s1 := (s.addWait j 3 id).propagate j 3
    if jobCoupled x then s1.updJob j (fun y => { y with pauseReq := true }) else s1.pauseNow j

/-- RESUME. -/
def doResume (s : Chip) (j id : Nat) : Chip :=
  match s.job j with
  | none => s
  | some x => ((((s.propagate j 4).setStatus j 2 3).goStreams x).armWatchdog j).completeCommand j 4 id 0

/-- CHECKPOINT, R400: it selects the next step boundary; a job without a policy comes to rest, a running coupled one at its next step
boundary (R35), any other at once. -/
def doCheckpoint (s : Chip) (j id : Nat) : Chip :=
  match s.job j with
  | none => s
  | some x =>
    let s1 := (s.addWait j 5 id).propagate j 5
    if x.policy.isSome || (jobCoupled x && s.jobState j = 3) then s1.updJob j (fun y => { y with ckptReq := true })
    else s1.beginQuiesce j x

/-- STOP, R427. -/
def doStop (s : Chip) (j id : Nat) (after : Bool) : Chip :=
  match s.job j with
  | none => s
  | some x =>
    let st := s.jobState j
    let s1 := (s.addWait j 6 id).propagate j 6
    if x.loading || st = 2 then s1.abortStart j Code.stateConflict
    else if jobCoupled x && (st = 3 || (st = 6 && x.stopReq)) then
      (s1.updJob j (fun y => { y with stopReq := true, afterCommit := after })).setStatus j 2 6
    else if after && x.ckpt.isSome then (s1.updJob j (fun y => { y with afterCommit := true })).setStatus j 2 6
    else s1.stopJob j Code.stateConflict

/-- STOP of an admission by broadcast. -/
def doStopCast (s : Chip) (id : Nat) (jobId : U64) : Chip :=
  match s.castOf jobId with
  | some c => (s.refuseCast c Code.stateConflict).completeCommand 0xFF 6 id 0
  | none => s.completeCommand 0xFF 6 id Code.stateConflict

/-- A command starts; one whose slot has moved on meanwhile completes with STATE_CONFLICT. -/
def startCommand (s : Chip) (q : Queued) : Chip :=
  let j := q.block.slot.toNat
  let id := q.block.commandId.toNat
  if q.cmd = 1 then s.doLoad q
  else if q.cmd = 6 && q.block.slot = 0xFF then s.doStopCast id q.block.jobId
  else if !((s.job j).any (fun x => x.jobId = q.block.jobId)) || !permitted (s.jobState j) q.cmd then
    s.completeCommand j q.cmd id Code.stateConflict
  else match q.cmd with
    | 2 => s.startJob j id (q.block.cflags = 1) q.store
    | 3 => s.doPause j id
    | 4 => s.doResume j id
    | 5 => s.doCheckpoint j id
    | 6 => s.doStop j id (q.block.cflags = 1)
    | _ => ((s.updJob j (fun x => { x with batcher := { x.batcher with window := q.block.arg0.toNat } })).propagate j 7).completeCommand
        j 7 id 0

/-! ## The queue, R428 -/

/-- Replace the queue; QUEUE_DEPTH follows. -/
def setQueue (s : Chip) (l : List Queued) : Chip := { s.setReg 0x6000 2 l.length with cmds := l }

/-- An admission with members still runs (R51). -/
def admitting (s : Chip) : Bool := s.jobs.any (fun e => e.2.any (fun x => x.loading))

/-- A command may start: the package is awake, and a LOAD or START waits for the admission in progress. -/
def mayStart (s : Chip) (q : Queued) : Bool := s.reg 0x2200 2 = 0 && !((q.cmd = 1 || q.cmd = 2) && s.admitting)

/-- Take out the first element that satisfies a test. -/
def takeOut (p : Queued → Bool) : List Queued → Option (Queued × List Queued)
  | [] => none
  | q :: t => if p q then some (q, t) else (takeOut p t).map (fun r => (r.1, q :: r.2))

/-- Start the commands that may start, in the order they were accepted. -/
def runQueue : Nat → Chip → Chip
  | 0, s => s
  | n + 1, s =>
    match takeOut s.mayStart s.cmds with
    | some (q, l) => runQueue n ((s.setQueue l).startCommand q)
    | none => s

/-- What an accepted STOP does at once: the slot's unstarted commands complete, and its watchdog is off (R428, R468). -/
def stopAccepted (s : Chip) (j : Nat) : Chip :=
  if j < 8 then
    let mine (q : Queued) : Bool := q.cmd ≠ 1 && q.block.slot.toNat = j
    (s.cmds.filter mine).foldl (fun (t : Chip) q => t.completeCommand j q.cmd q.block.commandId.toNat Code.stateConflict)
      ((s.setQueue (s.cmds.filter (fun q => !mine q))).clearWatchdog j)
  else s

/-- An accepted command joins the queue; a Dormant package wakes for it (R458). -/
def acceptCommand (s : Chip) (q : Queued) : Chip :=
  let s1 := if q.cmd = 6 then s.stopAccepted q.block.slot.toNat else s
  let s2 := (s1.setQueue (s1.cmds ++ [q])).setReg 0x6000 3 q.block.commandId.toNat
  let s3 := if s2.reg 0x2200 2 = 2 then s2.beginWake else s2
  runQueue 17 s3

/-- A write of COMMAND: its code and the state after it. -/
def writeCommand (s : Chip) (who : Client) (cmd : Nat) (b : CommandBlock) (store : List Extent) : Nat × Chip :=
  let c := s.commandCode who cmd b
  if c ≠ 0 then (c, s) else (0, s.acceptCommand ⟨cmd, who, b, store⟩)

/-- The bytes of a command block. -/
def blockOf (v : List Byte) : Nat × CommandBlock :=
  (field v 0 1,
    { cflags := BitVec.ofNat 8 (field v 1 1), slot := BitVec.ofNat 8 (field v 2 1), reserved := BitVec.ofNat 8 (field v 3 1)
      commandId := BitVec.ofNat 32 (field v 4 4), jobId := BitVec.ofNat 64 (field v 8 8), arg0 := BitVec.ofNat 64 (field v 16 8)
      arg1 := BitVec.ofNat 64 (field v 24 8), arg2 := BitVec.ofNat 64 (field v 32 8)
      reservedTail := BitVec.ofNat 192 (field v 40 24) })

/-- The queue after any command of the block. -/
def settleQueue (s : Chip) : Chip := runQueue 17 s

/-! ## The bundle of the boot image, R452, R455 -/

/-- BOOT_BUNDLE_SUBMIT: at BOOT_PHASE 3 Burist stages the bundle component in HBM and submits it. -/
def submitBootBundle (s : Chip) : Chip :=
  match s.boot.bundle with
  | none => s
  | some b =>
    if s.boot.submitted || s.reg 0x2300 4 ≠ 3 then s
    else
      let s1 := { s with boot := { s.boot with submitted := true } }
      let s2 := match s1.spreadHbm b.length with
        | some sh => { s1 with staging := { s1.staging with share := sh } }
        | none => s1
      let r := s2.admitJob b .local_ 0
      let t := r.2.2
      if r.1 = 0 && (t.job r.2.1).any (fun x => 1 < x.members.length) then t.beginBroadcast r.2.1 0 else t

/-! ## The end of a wake, R458 -/

/-- WAKE_DONE: commands that waited start. -/
def wakeDone (s : Chip) (cycles : Nat) : Chip :=
  if s.reg 0x2200 2 = 3 then ((s.setReg 0x2200 2 0).setReg 0x2200 4 cycles).settleQueue else s

end Sys2Proof.Machine.Chip
end

