-- ==== Sys2Proof/Machine/Safety.lean ====
section
/-! DEFINITION. The safety monitor's own work (spec/18_safety_and_security.md R462 to R469). -/

namespace Sys2Proof.Machine

namespace Chip

/-- No lockstep pair is running. -/
def noPair (s : Chip) : Bool := s.mon.pairState.all (fun v => v ≠ 1)

def pairUnit (s : Chip) (p : Nat) : Nat := mkUnit 5 s.node p

/-- A pair stops running: a class 5 detection; the comparators assert SAFE_STATE_N when none runs, while the partition is
enabled (R460, R462). -/
def pairFault (s : Chip) (p state : Nat) : Chip :=
  let s1 := s.detect 5 Code.checkMismatch 0xFF (s.pairUnit p)
  let s2 := { s1 with mon := { s1.mon with pairState := s1.mon.pairState.set p state, pairMissed := s1.mon.pairMissed.set p 0 } }
  if s2.noPair && s2.partition then s2.enterSafe 5 else s2

/-- LOCKSTEP_MISMATCH: a running pair restarts; a mismatch during a restart is a failed restart, and the third in a row ends
the pair (R466). -/
def lockstep (s : Chip) (p : Nat) : Chip :=
  match s.mon.pairState.getD p 0 with
  | 1 => s.pairFault p 2
  | 2 =>
    let n := s.mon.pairFails.getD p 0 + 1
    { s with mon := { s.mon with pairFails := s.mon.pairFails.set p n } }.pairFault p (if 3 ≤ n then 3 else 2)
  | _ => s

/-- PAIR_RESTART_DONE. -/
def pairRestarted (s : Chip) (p : Nat) : Chip :=
  if s.mon.pairState.getD p 0 = 2 then
    { s with mon := { s.mon with pairState := s.mon.pairState.set p 1, pairFails := s.mon.pairFails.set p 0 } }
  else s

/-- PAIR_HEARTBEAT: a running pair that misses its second heartbeat is restarted by the other. -/
def pairHeartbeat (s : Chip) (missed : Option Nat) : Chip :=
  match missed with
  | none => { s with mon := { s.mon with pairMissed := [0, 0] } }
  | some p =>
    if s.mon.pairState.getD p 0 ≠ 1 then s
    else
      let n := s.mon.pairMissed.getD p 0 + 1
      if 2 ≤ n then s.pairFault p 2
      else { s with mon := { s.mon with pairMissed := s.mon.pairMissed.set p n } }

/-- WATCHDOG_SAMPLE: a value that equals the previous read is a class 7 detection (R468). -/
def watchdog (s : Chip) (j : Nat) : Chip :=
  match s.job j with
  | none => s
  | some x =>
    let o := s.reg 0x7000 (16 * j + 0x11)
    if !x.wdArmed || o = 0xFFFF || s.reg 0x7000 (16 * j + 0x12) = 0 then s
    else
      let v := (s.obj (objOfRef o)).value
      let s1 := s.updJob j (fun x => { x with wdLast := some v })
      if x.wdLast = some v then
        (s1.setReg 0x7000 (16 * j + 0x13) (s1.reg 0x7000 (16 * j + 0x13) + 1)).detect 7 Code.aliveStale j s1.monitorUnit
      else s1

/-- CLOCK_MONITOR: a class 8 detection; a lost 25 MHz reference holds until the package is powered down. -/
def clockMonitor (s : Chip) (fault ref : Bool) : Chip :=
  if fault then
    ({ s with mon := { s.mon with clockFault := true, refLost := s.mon.refLost || ref } }).detect 8 Code.aliveStale 0xFF s.monitorUnit
  else { s with mon := { s.mon with clockFault := s.mon.refLost } }

/-- HEARTBEAT_SEND, R469. -/
def heartbeats (s : Chip) : Chip :=
  if s.partition then s.safetyPeers.foldl (fun (t : Chip) p => t.sendSafety 1 0 p.1 p.2) s else s

/-- Both packages hold the job of a safety message: the slot. -/
def sharedJob (s : Chip) (jobId : U64) (node : Nat) : Option Nat :=
  let j := s.slotOfJobId jobId
  match s.job j with
  | some x => if x.members.contains node then some j else none
  | none => none

/-- A safety message for this package: dropped unless its SEQ exceeds the last accepted; a notice is a class 11 detection. -/
def onSafety (s : Chip) (mtype : Nat) (m : SafetyMsg) : Chip :=
  let n := m.srcNode.toNat
  if m.seq.toNat ≤ (SMap.get 0 s.mon.rxSeq n).toNat then s
  else
    let s1 := { s with mon := { s.mon with rxSeq := SMap.set 0 s.mon.rxSeq n m.seq } }
    if mtype = 2 then
      match s1.sharedJob m.jobId n with
      | some j => s1.detect 11 Code.aliveStale j s1.monitorUnit
      | none => s1
    else s1

def arriveSafety (s : Chip) (a : Arrival) (mtype : Nat) (m : SafetyMsg) : Chip :=
  if m.dest.toNat = s.node then s.onSafety mtype m
  else s.transit a 5 m.srcNode.toNat m.dest.toNat true (.safety mtype m) (fun t => t)

/-- MEMBER_SILENCE: three periods without a message from a member. -/
def memberSilent (s : Chip) (j node : Nat) : Chip :=
  match s.job j with
  | some x => if x.members.contains node && node ≠ s.node then s.detect 11 Code.aliveStale j s.monitorUnit else s
  | none => s

end Chip

end Sys2Proof.Machine
end

