-- ==== Sys2Proof/Machine/Dictionary.lean ====
section
/-! DEFINITION. The dictionary server: checks and effects of writes, and the values that reads give
(spec/16_object_dictionary.md R414 to R438; spec/04_matrix_arrays.md R117; spec/17_power_clocks_and_bringup.md R447 to R458;
spec/18_safety_and_security.md R459 to R480). -/

namespace Sys2Proof.Machine

/-- A write of one subindex: TYPE, OFFSET and the value's bytes. -/
structure Write where
  ix : Nat
  sub : Nat
  ty : Nat
  offset : Nat
  bytes : List Byte
  deriving DecidableEq, Repr

def Write.num (w : Write) : Nat := leNat w.bytes

/-- The bytes of a value of fixed length. -/
def fit (n : Nat) (b : List Byte) : List Byte := (b ++ List.replicate n 0).take n

/-- Whether a unit state object has the subindex: the unit it shows (R434). -/
def unitAt (ix sub : Nat) : Option UnitRef :=
  let i := sub - 1
  if sub = 0 then none
  else if Objects.within ix 0x3100 4 && i < 64 then some (.core (Fin.ofNat 256 (64 * (ix - 0x3100) + i)))
  else if Objects.within ix 0x3200 4 && i < 16 then some (.solver (Fin.ofNat 64 (16 * (ix - 0x3200) + i)))
  else if Objects.within ix 0x3300 8 && i < 64 then
    some (.array (Fin.ofNat 256 (64 * ((ix - 0x3300) / 2) + i)) (Fin.ofNat 2 ((ix - 0x3300) % 2)))
  else if Objects.within ix 0x5200 4 && i < 32 then some (.engine (Fin.ofNat 128 (32 * (ix - 0x5200) + i)))
  else if Objects.within ix 0x7100 256 && sub = 1 then some (.channel (Fin.ofNat 256 (ix - 0x7100)))
  else none

/-- USE bit of a role's keys, R476. -/
def useBit : Role → Nat
  | .host => 0
  | .service => 1
  | .safety => 2
  | .peer => 8

namespace Chip

/-! ## The checks of R417 -/

/-- The boot ROM serves the dictionary (R451). -/
def inRom (s : Chip) : Bool := s.reg 0x2300 4 = 0

/-- The subindex that an access names: the ROM serves four objects, and BOOT_COMMIT exists there alone (R451, R453). -/
def entryAt (s : Chip) (ix sub : Nat) : Option OEntry :=
  if s.inRom && !(ix = 0x1000 || ix = 0x1003 || ix = 0x2300 || ix = 0x6010) then none
  else if ix = 0x2300 && sub = 6 && !s.inRom then none
  else Objects.lookup ix sub

/-- The boot ROM accepts an image from the source that BOOT_SRC selects (R451). -/
def bootClient (s : Chip) (who : Client) : Bool :=
  match s.reg 0x2300 3 % 4, who.role, who.transport with
  | 1, .service, .mgmt => true
  | 2, .peer, .fabric _ => true
  | 3, .host, .hostPort => s.reg 0x4010 1 = 1
  | _, _, _ => false

/-- USE of the key-table entry with a KEY_ID. -/
def keyUse (s : Chip) (kid : List Byte) : Option Nat := (s.flash.keys.find? (fun k => k.keyId = kid)).map (·.use)

/-- The role may write the subindex (R418, R428, R461, R464, R468, R475). -/
def roleMay (s : Chip) (who : Client) (w : Write) : Bool :=
  let hs := who.role = .host || who.role = .service
  let safety := who.role = .safety
  let ix := w.ix
  if ix = 0x1003 then true
  else if s.inRom then s.bootClient who
  else if 0x2000 ≤ ix && ix < 0x3000 then hs
  else if Objects.within ix 0x3100 0x208 || Objects.within ix 0x5200 4 || Objects.within ix 0x7100 256 then
    hs || (safety && w.num = 0)
  else if ix = 0x4001 || Objects.within ix 0x4100 48 then who.role = .service
  else if ix = 0x4020 || ix = 0x4030 || ix = 0x4040 then hs
  else if 0x5000 ≤ ix && ix < 0x5200 then hs
  else if ix = 0x6000 then who.role = .host || (who.role = .peer && s.peerMay who (blockOf w.bytes).1 (blockOf w.bytes).2)
  else if 0x6000 < ix && ix < 0x7000 then who.role = .host
  else if ix = 0x7000 then
    if w.sub = 4 then safety || (hs && !s.partition)
    else if 0x11 ≤ w.sub then who.role = .host || safety
    else hs || safety
  else if ix = 0x7800 then
    if w.sub = 8 then hs || (safety && bit (field w.bytes 0 1) 2)
    else if w.sub = 9 then hs || (safety && (match s.keyUse w.bytes with | some u => bit u 2 | none => true))
    else hs
  else if 0x8000 ≤ ix && ix < 0x9000 then hs
  else false

/-- TYPE and length (R415). -/
def typeFits (e : OEntry) (w : Write) : Bool :=
  w.ty = e.ty.code && (match e.ty.size with
    | some n => w.bytes.length = n && w.offset = 0
    | none => true)

/-- The package holds an admitted job, or an admission is in progress. -/
def occupied (s : Chip) : Bool := s.jobs.any (fun e => e.2.isSome) || !s.casts.isEmpty

/-- Staging with the earlier one freed. -/
def unstaged (s : Chip) : Chip := { s with staging := {} }

/-- Ranges that the table's least and greatest value do not say. -/
def rangeFits (s : Chip) (w : Write) : Bool :=
  let v := w.num
  let slot := w.sub / 16 - 1
  match w.ix with
  | 0x4001 => isPackage v || v = 0xFFFF
  | 0x5020 => (w.sub ≠ 1 || decide (s.reg 0x5020 2 < v)) && (w.sub ≠ 2 || decide (v < s.reg 0x5020 1))
  | 0x6010 =>
    if w.sub = 1 then
      v % 4096 = 0 && (if s.inRom then decide (4096 ≤ v) && decide (v ≤ 50331648) else (s.unstaged.spreadHbm v).isSome)
    else decide (w.offset + w.bytes.length ≤ s.reg 0x6010 1)
  | 0x7000 =>
    if w.sub = 5 then Nat.land v 0xF761 = 0x0760
    else if 0x11 ≤ w.sub && w.sub % 16 = 1 then
      v = 0xFFFF || (refOk v && (match s.job slot with
        | some x => jobHoldsObj x (objOfRef v)
        | none => true))
    else if 0x11 ≤ w.sub && w.sub % 16 = 2 then v = 0 || decide (4096 ≤ v)
    else true
  | 0x7800 =>
    if w.sub = 8 then field w.bytes 1 3 = 0 && field w.bytes 0 1 ≠ 0 && decide (field w.bytes 0 1 < 32)
    else if w.sub = 9 then (s.keyUse w.bytes).isSome
    else true
  | 0x8100 => w.sub ≠ 1 || decide (v < 8) || v = 0xFF
  | _ => true

/-- The value lies within its range. -/
def inRange (s : Chip) (e : OEntry) (w : Write) : Bool :=
  (!e.ty.numeric || (decide (e.lo ≤ w.num) && decide (w.num ≤ e.hi) && (e.ty ≠ .bool || decide (w.num ≤ 1)))) && s.rangeFits w

/-- The partition locks the write (R225, R459, R460, R476, R477). -/
def lockedOut (s : Chip) (who : Client) (w : Write) : Bool :=
  s.partition && (match w.ix with
    | 0x5010 => w.sub = 1 && w.num = 0
    | 0x7000 =>
      (w.sub = 1 && w.num = 0) || ((w.sub = 5 || w.sub = 6 || w.sub = 9) && who.role ≠ .safety)
    | 0x7800 =>
      (w.sub = 0x0A && w.num = 0)
        || (w.sub = 8 && who.role ≠ .safety
            && (bit (field w.bytes 0 1) 2 || bit ((s.keyUse (sha3_256 (w.bytes.drop 4))).getD 0) 2))
        || (w.sub = 9 && who.role ≠ .safety && bit ((s.keyUse w.bytes).getD 0) 2)
    | _ => false)

/-- The package state permits the write. The states of units are tested with their effect. -/
def stateFits (s : Chip) (w : Write) : Bool :=
  let v := w.num
  let slot := w.sub / 16 - 1
  match w.ix with
  | 0x2010 | 0x2020 | 0x4001 => !s.occupied
  | 0x2200 => v = 0 || (!s.occupied && s.reg 0x2300 4 = 3)
  | 0x6010 => w.sub ≠ 1 || !(s.admitting && s.staging.reading)
  | 0x7000 =>
    if w.sub = 1 then v = 0 || !s.occupied
    else if w.sub = 4 then v = 0 || !(s.noPair || s.mon.clockFault || !s.mon.buristBeat)
    else if 0x11 ≤ w.sub then decide (1 ≤ s.jobState slot) && decide (s.jobState slot ≤ 4)
    else true
  | 0x7800 =>
    if w.sub = 8 then decide (s.flash.keys.length < 64) || (s.keyUse (sha3_256 (w.bytes.drop 4))).isSome
    else if w.sub = 9 then
      !bit ((s.keyUse w.bytes).getD 0) 0 || s.flash.keys.any (fun k => k.keyId ≠ w.bytes && bit k.use 0)
    else if w.sub = 0x0C then v = 0 || s.flash.advances ≠ 0
    else true
  | 0x8100 => w.sub ≠ 2 || v = 0 || s.dumping.isNone
  | ix => !(Objects.within ix 0x7100 256 && w.sub = 2) || s.reg ix 3 = 0xFF

/-- The code of a write, by the order of R417. -/
def writeCode (s : Chip) (who : Client) (w : Write) : Nat :=
  match s.entryAt w.ix w.sub with
  | none => Code.noSuchObject
  | some e => Code.firstOf [
      Code.need ((e.acc = .wo || e.acc = .rw) && s.roleMay who w) Code.accessDenied,
      Code.need (typeFits e w) Code.typeMismatch,
      Code.need (s.inRange e w) Code.outOfRange,
      Code.need (!s.lockedOut who w) Code.locked,
      Code.need (s.stateFits w) Code.stateConflict]

/-! ## Unit states, R117, R433, R434 -/

/-- A unit that passed its recovery test is enabled, a core with both its arrays. -/
def enableUnit (s : Chip) (u : UnitRef) : Chip :=
  match u with
  | .core c => ((s.changeUnit (.array c 0) 1).changeUnit (.array c 1) 1).changeUnit (.core c) 1
  | u => s.changeUnit u 1

/-- A write of 0 or 1 to a unit's state. A write of 1 to a disabled unit starts its recovery test and has no answer yet
(`none`), or, where the tests have passed, enables it. -/
def writeUnit (s : Chip) (u : UnitRef) (v : Nat) (tested : Bool) (origin : Option Origin) : Option Nat × Chip :=
  let st := s.unitState u
  let pending := s.pendingOff.contains u
  if v = 0 then
    if st ≠ 1 || pending then (some 0, s)
    else match s.job (s.slotOfUnit u) with
      | some x =>
        if jobCoupled x then (some 0, { s with pendingOff := s.pendingOff ++ [u] }.unitEvent u Code.ok 1 0 1)
        else (some 0, s.drainUnit u)
      | none => (some 0, (s.drainUnit u).endDrain u)
  else if st = 1 then (some 0, { s with pendingOff := s.pendingOff.filter (fun q => q ≠ u) })
  else if st = 2 then (some Code.stateConflict, s)
  else if tested then (some 0, s.enableUnit u)
  else (none, { s with testing := s.testing ++ [(u, origin)] })

/-! ## Effects of writes -/

/-- NODE_NUMBER, R289: stored in flash; every live port retrains. -/
def writeNode (s : Chip) (v : Nat) : Chip :=
  let old := s.node
  let s1 := s.setNode v
  let s2 := { s1.setReg 0x4002 5 0 with
    flash := { s1.flash with node := v }
    fab := { s1.fab with rival := none, lsdb := s1.fab.lsdb.filter (fun (r : LinkRecord) => r.node ≠ old) } }
  (List.range 48).foldl (fun (t : Chip) p => t.enterRetrain p) s2.renewRoles.dbChanged

/-- STAGE_SIZE, R430, R452. -/
def writeStage (s : Chip) (v : Nat) : Chip :=
  let s1 := s.unstaged
  let sh := if s.inRom then [0, 0, 0, 0] else (s1.spreadHbm v).getD [0, 0, 0, 0]
  { s1.setReg 0x6010 1 v with staging := { share := sh } }

/-- SLEEP_REQUEST, R456 and R458. -/
def writeSleep (s : Chip) (v : Nat) : Chip :=
  let s1 := s.setReg 0x2200 1 v
  let st := s.reg 0x2200 2
  if v = 1 then (if st = 0 then (s1.setReg 0x2200 2 1).powerPorts true else s1)
  else if st = 2 then s1.beginWake
  else s1

/-- KEY_ENROLL, R476. -/
def enroll (s : Chip) (use : Nat) (kid pk : List Byte) : Chip :=
  let e : KeyEntry := ⟨kid, use, pk⟩
  let keys := if s.flash.keys.any (fun k => k.keyId = kid) then
      s.flash.keys.map (fun k => if k.keyId = kid then { k with use := use } else k)
    else s.flash.keys ++ [e]
  { s with flash := { s.flash with keys := keys } }

/-- KEY_REVOKE, R476: sessions opened with the key close. -/
def revoke (s : Chip) (kid : List Byte) : Chip :=
  { s with
    flash := { s.flash with keys := s.flash.keys.filter (fun k => k.keyId ≠ kid) }
    dap := { s.dap with sessions := s.dap.sessions.filter (fun (x : Session) => x.keyId ≠ kid) } }

/-- ROLLBACK_ADVANCE, R474. -/
def advanceFloors (s : Chip) : Chip :=
  let f := (List.range 8).map (fun i => let a := s.flash.floors.getD i 0; let b := s.boot.versions.getD i 0; if a.toNat < b.toNat then b else a)
  { s.setReg 0x7800 0x0D (s.flash.advances - 1) with flash := { s.flash with floors := f, advances := s.flash.advances - 1 } }

/-- n bytes with bit i set where `f i` (R435). -/
def packBits (n : Nat) (f : Nat → Bool) : List Byte :=
  (List.range n).map (fun q => BitVec.ofNat 8 ((List.range 8).map (fun i => if f (8 * q + i) then 2 ^ i else 0)).sum)

/-- Values 01 to 09 of the disabled-unit map, R435. -/
def mapValue (s : Chip) (sub : Nat) : List Byte :=
  match sub with
  | 5 => packBits 32 (fun c => s.coreState c = 0)
  | 6 => packBits 64 (fun i => s.arrayState (i / 2) (i % 2) = 0)
  | 7 => packBits 8 (fun k => s.solverState k = 0)
  | 8 => packBits 16 (fun e => s.engineState e = 0)
  | 9 => packBits 32 (fun n => s.channelState n = 0)
  | i => let p := factoryClusters (i - 1); leBytes 2 (p.1 + 256 * p.2)

def mapDigest (s : Chip) : List Byte := sha3_512 ((List.range' 1 9).flatMap s.mapValue)

def deviceKeyId : List Byte := sha3_256 (fit 2592 Config.devicePublicKey)

/-- The ordering number, R2 and R436. -/
def orderingNumber (lf : Bool) : List Byte := ascii (if lf then "GL4-432-LF" else "GL4-432-L")

/-- The attestation report, R480. -/
def buildReport (s : Chip) (lf : Bool) (nonce : List Byte) : List Byte :=
  let held := (List.range 8).filterMap (fun j => (s.job j).map (fun x => (j, x)))
  let unsigned : List Byte := List.replicate 32 0
  let body := leBytes 4 0x41545354 ++ leBytes 2 1
    ++ leBytes 1 (boolNat s.partition + 2 * boolNat s.safe + 4 * boolNat s.jade + 8 * boolNat s.g3 + 16 * (s.reg 0x2300 3 / 128))
    ++ leBytes 1 (s.reg 0x7800 0x0A) ++ leBytes 4 (4979 + 112 * held.length) ++ leBytes 4 held.length ++ fit 32 nonce
    ++ (List.range 16).map Config.serial ++ fit 16 (orderingNumber lf) ++ leBytes 1 (s.reg 0x2300 5)
    ++ leBytes 1 (s.reg 0x2300 3) ++ leBytes 2 s.node ++ List.replicate 12 0
    ++ s.boot.versions.flatMap (fun v => leBytes 4 v.toNat) ++ s.flash.floors.flatMap (fun v => leBytes 4 v.toNat)
    ++ s.boot.measurement ++ s.mapDigest ++ deviceKeyId ++ sha3_256 (fit 2592 Config.jobPublicKey)
    ++ held.flatMap (fun e => leBytes 1 e.1 ++ leBytes 1 (s.jobState e.1) ++ leBytes 1 (boolNat (e.2.signer ≠ unsigned))
        ++ List.replicate 5 0 ++ leBytes 8 e.2.jobId.toNat ++ fit 64 e.2.digest ++ fit 32 e.2.signer)
  body ++ fit 4627 (Config.deviceSign body)

/-- NONCE, R480. -/
def writeNonce (s : Chip) (lf : Bool) (nonce : List Byte) : Chip :=
  let r := s.buildReport lf nonce
  { s.setReg 0x1003 3 r.length with boot := { s.boot with report := r } }

/-- The effect of a write that has passed every check, of units and commands apart. -/
def applyWrite (s : Chip) (lf : Bool) (w : Write) : Chip :=
  let v := w.num
  match w.ix, w.sub with
  | 0x1003, 1 => s.writeNonce lf w.bytes
  | 0x2200, 1 => s.writeSleep v
  | 0x2300, 6 => if v = 1 then s.bootCommit else s
  | 0x4001, 1 => s.writeNode v
  | 0x6010, 1 => s.writeStage v
  | 0x6010, 2 => { s with staging := { s.staging with data := SMap.setRange 0 s.staging.data w.offset w.bytes } }
  | 0x7000, 1 => if v = 1 then (s.setReg 0x7000 1 1).setReg 0x7800 0x0A 1 else s
  | 0x7000, 4 => if v = 1 then s.setReg 0x7000 2 0 else s
  | 0x7800, 8 => s.enroll (field w.bytes 0 1) (sha3_256 (w.bytes.drop 4)) (w.bytes.drop 4)
  | 0x7800, 9 => s.revoke w.bytes
  | 0x7800, 0x0C => if v = 1 then s.advanceFloors else s
  | 0x8100, 2 => if v = 1 then { s with dumping := some (0, s.reg 0x8100 1) } else s
  | 0x7000, sub =>
    if 0x11 ≤ sub then (s.setReg 0x7000 sub v).armWatchdog (sub / 16 - 1) else s.setReg 0x7000 sub v
  | ix, sub =>
    if Objects.within ix 0x4100 48 && sub = 1 then s.portEnable (ix - 0x4100) (v = 1) else s.setReg ix sub v

/-- Storage that a DAP frame's LOAD or START reads. -/
def namedStore (s : Chip) : List Extent := (Config.storedExtents s.free).map (fun e => ⟨e.1, e.2⟩)

/-- A write of one subindex: its code, `none` while a recovery test runs, and the state after it. A refused write changes
nothing (R17, R417). -/
def write (s : Chip) (lf : Bool) (who : Client) (w : Write) (tested : Bool) (origin : Option Origin) : Option Nat × Chip :=
  let c := s.writeCode who w
  if c ≠ 0 then (some c, s)
  else if w.ix = 0x6000 then
    let r := s.writeCommand who (blockOf w.bytes).1 (blockOf w.bytes).2 s.namedStore
    (some r.1, r.2)
  else match unitAt w.ix w.sub with
    | some u => s.writeUnit u w.num tested origin
    | none => (some 0, s.applyWrite lf w)

/-- Several writes as one change: applied in order, all or none. Answers the code with the first failing entry. Where some
entry needs a recovery test that has not passed, the tests start and nothing else happens (R426). -/
def writeAll (s : Chip) (lf : Bool) (who : Client) (ws : List Write) (tested : Bool) (origin : Option Origin) :
    Option (Nat × Nat) × Chip :=
  let rec go : Nat → List Write → Bool → Chip → Option (Nat × Nat) × Chip
    | _, [], wait, t => (if wait then none else some (0, 0), t)
    | i, w :: l, wait, t =>
      let r := t.write lf who w tested origin
      match r.1 with
      | none => go (i + 1) l true r.2
      | some 0 => go (i + 1) l wait r.2
      | some c => (some (c, i), s)
  let r := go 0 ws false s
  match r.1 with
  | none => (none, { s with testing := r.2.testing })
  | some _ => r

/-! ## Values that reads give -/

/-- A count of cycles, occupancy or cache traffic that depends on timing: read as a free value. -/
def timed (ix sub : Nat) : Bool :=
  let w := Objects.within ix
  w 0x8048 24 || w 0x809C 4 || w 0x80E0 4 || w 0x80EC 4 || w 0x80A0 20 || w 0x80B8 2 || ix = 0x80BD
    || w 0x80C0 4 || ix = 0x80D1 || ix = 0x8034 || (w 0x4100 48 && (sub = 0x0D || sub = 0x0E || sub = 0x13))
    || (ix = 0x2100 && sub = 0x0C)

/-- The number at a subindex of a numeric type. -/
def number (s : Chip) (ix sub : Nat) (e : OEntry) : Nat :=
  if sub = 0 then e.dflt
  else if timed ix sub then (Config.freeCycles s.free (256 * ix + sub)).toNat
  else if ix = 0x1000 then (if sub = 8 then 4 else leNat ((Config.identity sub).take 1))
  else if ix = 0x1001 && sub = 1 then (s.boot.versions.getD 0 0).toNat
  else if ix = 0x1002 then (if sub = 0x0B then s.flash.changes.toNat else leNat (s.mapValue sub))
  else if ix = 0x8300 && sub = 1 then (s.dap.sessions.filter (·.isOpen)).length
  else s.reg ix sub

/-- The 64-byte record of the event log, R431. -/
def logBytes (r : LogRec) : List Byte :=
  leBytes 8 r.seq ++ leBytes 8 r.time.toNat ++ leBytes 2 r.code ++ leBytes 1 r.slot ++ leBytes 1 r.kind ++ leBytes 4 r.source
    ++ fit 40 r.detail

/-- KEY_TABLE, R475. -/
def keyTable (s : Chip) : List Byte :=
  s.flash.keys.flatMap (fun k => fit 32 k.keyId ++ leBytes 1 k.use ++ [0, 0, 0] ++ fit 2592 k.publicKey)

/-- The value of a STRING, OCTETS or DOMAIN subindex; LOG apart. -/
def octets (s : Chip) (lf : Bool) (ix sub : Nat) : List Byte :=
  match ix, sub with
  | 0x1000, 1 => ascii "Dunnov Computing"
  | 0x1000, 2 => ascii "Gletor 4"
  | 0x1000, 3 => orderingNumber lf
  | 0x1000, 4 => (List.range 16).map Config.serial
  | 0x1000, 6 => if lf then Config.identity 6 else []
  | 0x1000, 7 => fit 6 (Config.identity 7)
  | 0x1000, _ => Config.identity sub
  | 0x1001, 2 => [2, 0, 4, 0, 3, 0, 2, 0]
  | 0x1001, _ => (s.boot.versions.drop 1).flatMap (fun v => leBytes 4 v.toNat)
  | 0x1002, 0x0A => s.mapDigest
  | 0x1002, _ => s.mapValue sub
  | 0x1003, _ => s.boot.report
  | 0x2100, 0x0A => s.power.slateStep.flatMap (leBytes 1)
  | 0x2100, 0x0B => s.power.tj.flatMap (fun t => leBytes 2 t.toNat)
  | 0x2100, _ => s.power.lastTrip
  | 0x6001, _ => SMap.get (List.replicate 8 0) s.firstError (sub / 16)
  | 0x7000, 7 => s.mon.pairState.flatMap (leBytes 1)
  | 0x7000, _ => s.mon.detections.flatMap (fun v => leBytes 4 v.toNat)
  | 0x7800, 2 => deviceKeyId
  | 0x7800, 3 => Config.devicePublicKey
  | 0x7800, 4 => Config.deviceCert
  | 0x7800, 5 => Config.jobPublicKey
  | 0x7800, 6 => Config.jobKeyCert
  | 0x7800, 7 => s.keyTable
  | 0x7800, 0x0B => s.flash.floors.flatMap (fun v => leBytes 4 v.toNat)
  | 0x7800, 0x0E => s.boot.measurement
  | 0x7800, _ => s.boot.mlog.flatten
  | 0x8100, _ => s.readMem (4 * stackBytes - 0x200000) (s.reg 0x8100 5)
  | _, _ => (s.chan (ix - 0x7100)).lastFail

/-- A segment of the event log: record s stands at OFFSET 64 s (R431). -/
def logSegment (s : Chip) (off n : Nat) : List Byte :=
  let first := off / 64
  let rs := (s.log.filter (fun r => decide (first ≤ r.seq) && decide (64 * r.seq < off + n))).reverse
  ((rs.flatMap logBytes).drop (off - 64 * first)).take n

/-- A READ: its code, TYPE, TOTAL_LENGTH and value (R416, R417, R420). -/
def readObject (s : Chip) (lf : Bool) (ix sub off n : Nat) : Nat × Option Nat × Nat × List Byte :=
  match s.entryAt ix sub with
  | none => (Code.noSuchObject, none, 0, [])
  | some e =>
    let ty := some e.ty.code
    if e.acc = .wo then (Code.accessDenied, ty, 0, [])
    else if e.ty.numeric then
      let k := e.ty.size.getD 0
      if off ≠ 0 || n ≠ k then (Code.typeMismatch, ty, 0, []) else (0, ty, k, leBytes k (s.number ix sub e))
    else if ix = 0x8200 then
      if off < 64 * s.reg 0x8200 2 || 64 * s.reg 0x8200 1 < off + n then (Code.outOfRange, ty, 0, [])
      else (0, ty, 64 * s.reg 0x8200 1, s.logSegment off n)
    else
      let b := match e.ty.size with
        | some k => fit k (s.octets lf ix sub)
        | none => s.octets lf ix sub
      (0, ty, b.length, (b.drop off).take n)

end Chip

end Sys2Proof.Machine
end

