-- ==== Sys2Proof/Machine/Dap.lean ====
section
/-! DEFINITION. DAP: frames, sessions, requests, events and forwarding (spec/16_object_dictionary.md R419 to R426, R431,
R432, R437). -/

namespace Sys2Proof.Machine

/-! ## Frames, R420 -/

/-- The body lengths that a message type may have; `none` for a type that no client sends. -/
def bodyFits (f : DapFrame) : Bool :=
  let n := f.body.length
  match f.msgType.toNat with
  | 0x01 => n = 1636
  | 0x03 => n = 4627
  | 0x04 => n = 0
  | 0x10 => n = 16 && field f.body 3 1 = 0 && field f.body 14 2 = 0 && decide (1 ≤ field f.body 12 2)
      && decide (field f.body 12 2 ≤ 1376)
  | 0x11 => decide (16 ≤ n) && field f.body 14 2 = 0 && n = 16 + field f.body 12 2
  | 0x12 => decide (4 ≤ n) && field f.body 1 3 = 0 && decide (1 ≤ field f.body 0 1) && decide (field f.body 0 1 ≤ 8)
  | 0x20 => n = 16 && field f.body 4 4 = 0
  | 0x21 => n = 1
  | 0x23 => n = 16 && field f.body 1 7 = 0
  | _ => false

/-- A frame from a client that keeps to the table of R420. INIT and CONFIRM stand reassembled, without their FRAG and
BODY_LENGTH. -/
def frameFits (f : DapFrame) : Bool :=
  let whole := f.msgType = 0x01 || f.msgType = 0x03
  f.magic = 0xDA50 && f.version = 1 && f.reserved = 0 && f.reservedTail = 0 && f.status = 0 && f.requestId ≠ 0
    && f.tag.length = 32 && bodyFits f
    && (whole || (f.frag = 0 && f.bodyLength.toNat = f.body.length && decide (f.body.length ≤ 1388)))

/-- The entries of a WRITE_MULTI; `none` where they do not fill the body exactly. -/
def multiWrites : Nat → List Byte → Option (List Write)
  | 0, b => if b.isEmpty then some [] else none
  | n + 1, b =>
    let k := field b 4 2
    let full := 16 + roundUp k 4
    let w : Write := ⟨field b 0 2, field b 2 1, field b 3 1, field b 8 8, (b.drop 16).take k⟩
    if b.length < full || field b 6 2 ≠ 0 || ((b.drop (16 + k)).take (full - 16 - k)).any (fun x => x ≠ 0) then none
    else (multiWrites n (b.drop full)).map (w :: ·)

/-- The writes that a WRITE or WRITE_MULTI frame carries. -/
def frameWrites (f : DapFrame) : Option (List Write) :=
  if f.msgType = 0x11 then
    some [⟨field f.body 0 2, field f.body 2 1, field f.body 3 1, field f.body 4 8, f.body.drop 16⟩]
  else multiWrites (field f.body 0 1) (f.body.drop 4)

def roleCode : Nat → Option Role
  | 1 => some .host
  | 2 => some .peer
  | 3 => some .service
  | 4 => some .safety
  | _ => none

/-- A role may use a transport, R419. -/
def transportFits (r : Role) (t : Transport) : Bool :=
  match r, t with
  | .host, _ => true
  | .peer, .fabric src => isPackage src.toNat
  | .peer, _ => false
  | _, .hostPort => false
  | _, _ => true

def tagOf (key : List Byte) (f : DapFrame) : List Byte := kmac256 key (dapHeader f ++ f.body) "DAP TAG"

/-- Fit a reassembled body into the header's 16 bits. -/
def blankFrame (msgType sid reqId target source : Nat) (body : List Byte) : DapFrame :=
  { magic := 0xDA50, version := 1, msgType := BitVec.ofNat 8 msgType, sessionId := BitVec.ofNat 32 sid, msgSeq := 0
    requestId := BitVec.ofNat 32 reqId, targetNode := BitVec.ofNat 16 target, sourceNode := BitVec.ofNat 16 source
    bodyLength := BitVec.ofNat 16 body.length, frag := 0, reserved := 0, status := 0, reservedTail := 0, body := body
    tag := List.replicate 32 0 }

namespace Chip

/-! ## Sending, R422 and R424 -/

/-- A frame goes into the next slot of the P2H ring. -/
def toHost (s : Chip) (f : DapFrame) : Chip :=
  if 2 ≤ s.reg 0x4010 3 then
    { s with dap := { s.dap with
        p2h := (s.dap.p2h + 1) % 4096
        p2hValid := if s.dap.p2hValid.contains s.dap.p2h then s.dap.p2hValid else s.dap.p2hValid ++ [s.dap.p2h] } }.emit
      (.frame .hostPort f)
  else s

/-- Send a frame to a client. -/
def sendFrame (s : Chip) (t : Transport) (f : DapFrame) : Chip :=
  match t with
  | .mgmt => s.emit (.frame .mgmt f)
  | .hostPort => s.toHost f
  | .fabric src => (s.route 4 0 s.node src.toNat none true (.dap src.toNat s.node f)).getD s

def session (s : Chip) (sid : Nat) : Option Session := s.dap.sessions.find? (fun x => x.sid = sid)
def updSession (s : Chip) (sid : Nat) (f : Session → Session) : Chip :=
  { s with dap := { s.dap with sessions := s.dap.sessions.map (fun (x : Session) => if x.sid = sid then f x else x) } }

/-- A session ends with its subscriptions (R423). -/
def endSession (s : Chip) (sid : Nat) : Chip :=
  { s with dap := { s.dap with sessions := s.dap.sessions.filter (fun (x : Session) => x.sid ≠ sid) } }

/-- Send a tagged frame of a session. -/
def sendPlain (s : Chip) (x : Session) (f : DapFrame) : Chip :=
  let g := { f with msgSeq := BitVec.ofNat 32 (x.seqOut + 1) }
  (s.updSession x.sid (fun y => { y with seqOut := y.seqOut + 1 })).sendFrame x.transport { g with tag := tagOf x.keyOut g }

/-- As `sendPlain`; the session closes before MSG_SEQ reaches 2^32 − 1. -/
def sendTagged (s : Chip) (sid : Nat) (f : DapFrame) : Chip :=
  match s.session sid with
  | none => s
  | some x =>
    let s1 := s.sendPlain x f
    if x.seqOut + 3 < 2 ^ 32 - 1 then s1
    else (s1.sendPlain { x with seqOut := x.seqOut + 1 } (blankFrame 0x04 sid 1 s.node s.node [])).endSession sid

/-- Bytes of an answer to which the table gives no value. -/
def openBytes (s : Chip) (k n : Nat) : List Byte := (List.range n).map (Config.freeBytes s.free (0x30000 + k))

/-- The one RESPONSE to a request; the last 64 are kept (R423). INDEX with SUB, TYPE and TOTAL_LENGTH are free where the
request names none or the answer has no value. -/
def respond (s : Chip) (sid : Nat) (req : DapFrame) (status : Nat) (ids : Option (Nat × Nat)) (ty total : Option Nat)
    (value : List Byte) : Chip :=
  let head := (match ids with | some (ix, sub) => leBytes 2 ix ++ leBytes 1 sub | none => s.openBytes 0 3)
    ++ (match ty with | some v => leBytes 1 v | none => s.openBytes 1 1)
    ++ (match total with | some v => leBytes 8 v | none => s.openBytes 2 8)
  let f := { blankFrame 0x13 sid req.requestId.toNat req.targetNode.toNat s.node (head ++ value) with
    status := BitVec.ofNat 16 status }
  (s.updSession sid (fun x => { x with kept := ((req.requestId, f) :: x.kept).take 64 })).sendTagged sid f

/-! ## Forwarding, R425 -/

def undeliverable (s : Chip) : Chip := s.bump 0x8300 7 1

/-- A frame for another node. An answer of a session that the bridge forwards goes to the P2H ring; any other frame goes on
over the management lane, from the host port only while the bridge is active. -/
def forward (s : Chip) (t : Transport) (f : DapFrame) : Chip :=
  let d := f.targetNode.toNat
  let sid := f.sessionId.toNat
  let known (i : Nat) : Bool := s.dap.forwarded.contains (d, i)
  let onward (u : Chip) : Chip :=
    match u.route 4 0 u.node d none true (.dap d u.node f) with
    | some v => v.bump 0x8300 6 1
    | none => u.undeliverable
  let record (l : List (Nat × Nat)) : Chip := { s with dap := { s.dap with forwarded := l } }
  match t with
  | .fabric src =>
    if src.toNat = d then
      if known sid || (f.msgType = 2 && known 0) then
        let rest := s.dap.forwarded.filter (fun e => e ≠ (d, sid) && !(f.msgType = 2 && e = (d, 0)))
        ((record (if f.msgType = 4 || f.status ≠ 0 && f.msgType = 2 then rest else rest ++ [(d, sid)])).bump 0x8300 6 1).toHost f
      else s.undeliverable
    else onward s
  | .hostPort =>
    if s.reg 0x4010 2 = 0 then s.undeliverable
    else
      let rest := s.dap.forwarded.filter (fun e => e ≠ (d, sid))
      onward (record (if f.msgType = 4 then rest else rest ++ [(d, sid)]))
  | .mgmt => onward s

/-- The frame is for this package. -/
def isTarget (s : Chip) (f : DapFrame) : Bool := f.targetNode = 0xFFFF || f.targetNode.toNat = s.node

/-- A frame that breaks the table of R420 is dropped and counted. -/
def dropFrame (s : Chip) : Chip := { s with dap := { s.dap with dropped := s.dap.dropped + 1 } }

/-! ## Handshakes, R421, R422, R476 -/

/-- The key that a KEY_ID names for a role, and the state after an empty key table has taken in the first host. -/
def keyFor (s : Chip) (r : Role) (t : Transport) (kid : List Byte) : Option (List Byte × Chip) :=
  match r with
  | .peer => (s.fab.certs.find? (fun c => sha3_256 c.devicePublicKey = kid)).map (fun c => (c.devicePublicKey, s))
  | _ =>
    let local_ : Bool := match t with | .fabric _ => false | _ => true
    if s.flash.keys.isEmpty && r = .host && local_ then
      let pk := Config.keyOf kid
      some (pk, (s.enroll 0x1F kid pk).addLog 0 0xFF 0 0 [])
    else (s.flash.keys.find? (fun k => k.keyId = kid && bit k.use (useBit r))).map (fun k => (k.publicKey, s))

/-- A refused INIT: ACCEPT carries only its header. -/
def refuseInit (s : Chip) (t : Transport) (f : DapFrame) (code : Nat) : Chip :=
  (s.bump 0x8300 3 1).sendFrame t { blankFrame 0x02 0 f.requestId.toNat f.targetNode.toNat s.node [] with
    status := BitVec.ofNat 16 code }

/-- INIT. -/
def onInit (s : Chip) (t : Transport) (f : DapFrame) : Chip :=
  match roleCode (field f.body 0 1) with
  | none => s.dropFrame
  | some r =>
    if !frameFits f || f.msgType ≠ 0x01 || field f.body 1 3 ≠ 0 || f.sessionId ≠ 0 then s.dropFrame
    else if !transportFits r t then s.refuseInit t f Code.accessDenied
    else
      let kid := (f.body.drop 4).take 32
      match s.keyFor r t kid with
      | none => s.refuseInit t f Code.accessDenied
      | some (pk, s1) =>
        if 32 ≤ s.dap.sessions.length then s.refuseInit t f Code.stateConflict
        else
          let sid := s1.dap.nextSid
          let nonce := (List.range 32).map (Config.freeBytes s1.free 0x20000)
          let ek := f.body.drop 68
          let ct := fit 1568 (Config.kemCipher ek nonce)
          let ss := Config.kemSecret ek ct
          let tr := sha3_512 (f.body ++ nonce ++ ct ++ deviceKeyId ++ leBytes 4 sid)
          let sig := fit 4627 (Config.deviceSign tr)
          let x : Session :=
            { sid := sid, role := r, transport := t, node := (match t with | .fabric src => src.toNat | _ => f.sourceNode.toNat)
              keyId := kid, clientKey := pk, isOpen := false, transcript := tr, signature := sig
              keyIn := kmac256 ss tr "DAP C2P", keyOut := kmac256 ss tr "DAP P2C", seqIn := 0, seqOut := 0, kept := [], subs := [] }
          { s1 with dap := { s1.dap with sessions := s1.dap.sessions ++ [x], nextSid := sid % (2 ^ 32 - 1) + 1 } }.sendFrame t
            (blankFrame 0x02 sid f.requestId.toNat f.targetNode.toNat s.node (nonce ++ ct ++ deviceKeyId ++ sig))

/-- A tagged frame is accepted when its tag verifies and its MSG_SEQ exceeds the highest accepted; any other is discarded and
counted, the tag of a frame that names no session verifying under no key. -/
def accept (s : Chip) (t : Transport) (f : DapFrame) (wantOpen : Bool) (act : Session → Chip → Chip) : Chip :=
  if !frameFits f then s.dropFrame
  else match s.session f.sessionId.toNat with
  | none => s.bump 0x8300 4 1
  | some x =>
    if x.isOpen ≠ wantOpen || !transportFits x.role t then s
    else if f.tag ≠ tagOf x.keyIn f then s.bump 0x8300 4 1
    else if f.msgSeq.toNat ≤ x.seqIn then s.bump 0x8300 5 1
    else
      let upd (y : Session) : Session := { y with seqIn := f.msgSeq.toNat, transport := t }
      act (upd x) (s.updSession x.sid upd)

/-- CONFIRM. -/
def onConfirm (s : Chip) (t : Transport) (f : DapFrame) : Chip :=
  if f.msgType ≠ 0x03 then s
  else s.accept t f false (fun x u =>
    if Config.verify x.clientKey (sha3_512 (x.transcript ++ x.signature)) f.body then
      (u.updSession x.sid (fun y => { y with isOpen := true })).bump 0x8300 2 1
    else (u.endSession x.sid).bump 0x8300 3 1)

/-- CLOSE. -/
def onClose (s : Chip) (t : Transport) (f : DapFrame) : Chip :=
  if f.msgType ≠ 0x04 then s else s.accept t f true (fun x u => u.endSession x.sid)

def handshakeTimeout (s : Chip) (sid : Nat) : Chip :=
  match s.session sid with
  | some x => if x.isOpen then s else (s.endSession sid).bump 0x8300 3 1
  | none => s

def sessionTimeout (s : Chip) (sid : Nat) : Chip :=
  match s.session sid with
  | some x => if x.isOpen then s.endSession sid else s
  | none => s

/-! ## Requests, R420, R423, R426 -/

/-- A request of an open session. One whose REQUEST_ID is among the last 64 gets its kept response again; one that still
waits for its recovery test waits on. -/
def request (s : Chip) (t : Transport) (f : DapFrame) (mtype : Nat) (act : Session → Chip → Chip) : Chip :=
  if f.msgType.toNat ≠ mtype then s
  else s.accept t f true (fun x u =>
    match x.kept.find? (fun k => k.1 = f.requestId) with
    | some k => u.sendTagged x.sid k.2
    | none =>
      if u.testing.any (fun e => e.2.any (fun o => o.sid = x.sid && o.frame.requestId = f.requestId)) then u
      else act x u)

def clientOf (x : Session) : Client := ⟨x.role, x.transport, BitVec.ofNat 16 x.node⟩

/-- DAP_READ. -/
def onRead (s : Chip) (lf : Bool) (t : Transport) (f : DapFrame) : Chip :=
  s.request t f 0x10 (fun x u =>
    let ix := field f.body 0 2
    let sub := field f.body 2 1
    let r := u.readObject lf ix sub (field f.body 4 8) (field f.body 12 2)
    u.respond x.sid f r.1 (some (ix, sub)) r.2.1 (if r.1 = 0 then some r.2.2.1 else none) r.2.2.2)

/-- Apply the writes of a frame and answer it, unless a recovery test holds the answer back. A session that a write closes
gets no answer. -/
def runWrites (s : Chip) (lf : Bool) (o : Origin) (tested : Bool) : Chip :=
  match frameWrites o.frame with
  | none => s
  | some ws =>
    let r := s.writeAll lf o.who ws tested (some o)
    match r.1 with
    | none => r.2
    | some (code, i) =>
      match ws, o.frame.msgType.toNat with
      | [w], 0x11 => r.2.respond o.sid o.frame code (some (w.ix, w.sub)) (some w.ty) none []
      | _, _ => r.2.respond o.sid o.frame code none none none (if code = 0 then r.2.openBytes 3 1 else leBytes 1 i)

/-- DAP_WRITE and WRITE_MULTI. -/
def onWrites (s : Chip) (lf : Bool) (t : Transport) (f : DapFrame) (mtype : Nat) : Chip :=
  if (frameWrites f).isNone then s.dropFrame
  else s.request t f mtype (fun x u => u.runWrites lf ⟨x.sid, clientOf x, f⟩ false)

/-- The recovery tests of a unit have run: those of arrays leave their outputs in the signature registers (R115). -/
def recoveryRan (s : Chip) (u : UnitRef) : Chip :=
  match u with
  | .array c a => s.signColumns c a
  | .core c => (s.signColumns c 0).signColumns c 1
  | _ => s

/-- RECOVERY_TEST_DONE: the tests of a unit end. On a pass the writes that wait for no other test are applied; on a failure
they are refused with STATE_CONFLICT (R117, R426). A write that came by no frame enables the unit. -/
def recoveryDone (s : Chip) (lf : Bool) (u : UnitRef) (pass : Bool) : Chip :=
  let mine := s.testing.filter (fun e => e.1 = u)
  let s0 := if mine.isEmpty then s else s.recoveryRan u
  let s1 := { s0 with testing := s.testing.filter (fun e => e.1 ≠ u) }
  mine.foldl (fun (t : Chip) e =>
    match e.2 with
    | none =>
      if pass then (if t.unitState u = 0 then t.enableUnit u else t).emit (.answer Code.ok [])
      else t.emit (.answer Code.stateConflict [])
    | some o =>
      if pass then (if t.testing.any (fun d => d.2 = some o) then t else t.runWrites lf o true)
      else
        let ws := (frameWrites o.frame).getD []
        let i := ws.findIdx (fun w => unitAt w.ix w.sub = some u)
        let t1 := { t with testing := t.testing.filter (fun d => d.2 ≠ some o) }
        match ws, o.frame.msgType.toNat with
        | [w], 0x11 => t1.respond o.sid o.frame Code.stateConflict (some (w.ix, w.sub)) (some w.ty) none []
        | _, _ => t1.respond o.sid o.frame Code.stateConflict none none none (leBytes 1 i)) s1

/-! ## Events, R431 and R432 -/

/-- SUBSCRIBE. -/
def onSubscribe (s : Chip) (t : Transport) (f : DapFrame) : Chip :=
  s.request t f 0x20 (fun x u =>
    let mask := field f.body 0 2
    let start := field f.body 8 8
    let refuse (code : Nat) : Chip := u.respond x.sid f code none none none (u.openBytes 3 1)
    if 1024 ≤ mask || 1 < field f.body 3 1 then refuse Code.outOfRange
    else if 4 ≤ x.subs.length || 32 ≤ (u.dap.sessions.map (fun (y : Session) => y.subs.length)).sum then refuse Code.stateConflict
    else
      let id := ((List.range 4).find? (fun i => !x.subs.any (fun q => q.id = i))).getD 0
      let q : Subscription :=
        { id := id, classMask := mask, slotMask := field f.body 2 1, pkg := field f.body 3 1 = 1
          next := if start = 2 ^ 64 - 1 then u.reg 0x8200 1 else max start (u.reg 0x8200 2), sent := [], lost := 0 }
      (u.updSession x.sid (fun y => { y with subs := y.subs ++ [q] })).respond x.sid f 0 none none none (leBytes 1 id))

/-- UNSUBSCRIBE. -/
def onUnsubscribe (s : Chip) (t : Transport) (f : DapFrame) : Chip :=
  s.request t f 0x21 (fun x u =>
    let id := field f.body 0 1
    if x.subs.any (fun q => q.id = id) then
      (u.updSession x.sid (fun y => { y with subs := y.subs.filter (fun q => q.id ≠ id) })).respond x.sid f 0 none none none []
    else u.respond x.sid f Code.outOfRange none none none [])

def updSub (s : Chip) (sid id : Nat) (g : Subscription → Subscription) : Chip :=
  s.updSession sid (fun y => { y with subs := y.subs.map (fun q => if q.id = id then g q else q) })

/-- EVENT_ACK: every record up to ACK_SEQ. -/
def onEventAck (s : Chip) (t : Transport) (f : DapFrame) : Chip :=
  if f.msgType ≠ 0x23 then s
  else s.accept t f true (fun x u =>
    u.updSub x.sid (field f.body 0 1) (fun q => { q with sent := q.sent.filter (fun n => decide (field f.body 8 8 < n)) }))

def eventFrame (s : Chip) (x : Session) (id lost : Nat) (rs : List LogRec) : DapFrame :=
  blankFrame 0x22 x.sid 0 s.node s.node (leBytes 1 id ++ leBytes 1 rs.length ++ leBytes 4 lost ++ [0, 0] ++ rs.flatMap logBytes)

/-- EVENT: the next matching records, up to 21, while at most 256 are sent and unacknowledged. -/
def sendEvent (s : Chip) (sid id : Nat) : Chip :=
  match s.session sid with
  | none => s
  | some x =>
    match x.subs.find? (fun q => q.id = id) with
    | none => s
    | some q =>
      let rs := ((s.log.filter (fun r => decide (q.next ≤ r.seq) && subMatches q r)).reverse).take (min 21 (256 - q.sent.length))
      match rs.getLast? with
      | none => s
      | some l =>
        if !x.isOpen then s
        else (s.updSub sid id (fun q => { q with next := l.seq + 1, sent := q.sent ++ rs.map (·.seq), lost := 0 })).sendTagged sid
          (s.eventFrame x id q.lost rs)

/-- Split a list into runs of 21. -/
def runs21 : Nat → List LogRec → List (List LogRec)
  | 0, _ => []
  | n + 1, l => if l.isEmpty then [] else l.take 21 :: runs21 n (l.drop 21)

/-- EVENT_RESEND: records unacknowledged for 2^32 cycles go out again, in order. -/
def resendEvents (s : Chip) (sid id : Nat) : Chip :=
  match s.session sid with
  | none => s
  | some x =>
    match x.subs.find? (fun q => q.id = id) with
    | none => s
    | some q =>
      if !x.isOpen then s
      else (runs21 13 (s.log.filter (fun r => q.sent.contains r.seq)).reverse).foldl (fun (t : Chip) rs =>
        t.sendTagged sid (s.eventFrame x id 0 rs)) s

/-! ## Frames of any type, R424 and R425 -/

/-- The effect of a frame for this package, by MSG_TYPE; a type that no client sends is dropped. -/
def serveFrame (s : Chip) (lf : Bool) (t : Transport) (f : DapFrame) : Chip :=
  match f.msgType.toNat with
  | 0x01 => s.onInit t f
  | 0x03 => s.onConfirm t f
  | 0x04 => s.onClose t f
  | 0x10 => s.onRead lf t f
  | 0x11 => s.onWrites lf t f 0x11
  | 0x12 => s.onWrites lf t f 0x12
  | 0x20 => s.onSubscribe t f
  | 0x21 => s.onUnsubscribe t f
  | 0x23 => s.onEventAck t f
  | _ => s.dropFrame

/-- A frame that reaches the package. -/
def receiveFrame (s : Chip) (lf : Bool) (t : Transport) (f : DapFrame) : Chip :=
  if s.isTarget f then s.serveFrame lf t f else s.forward t f

/-- H2P_POLL: the next slot of the ring; a valid frame is copied and its slot freed. -/
def pollHost (s : Chip) (lf : Bool) (slot : Option DapFrame) : Chip :=
  match slot with
  | some f =>
    if 2 ≤ s.reg 0x4010 3 then
      { s with dap := { s.dap with h2p := (s.dap.h2p + 1) % 4096 } }.receiveFrame lf .hostPort f
    else s
  | none => s

/-- MSIX_RAISE: while a P2H slot holds VALID = 1. -/
def raiseMsix (s : Chip) : Chip := if s.dap.p2hValid.isEmpty || s.reg 0x4010 3 < 2 then s else s.emit .msix

end Chip

end Sys2Proof.Machine
end

