-- ==== Sys2Proof/Machine/DictRows.lean ====
section
/-! DEFINITION. Commands of the dictionary and of DAP (spec/16_object_dictionary.md R414 to R434, and the object tables of every
chapter). -/

namespace Sys2Proof.Machine

/-- As `onChip`, for requests to the dictionary: starts follow the link-state database, and commands that may start do. -/
def onServer (f : Bool → Chip → Chip) (s : State) : Host.Outcome State Fault Refusal :=
  onChip (fun h => (h.afterLinks (f s.plat.lf h)).settleQueue) s

/-- One write of a subindex by a client that waits for its code; the value has the object's own type. -/
def Chip.poke (s : Chip) (lf : Bool) (who : Client) (ix sub : Nat) (ty : OTy) (offset : Nat) (bytes : List Byte) : Chip :=
  let r := s.write lf who ⟨ix, sub, ty.code, offset, bytes⟩ false none
  match r.1 with
  | some c => r.2.emit (.answer c [])
  | none => r.2

/-- A write of a unit's state. -/
def Chip.pokeUnit (s : Chip) (lf : Bool) (who : Client) (u : UnitRef) (v : Byte) : Chip :=
  s.poke lf who (Chip.unitIndex u).1 (Chip.unitIndex u).2 .u8 0 [v]

/-! ## Settings -/

/-- G3_COMPAT, R58. -/
def execG3Compat (who : Client) (v : Byte) (s : State) : Host.Outcome State Fault Refusal :=
  onServer (fun lf h => h.poke lf who 0x2010 1 .bool 0 [v]) s

/-- JADE_MODE, R372. -/
def execJadeMode (who : Client) (v : Byte) (s : State) : Host.Outcome State Fault Refusal :=
  onServer (fun lf h => h.poke lf who 0x2020 1 .bool 0 [v]) s

/-- NODE_NUMBER, R289. -/
def execNodeNumber (who : Client) (v : U16) (s : State) : Host.Outcome State Fault Refusal :=
  onServer (fun lf h => h.poke lf who 0x4001 1 .u16 0 (leBytes 2 v.toNat)) s

/-- PORT_ENABLE, R278. -/
def execPortEnable (who : Client) (p : PortId) (v : Byte) (s : State) : Host.Outcome State Fault Refusal :=
  onServer (fun lf h => h.poke lf who (0x4100 + p.val) 1 .bool 0 [v]) s

/-- ARRAY_STATE, R117. -/
def execArrayState (who : Client) (c : CoreId) (a : ArrId) (v : Byte) (s : State) : Host.Outcome State Fault Refusal :=
  onServer (fun lf h => h.pokeUnit lf who (.array c a) v) s

/-- CORE_STATE, R433. -/
def execCoreState (who : Client) (c : CoreId) (v : Byte) (s : State) : Host.Outcome State Fault Refusal :=
  onServer (fun lf h => h.pokeUnit lf who (.core c) v) s

/-- SOLVER_STATE, R213. -/
def execSolverState (who : Client) (k : ClusterId) (v : Byte) (s : State) : Host.Outcome State Fault Refusal :=
  onServer (fun lf h => h.pokeUnit lf who (.solver k) v) s

/-- ENGINE_STATE, R238. -/
def execEngineState (who : Client) (e : EngineId) (v : Byte) (s : State) : Host.Outcome State Fault Refusal :=
  onServer (fun lf h => h.pokeUnit lf who (.engine e) v) s

/-- CHANNEL_STATE, R371. -/
def execChannelState (who : Client) (n : ChanId) (v : Byte) (s : State) : Host.Outcome State Fault Refusal :=
  onServer (fun lf h => h.pokeUnit lf who (.channel n) v) s

/-- RECOVERY_TEST_DONE, R117. -/
def execRecoveryTestDone (u : UnitRef) (pass : Bool) (s : State) : Host.Outcome State Fault Refusal :=
  onServer (fun lf h => h.recoveryDone lf u pass) s

/-- STAGE_SIZE, R430. -/
def execStageSize (who : Client) (v : U64) (s : State) : Host.Outcome State Fault Refusal :=
  onServer (fun lf h => h.poke lf who 0x6010 1 .u64 0 (leBytes 8 v.toNat)) s

/-- STAGE_DATA, R430. -/
def execStageData (who : Client) (offset : U64) (bytes : List Byte) (s : State) : Host.Outcome State Fault Refusal :=
  onServer (fun lf h => h.poke lf who 0x6010 2 .domain offset.toNat bytes) s

/-- DUMP_TRIGGER, R268. -/
def execDumpTrigger (who : Client) (v : Byte) (s : State) : Host.Outcome State Fault Refusal :=
  onServer (fun lf h => h.poke lf who 0x8100 2 .bool 0 [v]) s

/-- DUMP_COMPLETE, R268. -/
def execDumpComplete (s : State) : Host.Outcome State Fault Refusal :=
  onServer (fun _ h => h.completeDump) s

/-- SLEEP_REQUEST, R456. -/
def execSleepRequest (who : Client) (v : Byte) (s : State) : Host.Outcome State Fault Refusal :=
  onServer (fun lf h => h.poke lf who 0x2200 1 .bool 0 [v]) s

/-- BOOT_COMMIT, R451. -/
def execBootCommit (who : Client) (v : Byte) (s : State) : Host.Outcome State Fault Refusal :=
  onServer (fun lf h => h.poke lf who 0x2300 6 .bool 0 [v]) s

/-- PARTITION_ENABLE, R459. -/
def execPartitionEnable (who : Client) (v : Byte) (s : State) : Host.Outcome State Fault Refusal :=
  onServer (fun lf h => h.poke lf who 0x7000 1 .bool 0 [v]) s

/-- SAFE_CLEAR, R464. -/
def execSafeClear (who : Client) (v : Byte) (s : State) : Host.Outcome State Fault Refusal :=
  onServer (fun lf h => h.poke lf who 0x7000 4 .bool 0 [v]) s

/-- KEY_ENROLL, R476. -/
def execKeyEnroll (who : Client) (bytes : List Byte) (s : State) : Host.Outcome State Fault Refusal :=
  onServer (fun lf h => h.poke lf who 0x7800 8 (.octets 2596) 0 bytes) s

/-- KEY_REVOKE, R476. -/
def execKeyRevoke (who : Client) (bytes : List Byte) (s : State) : Host.Outcome State Fault Refusal :=
  onServer (fun lf h => h.poke lf who 0x7800 9 (.octets 32) 0 bytes) s

/-- SIGNING_POLICY, R477. -/
def execSigningPolicy (who : Client) (v : Byte) (s : State) : Host.Outcome State Fault Refusal :=
  onServer (fun lf h => h.poke lf who 0x7800 0x0A .u8 0 [v]) s

/-- ROLLBACK_ADVANCE, R474. -/
def execRollbackAdvance (who : Client) (v : Byte) (s : State) : Host.Outcome State Fault Refusal :=
  onServer (fun lf h => h.poke lf who 0x7800 0x0C .bool 0 [v]) s

/-- NONCE, R480. -/
def execNonce (who : Client) (bytes : List Byte) (s : State) : Host.Outcome State Fault Refusal :=
  onServer (fun lf h => h.poke lf who 0x1003 1 (.octets 32) 0 bytes) s

/-- WD_OBJECT and WD_LIMIT, R468. -/
def execWdObject (who : Client) (slot : SlotId) (field : WdField) (v : U32) (s : State) : Host.Outcome State Fault Refusal :=
  onServer (fun lf h => match field with
    | .object => h.poke lf who 0x7000 (16 * slot.val + 0x11) .u16 0 (leBytes (if v.toNat < 2 ^ 16 then 2 else 4) v.toNat)
    | .limit => h.poke lf who 0x7000 (16 * slot.val + 0x12) .u32 0 (leBytes 4 v.toNat)) s

/-- DICTIONARY_WRITE of any subindex, R417. -/
def execDictionaryWrite (who : Client) (index : U16) (sub : Byte) (ty : Byte) (offset : U64) (bytes : List Byte) (s : State) :
    Host.Outcome State Fault Refusal :=
  onServer (fun lf h =>
    let r := h.write lf who ⟨index.toNat, sub.toNat, ty.toNat, offset.toNat, bytes⟩ false none
    match r.1 with
    | some c => r.2.emit (.answer c [])
    | none => r.2) s

/-! ## DAP, R420 to R426 -/

/-- A frame for this package is served as its row; one for another node is forwarded (R425). -/
def Chip.dapRow (s : Chip) (t : Transport) (f : DapFrame) (serve : Chip → Chip) : Chip :=
  if s.isTarget f then serve s else s.forward t f

/-- INIT, R421. -/
def execInit (t : Transport) (f : DapFrame) (s : State) : Host.Outcome State Fault Refusal :=
  onServer (fun _ h => h.dapRow t f (fun u => u.onInit t f)) s

/-- CONFIRM, R421. -/
def execConfirm (t : Transport) (f : DapFrame) (s : State) : Host.Outcome State Fault Refusal :=
  onServer (fun _ h => h.dapRow t f (fun u => u.onConfirm t f)) s

/-- CLOSE, R423. -/
def execClose (t : Transport) (f : DapFrame) (s : State) : Host.Outcome State Fault Refusal :=
  onServer (fun _ h => h.dapRow t f (fun u => u.onClose t f)) s

/-- HANDSHAKE_TIMEOUT, R421. -/
def execHandshakeTimeout (sid : U32) (s : State) : Host.Outcome State Fault Refusal :=
  onServer (fun _ h => h.handshakeTimeout sid.toNat) s

/-- SESSION_TIMEOUT, R423. -/
def execSessionTimeout (sid : U32) (s : State) : Host.Outcome State Fault Refusal :=
  onServer (fun _ h => h.sessionTimeout sid.toNat) s

/-- DAP_READ, R420. -/
def execDapRead (t : Transport) (f : DapFrame) (s : State) : Host.Outcome State Fault Refusal :=
  onServer (fun lf h => h.dapRow t f (fun u => u.onRead lf t f)) s

/-- DAP_WRITE, R420. -/
def execDapWrite (t : Transport) (f : DapFrame) (s : State) : Host.Outcome State Fault Refusal :=
  onServer (fun lf h => h.dapRow t f (fun u => u.onWrites lf t f 0x11)) s

/-- WRITE_MULTI, R426. -/
def execWriteMulti (t : Transport) (f : DapFrame) (s : State) : Host.Outcome State Fault Refusal :=
  onServer (fun lf h => h.dapRow t f (fun u => u.onWrites lf t f 0x12)) s

/-- SUBSCRIBE, R432. -/
def execSubscribe (t : Transport) (f : DapFrame) (s : State) : Host.Outcome State Fault Refusal :=
  onServer (fun _ h => h.dapRow t f (fun u => u.onSubscribe t f)) s

/-- UNSUBSCRIBE, R432. -/
def execUnsubscribe (t : Transport) (f : DapFrame) (s : State) : Host.Outcome State Fault Refusal :=
  onServer (fun _ h => h.dapRow t f (fun u => u.onUnsubscribe t f)) s

/-- EVENT_ACK, R432. -/
def execEventAck (t : Transport) (f : DapFrame) (s : State) : Host.Outcome State Fault Refusal :=
  onServer (fun _ h => h.dapRow t f (fun u => u.onEventAck t f)) s

/-- EVENT, R432. -/
def execEvent (sid : U32) (subId : Nat) (s : State) : Host.Outcome State Fault Refusal :=
  onServer (fun _ h => h.sendEvent sid.toNat subId) s

/-- EVENT_RESEND, R432. -/
def execEventResend (sid : U32) (subId : Nat) (s : State) : Host.Outcome State Fault Refusal :=
  onServer (fun _ h => h.resendEvents sid.toNat subId) s

/-- DAP_FORWARD, R425. -/
def execDapForward (t : Transport) (f : DapFrame) (s : State) : Host.Outcome State Fault Refusal :=
  onServer (fun _ h => if h.isTarget f then h else h.forward t f) s

/-- H2P_POLL, R424. -/
def execH2pPoll (slot : Option DapFrame) (s : State) : Host.Outcome State Fault Refusal :=
  onServer (fun lf h => h.pollHost lf slot) s

/-- MSIX_RAISE, R424. -/
def execMsixRaise (s : State) : Host.Outcome State Fault Refusal :=
  onServer (fun _ h => h.raiseMsix) s

end Sys2Proof.Machine
end

