-- ==== Sys2Proof/Machine/JobRows.lean ====
section
/-! DEFINITION. Commands of jobs: the command object, step boundaries, starts, checkpoints, training, coupling
(spec/16_object_dictionary.md R427, R428; spec/15_jobs_and_checkpoints.md R386 to R412; spec/06_four_bit_training.md R162;
spec/13_field_exchange_and_check_values.md R367; spec/04_matrix_arrays.md R114). -/

namespace Sys2Proof.Machine

/-- As `onChip`; commands that waited for the end of an admission start (R428). -/
def onJobs (f : Chip → Chip) (s : State) : Host.Outcome State Fault Refusal := onChip (fun h => (f h).settleQueue) s

/-- A write of COMMAND by a sender that waits for its code. Under the boot ROM the object does not exist (R451). -/
def Chip.command (s : Chip) (who : Client) (cmd : Nat) (b : CommandBlock) (store : List Extent) : Chip :=
  let r := if s.reg 0x2300 4 = 0 then (Code.noSuchObject, s) else s.writeCommand who cmd b store
  r.2.emit (.answer r.1 [])

/-! ## The command object, R427 -/

/-- LOAD, R427. -/
def execLoad (who : Client) (b : CommandBlock) (store : List Extent) (s : State) : Host.Outcome State Fault Refusal :=
  onJobs (fun h => h.command who 1 b store) s

/-- START, R427. -/
def execStart (who : Client) (b : CommandBlock) (store : List Extent) (s : State) : Host.Outcome State Fault Refusal :=
  onJobs (fun h => h.command who 2 b store) s

/-- PAUSE, R427. -/
def execPause (who : Client) (b : CommandBlock) (s : State) : Host.Outcome State Fault Refusal :=
  onJobs (fun h => h.command who 3 b []) s

/-- RESUME, R427. -/
def execResume (who : Client) (b : CommandBlock) (s : State) : Host.Outcome State Fault Refusal :=
  onJobs (fun h => h.command who 4 b []) s

/-- CHECKPOINT, R400. -/
def execCheckpoint (who : Client) (b : CommandBlock) (s : State) : Host.Outcome State Fault Refusal :=
  onJobs (fun h => h.command who 5 b []) s

/-- STOP, R427. -/
def execStop (who : Client) (b : CommandBlock) (s : State) : Host.Outcome State Fault Refusal :=
  onJobs (fun h => h.command who 6 b []) s

/-- BATCH_WINDOW, R114. -/
def execBatchWindow (who : Client) (b : CommandBlock) (s : State) : Host.Outcome State Fault Refusal :=
  onJobs (fun h => h.command who 7 b []) s

/-- BOOT_BUNDLE_SUBMIT, R455. -/
def execBootBundleSubmit (s : State) : Host.Outcome State Fault Refusal :=
  onJobs (fun h => h.submitBootBundle) s

/-- STEP_BOUNDARY, R35. -/
def execStepBoundary (slot : SlotId) (s : State) : Host.Outcome State Fault Refusal :=
  onJobs (fun h => h.boundary slot) s

/-- QUORUM_SETTLE, R304. -/
def execQuorumSettle (slot : SlotId) (epochs : List (Nat × U32)) (s : State) : Host.Outcome State Fault Refusal :=
  onJobs (fun h => h.quorumSettle slot (epochs.map (fun e => (e.1, e.2.toNat)))) s

/-! ## Starts, R386 to R397 -/

/-- ATTACH, R390. -/
def execAttach (child : U16) (resume : Nat) (jobId : U64) (s : State) : Host.Outcome State Fault Refusal :=
  onJobs (fun h => h.onAttach child.toNat resume jobId) s

/-- DETACH, R390. -/
def execDetach (child : U16) (jobId : U64) (s : State) : Host.Outcome State Fault Refusal :=
  onJobs (fun h => h.onDetach child.toNat jobId) s

/-- SUSPECT, R392. -/
def execSuspect (_reporter : U16) (node : U16) (jobId : U64) (s : State) : Host.Outcome State Fault Refusal :=
  onJobs (fun h => h.onSuspect node.toNat jobId) s

/-- WAITING, R390. -/
def execWaiting (parent : U16) (jobId : U64) (s : State) : Host.Outcome State Fault Refusal :=
  onJobs (fun h => h.onWaiting parent.toNat jobId) s

/-- CHUNK_ARRIVAL, R389. -/
def execChunkArrival (jobId : U64) (k : Nat) (bytes : List Byte) (s : State) : Host.Outcome State Fault Refusal :=
  onJobs (fun h => h.chunkArrival jobId k bytes) s

/-- GAP_TIMEOUT, R390. -/
def execGapTimeout (jobId : U64) (s : State) : Host.Outcome State Fault Refusal :=
  onJobs (fun h => h.reattach jobId) s

/-- PROBE at a member, which answers the anchor (R392). -/
def execProbe (jobId : U64) (anchor : U16) (s : State) : Host.Outcome State Fault Refusal :=
  onJobs (fun h => h.sendNote 4 anchor.toNat (.probeReply jobId)) s

/-- PROBE_TIMEOUT, R392. -/
def execProbeTimeout (jobId : U64) (node : U16) (s : State) : Host.Outcome State Fault Refusal :=
  onJobs (fun h => h.probeTimeout jobId node.toNat) s

/-- START_TIMEOUT, R392. -/
def execStartTimeout (jobId : U64) (s : State) : Host.Outcome State Fault Refusal :=
  onJobs (fun h => h.startTimeout jobId) s

/-- READY, R388. -/
def execReady (jobId : U64) (node : U16) (status : U16) (s : State) : Host.Outcome State Fault Refusal :=
  onJobs (fun h => h.onReady jobId node.toNat status.toNat) s

/-- RUN, R388. -/
def execRun (jobId : U64) (s : State) : Host.Outcome State Fault Refusal :=
  onJobs (fun h => h.onRun jobId) s

/-- SHARD_LOAD_START, R396. -/
def execShardLoadStart (slot : SlotId) (s : State) : Host.Outcome State Fault Refusal :=
  onJobs (fun h => h.shardStart slot) s

/-- SHARD_READ_DONE, R397. -/
def execShardReadDone (slot : SlotId) (shard : Nat) (bytes : List Byte) (digest : List Byte) (s : State) :
    Host.Outcome State Fault Refusal :=
  onJobs (fun h => h.shardRead slot shard bytes digest) s

/-- LOAD_PACING_WINDOW, R396. -/
def execLoadPacingWindow (slot : SlotId) (s : State) : Host.Outcome State Fault Refusal :=
  onJobs (fun h => h.pacingWindow slot) s

/-! ## Checkpoints, R399 to R406 -/

/-- CHECKPOINT_BOUNDARY, R399. -/
def execCheckpointBoundary (slot : SlotId) (part : Part) (s : State) : Host.Outcome State Fault Refusal :=
  onJobs (fun h => h.partBoundary slot part) s

/-- CHECKPOINT_WRITE_STEP, R402. -/
def execCheckpointWriteStep (slot : SlotId) (ok : Bool) (s : State) : Host.Outcome State Fault Refusal :=
  onJobs (fun h => h.ckptWriteStep slot ok) s

/-- COMMIT_TIMEOUT, R406. -/
def execCommitTimeout (slot : SlotId) (s : State) : Host.Outcome State Fault Refusal :=
  onJobs (fun h => h.commitTimeout slot) s

/-! ## Training, coupling, batcher -/

/-- TRAINING_TOTALS, R162. -/
def execTrainingTotals (slot : SlotId) (s : State) : Host.Outcome State Fault Refusal :=
  onJobs (fun h => h.onBackwardDone slot) s

/-- MEMBER_TOTALS, R158. -/
def execMemberTotals (slot : SlotId) (t : Totals) (s : State) : Host.Outcome State Fault Refusal :=
  onJobs (fun h => h.onTotals slot t) s

/-- DECISION_EXPIRY, R162. -/
def execDecisionExpiry (slot : SlotId) (s : State) : Host.Outcome State Fault Refusal :=
  onJobs (fun h => h.decisionExpired slot) s

/-- STATE_VECTOR, R162. -/
def execStateVector (slot : SlotId) (step : Nat) (withheld : Bool) (vec : List Byte) (s : State) :
    Host.Outcome State Fault Refusal :=
  onJobs (fun h => h.onVector slot step withheld vec) s

/-- EVALUATION, R176. -/
def execEvaluation (slot : SlotId) (s : State) : Host.Outcome State Fault Refusal :=
  onJobs (fun h => h.evaluate slot) s

/-- FORWARD_TRANSFER, R367. -/
def execForwardTransfer (slot : SlotId) (s : State) : Host.Outcome State Fault Refusal :=
  onJobs (fun h => h.forwardTransfer slot) s

/-- RETURN_TRANSFER, R367. -/
def execReturnTransfer (slot : SlotId) (s : State) : Host.Outcome State Fault Refusal :=
  onJobs (fun h => h.returnTransfer slot) s

/-- INFERENCE_BATCH_CLOSE, R114. -/
def execInferenceBatchClose (slot : SlotId) (rows : Nat) (windowExpired : Bool) (s : State) :
    Host.Outcome State Fault Refusal :=
  onJobs (fun h => h.closeBatchRows slot rows windowExpired) s

/-- WAKE_DONE, R458. -/
def execWakeDone (cycles : U32) (s : State) : Host.Outcome State Fault Refusal :=
  onJobs (fun h => h.wakeDone cycles.toNat) s

end Sys2Proof.Machine
end

