-- ==== Sys2Proof/Machine/LinkRows.lean ====
section
/-! DEFINITION. Commands of ports, links and the host link (spec/10_links_and_topology.md R273 to R303,
spec/17_power_clocks_and_bringup.md R440). -/

namespace Sys2Proof.Machine

/-- As `onChip`, for commands that may change the link-state database: job starts follow it (R390, R392). -/
def onLinks (f : Chip → Chip) (s : State) : Host.Outcome State Fault Refusal := onChip (fun t => t.afterLinks (f t)) s

/-- PEER_DETECT, R273. -/
def execPeerDetect (p : PortId) (s : State) : Host.Outcome State Fault Refusal :=
  onLinks (fun t => if t.portReg p 2 = 1 && t.portReg p 1 = 1 then
    (t.setPort p { dormant := (t.port p).dormant, leftOut := (t.port p).leftOut }).setPortState p 2 else t) s

/-- LANE_TRAINING_DONE, R274. -/
def execLaneTrainingDone (p : PortId) (lanes : BitVec 4) (peerGletor3 : Bool) (s : State) (peerLanes : BitVec 4 := 15) : Host.Outcome State Fault Refusal :=
  onLinks (fun t => t.lanesTrained p lanes.toNat peerLanes.toNat peerGletor3) s

/-- TRAINING_TIMEOUT, R274. -/
def execTrainingTimeout (p : PortId) (s : State) : Host.Outcome State Fault Refusal :=
  onLinks (fun t => t.trainingFailed p) s

/-- A control flit outside the sequence, which is used unless it is bad (R280). -/
def onTraining (p : PortId) (h : FlitHdr) (f : Chip → Chip) (s : State) : Host.Outcome State Fault Refusal :=
  onLinks (fun t => if h.ftype = 1 && h.reserved = 0 then f (t.useHeader p h) else t) s

/-- IDENT, R281. -/
def execIdent (p : PortId) (h : FlitHdr) (x : Ident) (s : State) : Host.Outcome State Fault Refusal :=
  onTraining p h (fun t => t.onIdent p x) s

/-- NAK, R282. -/
def execNak (p : PortId) (h : FlitHdr) (expected : Fin 4096) (s : State) : Host.Outcome State Fault Refusal :=
  onLinks (fun t => t.onControl p h (fun u => u.onNak p expected)) s

/-- AUDIT, R286. -/
def execAudit (p : PortId) (h : FlitHdr) (entries : List (U16 × U16)) (s : State) : Host.Outcome State Fault Refusal :=
  onLinks (fun t => t.onControl p h (fun u => u.onAudit p (entries.map (fun e => (e.1.toNat, e.2.toNat))))) s

/-- AUDIT_FAIL, R286. -/
def execAuditFail (p : PortId) (h : FlitHdr) (entry : Nat) (s : State) : Host.Outcome State Fault Refusal :=
  onLinks (fun t => t.onControl p h (fun u => (u.portEvent Code.checkMismatch p (leBytes 1 entry)).enterRetrain p)) s

/-- RESYNC, R287. -/
def execResync (p : PortId) (h : FlitHdr) (next : Fin 4096) (free : List U16) (s : State) : Host.Outcome State Fault Refusal :=
  onTraining p h (fun t => (t.onResync p next (free.map (fun n => n.toNat))).pumpAll) s

/-- POWER, R300. -/
def execPower (p : PortId) (h : FlitHdr) (v : Byte) (s : State) : Host.Outcome State Fault Refusal :=
  onLinks (fun t => t.onControl p h (fun u => u.onPower p (v = 1))) s

/-- DATA_FLIT, R282. -/
def execDataFlit (p : PortId) (f : Flit) (s : State) : Host.Outcome State Fault Refusal :=
  onLinks (fun t => t.onDataFlit p f) s

/-- IDLE_FLIT, R280. -/
def execIdleFlit (p : PortId) (f : Flit) (s : State) : Host.Outcome State Fault Refusal :=
  onLinks (fun t => t.onIdle p f) s

/-- FLIT_SLOT, R284. -/
def execFlitSlot (p : PortId) (s : State) : Host.Outcome State Fault Refusal :=
  onLinks (fun t => t.flitSlot p) s

/-- ACK_TIMER, R282. -/
def execAckTimer (p : PortId) (s : State) : Host.Outcome State Fault Refusal :=
  onLinks (fun t => if t.carries p && decide (0 < (t.port p).sinceAck) then t.sendIdle p else t) s

/-- AUDIT_DUE, R286. -/
def execAuditDue (p : PortId) (s : State) : Host.Outcome State Fault Refusal :=
  onLinks (fun t => t.auditDue p) s

/-- RETRAIN, R275. -/
def execRetrain (p : PortId) (cause : RetrainCause) (s : State) : Host.Outcome State Fault Refusal :=
  onLinks (fun t => match cause with | .laneLoss => t.enterRetrain p | .fec => t.enterRetrain p | .width => t.enterRetrain p) s

/-- RETRAIN_TIMEOUT, R275. -/
def execRetrainTimeout (p : PortId) (s : State) : Host.Outcome State Fault Refusal :=
  onLinks (fun t => if t.portReg p 2 = 6 then ((t.portEvent Code.pathLost p []).portDown p 1).pumpAll else t) s

/-- PORT_DRAIN_TIMEOUT, R278. -/
def execPortDrainTimeout (p : PortId) (s : State) : Host.Outcome State Fault Refusal :=
  onLinks (fun t => if t.portReg p 2 = 8 then (t.portDown p 0).pumpAll else t) s

/-- LSDB_UPDATE, R303. -/
def execLsdbUpdate (p : PortId) (rec : LinkRecord) (cert : Option NodeCert) (s : State) : Host.Outcome State Fault Refusal :=
  onLinks (fun t => (t.onLsdb p rec cert).pumpAll) s

/-- ROUTING_REWRITE, R294. -/
def execRoutingRewrite (s : State) : Host.Outcome State Fault Refusal :=
  onLinks (fun t => { t with fab := { t.fab with routes := t.fab.lsdb } }) s

/-- REFCLK_LOSS, R440. -/
def execRefclkLoss (r : RidgeId) (input : Fin 2) (s : State) : Host.Outcome State Fault Refusal :=
  onLinks (fun t => ((Chip.portsOfRef r input).foldl (fun (u : Chip) p => u.refLost p) t).pumpAll) s

/-- HOST_LINK_TRAINING, R298: the link that trains, or that went down while PERST_N stays high, comes up. -/
def execHostLinkTraining (rate64 : Bool) (width : Nat) (s : State) : Host.Outcome State Fault Refusal :=
  onLinks (fun t => if (t.trainHost s.plat.perstN).reg 0x4010 3 = 1 then t.setHostLink (if rate64 && width = 16 then 2 else 3) else t) s

/-- HOST_LINK_DOWN, R486. -/
def execHostLinkDown (s : State) : Host.Outcome State Fault Refusal :=
  onLinks (fun t => t.setHostLink 0) s

/-- PERST_N, R298: low resets the endpoint alone; high starts its training on a package with BRIDGE_EN high. -/
def execPerstN (level : Bool) (s : State) : Host.Outcome State Fault Refusal :=
  onLinks (fun t => if !level then t.resetEndpoint else t.trainHost true)
    { s with plat := { s.plat with perstN := level } }

end Sys2Proof.Machine
end

