-- ==== Sys2Proof/Machine/MemRows.lean ====
section
/-! DEFINITION. Commands of copy engines and memory (spec/08_memory_hierarchy.md R219 to R243). -/

namespace Sys2Proof.Machine

/-- SERVICE_COPY_SUBMIT, R232: with a full queue Burist holds the work. -/
def execServiceCopySubmit (e : EngineId) (slot : Byte) (d : CopyDesc) (s : State) : Host.Outcome State Fault Refusal :=
  onChip (fun h => h.serviceCopy e slot.toNat 0 d) s

/-- CE_COPY, R235. -/
def execCeCopy (e : EngineId) (q : EngineQueue) (o : LineObs) (s : State) : Host.Outcome State Fault Refusal :=
  onChip (fun h => ((h.badSource e q o).startCopy 1 e q).pumpAll) s

/-- CONVERT, R235. -/
def execConvert (e : EngineId) (q : EngineQueue) (o : LineObs) (s : State) : Host.Outcome State Fault Refusal :=
  onChip (fun h => ((h.badSource e q o).startCopy 2 e q).afterCopies.pumpAll) s

/-- FILL, R235. -/
def execFill (e : EngineId) (q : EngineQueue) (s : State) : Host.Outcome State Fault Refusal :=
  onChip (fun h => (h.startCopy 3 e q).pumpAll) s

/-- COPY_COMPLETE, R236. -/
def execCopyComplete (e : EngineId) (q : EngineQueue) (s : State) : Host.Outcome State Fault Refusal :=
  onChip (fun h => (h.completeCopy e q).afterCopies.pumpAll) s

/-- GRANULE_TAKEN, R240. -/
def execGranuleTaken (e : EngineId) (s : State) (o : LineObs := none) : Host.Outcome State Fault Refusal :=
  onChip (fun h => (h.takeGranule e o).pumpAll) s

/-- CE_DRAIN_BOUND, R238. -/
def execCeDrainBound (e : EngineId) (s : State) : Host.Outcome State Fault Refusal :=
  onChip (fun h => (h.engineBound e).afterCopies.pumpAll) s

/-- REGION_FILL, R219. -/
def execRegionFill (slot : SlotId) (s : State) : Host.Outcome State Fault Refusal :=
  onChip (fun h => h.regionFill slot) s

/-- SCRUB_READ, R226. -/
def execScrubRead (h : HbmId) (ecc : EccObs) (s : State) : Host.Outcome State Fault Refusal :=
  onChip (fun t => t.scrubRead h ecc) s

/-- SRAM_SCRUB, R226. -/
def execSramScrub (d : DieId) (found : SramObs) (s : State) : Host.Outcome State Fault Refusal :=
  onChip (fun h => (h.sramScrub d found).pumpAll) s

/-- BYPASS_ENTER, R230. -/
def execBypassEnter (k : ClusterId) (s : State) : Host.Outcome State Fault Refusal :=
  onChip (fun h => { h with bypass := SMap.set false h.bypass k true }) s

/-- BYPASS_LEAVE, R230. -/
def execBypassLeave (k : ClusterId) (s : State) : Host.Outcome State Fault Refusal :=
  onChip (fun h => { h with bypass := SMap.set false h.bypass k false }) s

/-- REMOTE_LINE_EXPIRY, R317. -/
def execRemoteLineExpiry (k : ClusterId) (line : U64) (s : State) : Host.Outcome State Fault Refusal :=
  onChip (fun h => h.dropRange k line.toNat 1) s

end Sys2Proof.Machine
end

