-- ==== Sys2Proof/Machine/PowerRows.lean ====
section
/-! DEFINITION. Commands of power, reset and bring-up (spec/17_power_clocks_and_bringup.md R443 to R458,
spec/19_package_and_signals.md R485, R491). -/

namespace Sys2Proof.Machine

/-- PG_IN_HIGH, R444. -/
def execPgInHigh (s : State) : Host.Outcome State Fault Refusal :=
  .next (if s.plat.rails < 5 && !s.plat.rising && !s.plat.latched then { s with plat := { s.plat with pgIn := true, rising := true } } else s)

/-- RAIL_UP, R444. -/
def execRailUp (s : State) : Host.Outcome State Fault Refusal :=
  .next (if s.plat.rising && s.plat.rails < 5 then { s with plat := { s.plat with rails := s.plat.rails + 1, rising := decide (s.plat.rails < 4) } } else s)

/-- INPUT_OUT_OF_RANGE, R443. -/
def execInputOutOfRange (vin : U32) (s : State) : Host.Outcome State Fault Refusal :=
  onChip (fun h => h.inputOutOfRange vin.toNat) s

/-- POWER_DOWN, R445. -/
def execPowerDown (cause : TripCause) (vin : U32) (s : State) : Host.Outcome State Fault Refusal :=
  .next (powerDown s cause vin.toNat)

/-- PKG_RESET_N_ASSERT, R450. -/
def execPkgResetNAssert (s : State) : Host.Outcome State Fault Refusal :=
  .next (if s.plat.rails = 5 then { s with chip := s.chip.afterReset false, plat := { s.plat with resetN := false, running := false } } else { s with plat := { s.plat with resetN := false } })

/-- RESET_RELEASE, R485. -/
def execResetRelease (x : Straps) (s : State) : Host.Outcome State Fault Refusal :=
  .next (releaseReset s x)

/-- SENSOR_READING, R447 and R448; a die at 105 °C powers the package down at once (R449). -/
def execSensorReading (r : Readings) (s : State) : Host.Outcome State Fault Refusal :=
  match onChip (fun h => h.reading r) s with
  | .next t => .next (if t.plat.running && (Chip.tripping t.chip).isSome then powerDown t .thermal r.vin.toNat else t)
  | o => o

/-- STEP_DECISION, R448. -/
def execStepDecision (d : DieId) (averageOver : Bool) (s : State) : Host.Outcome State Fault Refusal :=
  onChip (fun h => h.stepDecision d averageOver) s

/-- CLUSTER_POWER_RAMP, R446. -/
def execClusterPowerRamp (s : State) : Host.Outcome State Fault Refusal :=
  onChip (fun h => h.rampCluster) s

/-- BRINGUP_TEST_DONE, R454. -/
def execBringupTestDone (bit : ReadyBit) (failed : List UnitRef) (usable : Bool) (s : State) : Host.Outcome State Fault Refusal :=
  onChip (fun h => h.bringup bit failed usable) s

/-- BOOT_COMMIT_TIMEOUT, R451. -/
def execBootCommitTimeout (s : State) : Host.Outcome State Fault Refusal :=
  onChip (fun h => if h.reg 0x2300 4 = 0 && h.reg 0x2300 3 % 4 ≠ 0 then (let t := h.bootFlash true; if t.reg 0x2300 4 = 0 then t else t.endRom) else h) s

/-- SLEEP_ENTRY_DONE, R457. -/
def execSleepEntryDone (s : State) : Host.Outcome State Fault Refusal :=
  onChip (fun h => h.sleepEntered) s

/-- TAP_INSTRUCTION, R491. -/
def execTapInstruction (x : TapOp) (s : State) : Host.Outcome State Fault Refusal :=
  .next ({ s with plat := { s.plat with tap := tapLoad s.plat.resetN x } })

end Sys2Proof.Machine
end

