-- ==== Sys2Proof/Machine/RemoteRows.lean ====
section
/-! DEFINITION. Messages of the request, response and bulk lanes and their windows (spec/11_remote_memory.md R311 to R330). -/

namespace Sys2Proof.Machine

/-- READ, R314. -/
def execRead (at_ : Arrival) (m : Msg) (ecc : EccObs) (s : State) : Host.Outcome State Fault Refusal :=
  onChip (fun h => (h.arriveRequest at_ { m with mtype := 1 } ecc).pumpAll) s

/-- WRITE, R321. -/
def execWrite (at_ : Arrival) (m : Msg) (ecc : EccObs) (s : State) : Host.Outcome State Fault Refusal :=
  onChip (fun h => (h.arriveRequest at_ { m with mtype := 2 } ecc).pumpAll) s

/-- ATOMIC, R319. -/
def execAtomic (at_ : Arrival) (m : Msg) (ecc : EccObs) (s : State) : Host.Outcome State Fault Refusal :=
  onChip (fun h => (h.arriveRequest at_ { m with mtype := 3 } ecc).pumpAll) s

/-- REMOTE_SIGNAL, R261. -/
def execRemoteSignal (at_ : Arrival) (m : Msg) (s : State) : Host.Outcome State Fault Refusal :=
  onChip (fun h => (h.arriveRequest at_ { m with mtype := 4 } .clean).pumpAll) s

/-- RESPONSE, R310. -/
def execResponse (at_ : Arrival) (m : Msg) (s : State) : Host.Outcome State Fault Refusal :=
  onChip (fun h => (h.arriveAnswer at_ { m with mtype := 5 }).pumpAll) s

/-- RETRY, R314. -/
def execRetry (at_ : Arrival) (m : Msg) (s : State) : Host.Outcome State Fault Refusal :=
  onChip (fun h => (h.arriveAnswer at_ { m with mtype := 6 }).pumpAll) s

/-- RATE, R323. -/
def execRate (at_ : Arrival) (m : Msg) (s : State) : Host.Outcome State Fault Refusal :=
  onChip (fun h => (h.arriveAnswer at_ { m with mtype := 7 }).pumpAll) s

/-- BATCH, R327. -/
def execBatch (at_ : Arrival) (dest src : U16) (msgs : List Msg) (s : State) : Host.Outcome State Fault Refusal :=
  onChip (fun h => (h.arriveBatch at_ dest.toNat src.toNat msgs).pumpAll) s

/-- BULK_WRITE, R330. -/
def execBulkWrite (at_ : Arrival) (m : Msg) (s : State) : Host.Outcome State Fault Refusal :=
  onChip (fun h => (h.arriveRequest at_ { m with mtype := 9 } .clean).pumpAll) s

/-- BULK_READ, R330. -/
def execBulkRead (at_ : Arrival) (m : Msg) (s : State) (ecc : EccObs := .clean) : Host.Outcome State Fault Refusal :=
  onChip (fun h => (h.arriveRequest at_ { m with mtype := 0x0A } ecc).pumpAll) s

/-- REQUEST_TIMEOUT, R315. -/
def execRequestTimeout (unit : U32) (dest flow : U16) (seq : U32) (s : State) : Host.Outcome State Fault Refusal :=
  onChip (fun h => (h.timeoutRequest unit.toNat dest.toNat flow.toNat seq.toNat).pumpAll) s

/-- SEQUENCE_ENTRY_EXPIRY, R315. -/
def execSequenceEntryExpiry (r : RidgeId) (unit : U32) (s : State) : Host.Outcome State Fault Refusal :=
  onChip (fun h => h.setRidge r { h.ridge r with seqs := (h.ridge r).seqs.filter (fun e => e.1 ≠ unit.toNat) }) s

/-- COALESCE_WINDOW, R321. -/
def execCoalesceWindow (r : RidgeId) (line : U64) (s : State) : Host.Outcome State Fault Refusal :=
  onChip (fun h => (h.closeEntry r (line.toNat / 64)).pumpAll) s

/-- HOT_WINDOW, R323. -/
def execHotWindow (r : RidgeId) (s : State) : Host.Outcome State Fault Refusal :=
  onChip (fun h => h.setRidge r { h.ridge r with hot := [], rated := [] }) s

/-- RATE_INTERVAL, R323. -/
def execRateInterval (dest : U16) (line : U64) (s : State) : Host.Outcome State Fault Refusal :=
  onChip (fun h => (h.rateSpaced dest.toNat (line.toNat / 64)).pumpAll) s

/-- RATE_HOLD, R323. -/
def execRateHold (dest : U16) (line : U64) (s : State) : Host.Outcome State Fault Refusal :=
  onChip (fun h => (h.rateOver dest.toNat (line.toNat / 64)).pumpAll) s

/-- EAVE_WINDOW, R326. -/
def execEaveWindow (r : RidgeId) (dest : U16) (s : State) : Host.Outcome State Fault Refusal :=
  onChip (fun h => (h.closeBatch r dest.toNat).pumpAll) s

end Sys2Proof.Machine
end

