-- ==== Sys2Proof/Machine/SafetyRows.lean ====
section
/-! DEFINITION. Commands of the safety monitor (spec/18_safety_and_security.md R462 to R469). -/

namespace Sys2Proof.Machine

/-- LOCKSTEP_MISMATCH, R466. -/
def execLockstepMismatch (pair : Fin 2) (s : State) : Host.Outcome State Fault Refusal :=
  onChip (fun h => h.lockstep pair) s

/-- PAIR_RESTART_DONE, R466. -/
def execPairRestartDone (pair : Fin 2) (s : State) : Host.Outcome State Fault Refusal :=
  onChip (fun h => h.pairRestarted pair) s

/-- PAIR_HEARTBEAT, R466. -/
def execPairHeartbeat (missed : Option (Fin 2)) (s : State) : Host.Outcome State Fault Refusal :=
  onChip (fun h => h.pairHeartbeat (missed.map (fun p => p.val))) s

/-- BURIST_HEARTBEAT, R467. -/
def execBuristHeartbeat (s : State) : Host.Outcome State Fault Refusal :=
  onChip (fun h => { h with mon := { h.mon with buristBeat := true } }) s

/-- BURIST_HEARTBEAT_TIMEOUT, R462. -/
def execBuristHeartbeatTimeout (s : State) : Host.Outcome State Fault Refusal :=
  onChip (fun h => ({ h with mon := { h.mon with buristBeat := false } }).detect 6 Code.aliveStale 0xFF h.monitorUnit) s

/-- WATCHDOG_SAMPLE, R468. -/
def execWatchdogSample (slot : SlotId) (s : State) : Host.Outcome State Fault Refusal :=
  onChip (fun h => h.watchdog slot) s

/-- CLOCK_MONITOR, R462. -/
def execClockMonitor (fault : Bool) (reference : Bool) (s : State) : Host.Outcome State Fault Refusal :=
  onChip (fun h => h.clockMonitor fault reference) s

/-- HEARTBEAT_SEND, R469. -/
def execHeartbeatSend (s : State) : Host.Outcome State Fault Refusal :=
  onChip (fun h => h.heartbeats) s

/-- HEARTBEAT, R469. -/
def execHeartbeat (at_ : Arrival) (m : SafetyMsg) (s : State) : Host.Outcome State Fault Refusal :=
  onChip (fun h => h.arriveSafety at_ 1 m) s

/-- SAFE_NOTICE, R469. -/
def execSafeNotice (at_ : Arrival) (m : SafetyMsg) (s : State) : Host.Outcome State Fault Refusal :=
  onChip (fun h => h.arriveSafety at_ 2 m) s

/-- MEMBER_SILENCE, R469. -/
def execMemberSilence (slot : SlotId) (node : U16) (s : State) : Host.Outcome State Fault Refusal :=
  onChip (fun h => h.memberSilent slot node.toNat) s

end Sys2Proof.Machine
end

