-- ==== Sys2Proof/Machine/SyncRows.lean ====
section
/-! DEFINITION. Commands of the synchronisation objects (spec/09_synchronisation.md R244 to R270). -/

namespace Sys2Proof.Machine

namespace Chip

/-- Issue what the waiter's core can issue. -/
def settleWaiter (s : Chip) (w : Waiter) : Chip :=
  match w with
  | .stream c _ => s.settle c
  | _ => s

/-- A posted signal has been applied; the stream whose SIGNAL entry waited goes on. -/
def settleSignal (s : Chip) (unit : Nat) : Chip :=
  if unitKind unit = 1 && unitNode unit = s.node then s.settle (Fin.ofNat 256 (unitNumber unit / 4)) else s

/-- Send the answer of the dictionary server (R17, R420). -/
def answer (s : Chip) (code : Nat) (value : List Byte) : Chip := s.emit (.answer code value)

end Chip

/-- WAIT enters its stream, R250. -/
def execWait (c : CoreId) (st : StreamIx) (tag : EntryTag) (x : SyncOp) (s : State) : Host.Outcome State Fault Refusal :=
  onChip (fun h => h.enter c st (.wait c st tag x)) s

/-- SIGNAL enters its stream, R249. -/
def execSignal (c : CoreId) (st : StreamIx) (tag : EntryTag) (x : SyncOp) (s : State) : Host.Outcome State Fault Refusal :=
  onChip (fun h => h.enter c st (.signal c st tag x)) s

/-- FENCE enters its stream, R259. -/
def execFence (c : CoreId) (st : StreamIx) (tag : EntryTag) (x : SyncOp) (s : State) : Host.Outcome State Fault Refusal :=
  onChip (fun h => h.enter c st (.fence c st tag x)) s

/-- FENCE_COMPLETE, R259. -/
def execFenceComplete (c : CoreId) (st : StreamIx) (s : State) : Host.Outcome State Fault Refusal :=
  onChip (fun h => (h.completeFence c st).settle c) s

/-- WATCH_REGISTRATION, R251. -/
def execWatchRegistration (w : Waiter) (obj : U16) (target : U64) (s : State) : Host.Outcome State Fault Refusal :=
  onChip (fun h => (h.applyRegistration w (objOfRef obj.toNat) target).settleWaiter w) s

/-- SIGNAL_ADD, R245. -/
def execSignalAdd (obj : U16) (amount : U64) (unit : U32) (s : State) : Host.Outcome State Fault Refusal :=
  onChip (fun h => (h.applyPosted (objOfRef obj.toNat) amount.toNat unit.toNat).settleSignal unit.toNat) s

/-- WAKE, R251. -/
def execWake (w : Waiter) (s : State) : Host.Outcome State Fault Refusal :=
  onChip (fun h => (h.deliverWake w).settleWaiter w) s

/-- WAIT_EXPIRY, R255. -/
def execWaitExpiry (w : Waiter) (s : State) : Host.Outcome State Fault Refusal :=
  onChip (fun h => h.expireWait w) s

/-- CANCEL, R253. -/
def execCancel (w : Waiter) (s : State) : Host.Outcome State Fault Refusal :=
  onChip (fun h => (h.applyCancel w).settleWaiter w) s

/-- SET by Burist, R266; the answer carries its code. -/
def execSet (obj : U16) (value : U64) (s : State) : Host.Outcome State Fault Refusal :=
  onChip (fun h => let r := h.setObject (objOfRef obj.toNat) value; r.2.answer r.1 []) s

end Sys2Proof.Machine
end

