-- ==== Sys2Proof/Machine/VeRows.lean ====
section
/-! DEFINITION. Vector-engine instructions and their events (spec/05_vector_engine.md R121 to R145). -/

namespace Sys2Proof.Machine

namespace Chip

/-- The running VE instruction completes, once no write of it waits at a guard (R242); a tile-register parity error drains the core
(R127, R144). -/
def veDone (s : Chip) (c : CoreId) (parity : Bool) (o : LineObs) : Chip :=
  let u := s.streamUnit c 2
  match s.ve c with
  | [] => s
  | r :: t =>
    if s.stalledBy u then s
    else
      let lost := s.lostLine o
      let s0 := s.found u o
      let s1 := if parity || lost.isSome then s0.spoilOuts u r.outs r.tileOut else s0
      let s2 := s1.setVe c t
      let code := if parity || lost.isSome then Code.uncorrectable else r.status
      let s3 := s2.endConv u (s.slotOfCore c) r.conv r.coarse r.amax none code
      let s4 := s3.finishAt c 2 code r.index r.signalObj (lost <|> r.bad)
      (if parity then s4.drainUnit (.core c) else s4).settle c

/-- The drain bound aborts the running instruction; what it wrote is not valid (R144). -/
def abortVe (s : Chip) (c : CoreId) : Chip :=
  ((s.ve c).foldl (fun (t : Chip) r =>
    ((t.spoilOuts (t.streamUnit c 2) r.outs r.tileOut).endConv 0 0xFF r.conv 0 FVal.zero none Code.unitDisabled).finish c 2 Code.unitDisabled
      r.index r.signalObj) (s.setVe c [])).settle c

end Chip

/-! ## The commands -/

/-- VLD enters the VE stream of its core (R131). -/
def execVld (c : CoreId) (tag : EntryTag) (x : VeInstr) (s : State) : Host.Outcome State Fault Refusal :=
  onChip (fun h => h.enter c 2 (.vld c tag x)) s

/-- VST enters the VE stream of its core (R131). -/
def execVst (c : CoreId) (tag : EntryTag) (x : VeInstr) (s : State) : Host.Outcome State Fault Refusal :=
  onChip (fun h => h.enter c 2 (.vst c tag x)) s

/-- MOV enters the VE stream of its core (R131). -/
def execMov (c : CoreId) (tag : EntryTag) (x : VeInstr) (s : State) : Host.Outcome State Fault Refusal :=
  onChip (fun h => h.enter c 2 (.mov c tag x)) s

/-- BCAST enters the VE stream of its core (R131). -/
def execBcast (c : CoreId) (tag : EntryTag) (x : VeInstr) (s : State) : Host.Outcome State Fault Refusal :=
  onChip (fun h => h.enter c 2 (.bcast c tag x)) s

/-- ADD enters the VE stream of its core (R132). -/
def execAdd (c : CoreId) (tag : EntryTag) (x : VeInstr) (s : State) : Host.Outcome State Fault Refusal :=
  onChip (fun h => h.enter c 2 (.add c tag x)) s

/-- SUB enters the VE stream of its core (R132). -/
def execSub (c : CoreId) (tag : EntryTag) (x : VeInstr) (s : State) : Host.Outcome State Fault Refusal :=
  onChip (fun h => h.enter c 2 (.sub c tag x)) s

/-- MUL enters the VE stream of its core (R132). -/
def execMul (c : CoreId) (tag : EntryTag) (x : VeInstr) (s : State) : Host.Outcome State Fault Refusal :=
  onChip (fun h => h.enter c 2 (.mul c tag x)) s

/-- FMA enters the VE stream of its core (R132). -/
def execFma (c : CoreId) (tag : EntryTag) (x : VeInstr) (s : State) : Host.Outcome State Fault Refusal :=
  onChip (fun h => h.enter c 2 (.fma c tag x)) s

/-- MIN enters the VE stream of its core (R132). -/
def execMin (c : CoreId) (tag : EntryTag) (x : VeInstr) (s : State) : Host.Outcome State Fault Refusal :=
  onChip (fun h => h.enter c 2 (.min c tag x)) s

/-- MAX enters the VE stream of its core (R132). -/
def execMax (c : CoreId) (tag : EntryTag) (x : VeInstr) (s : State) : Host.Outcome State Fault Refusal :=
  onChip (fun h => h.enter c 2 (.max c tag x)) s

/-- ABS enters the VE stream of its core (R132). -/
def execAbs (c : CoreId) (tag : EntryTag) (x : VeInstr) (s : State) : Host.Outcome State Fault Refusal :=
  onChip (fun h => h.enter c 2 (.abs c tag x)) s

/-- NEG enters the VE stream of its core (R132). -/
def execNeg (c : CoreId) (tag : EntryTag) (x : VeInstr) (s : State) : Host.Outcome State Fault Refusal :=
  onChip (fun h => h.enter c 2 (.neg c tag x)) s

/-- AND enters the VE stream of its core (R131). -/
def execAnd (c : CoreId) (tag : EntryTag) (x : VeInstr) (s : State) : Host.Outcome State Fault Refusal :=
  onChip (fun h => h.enter c 2 (.and c tag x)) s

/-- OR enters the VE stream of its core (R131). -/
def execOr (c : CoreId) (tag : EntryTag) (x : VeInstr) (s : State) : Host.Outcome State Fault Refusal :=
  onChip (fun h => h.enter c 2 (.or c tag x)) s

/-- XOR enters the VE stream of its core (R131). -/
def execXor (c : CoreId) (tag : EntryTag) (x : VeInstr) (s : State) : Host.Outcome State Fault Refusal :=
  onChip (fun h => h.enter c 2 (.xor c tag x)) s

/-- SHL enters the VE stream of its core (R131). -/
def execShl (c : CoreId) (tag : EntryTag) (x : VeInstr) (s : State) : Host.Outcome State Fault Refusal :=
  onChip (fun h => h.enter c 2 (.shl c tag x)) s

/-- SHR enters the VE stream of its core (R131). -/
def execShr (c : CoreId) (tag : EntryTag) (x : VeInstr) (s : State) : Host.Outcome State Fault Refusal :=
  onChip (fun h => h.enter c 2 (.shr c tag x)) s

/-- RCP enters the VE stream of its core (R133). -/
def execRcp (c : CoreId) (tag : EntryTag) (x : VeInstr) (s : State) : Host.Outcome State Fault Refusal :=
  onChip (fun h => h.enter c 2 (.rcp c tag x)) s

/-- RSQRT enters the VE stream of its core (R133). -/
def execRsqrt (c : CoreId) (tag : EntryTag) (x : VeInstr) (s : State) : Host.Outcome State Fault Refusal :=
  onChip (fun h => h.enter c 2 (.rsqrt c tag x)) s

/-- SQRT enters the VE stream of its core (R133). -/
def execSqrt (c : CoreId) (tag : EntryTag) (x : VeInstr) (s : State) : Host.Outcome State Fault Refusal :=
  onChip (fun h => h.enter c 2 (.sqrt c tag x)) s

/-- EXP2 enters the VE stream of its core (R133). -/
def execExp2 (c : CoreId) (tag : EntryTag) (x : VeInstr) (s : State) : Host.Outcome State Fault Refusal :=
  onChip (fun h => h.enter c 2 (.exp2 c tag x)) s

/-- LOG2 enters the VE stream of its core (R133). -/
def execLog2 (c : CoreId) (tag : EntryTag) (x : VeInstr) (s : State) : Host.Outcome State Fault Refusal :=
  onChip (fun h => h.enter c 2 (.log2 c tag x)) s

/-- TANH enters the VE stream of its core (R133). -/
def execTanh (c : CoreId) (tag : EntryTag) (x : VeInstr) (s : State) : Host.Outcome State Fault Refusal :=
  onChip (fun h => h.enter c 2 (.tanh c tag x)) s

/-- SIGMOID enters the VE stream of its core (R133). -/
def execSigmoid (c : CoreId) (tag : EntryTag) (x : VeInstr) (s : State) : Host.Outcome State Fault Refusal :=
  onChip (fun h => h.enter c 2 (.sigmoid c tag x)) s

/-- SILU enters the VE stream of its core (R133). -/
def execSilu (c : CoreId) (tag : EntryTag) (x : VeInstr) (s : State) : Host.Outcome State Fault Refusal :=
  onChip (fun h => h.enter c 2 (.silu c tag x)) s

/-- GELU enters the VE stream of its core (R133). -/
def execGelu (c : CoreId) (tag : EntryTag) (x : VeInstr) (s : State) : Host.Outcome State Fault Refusal :=
  onChip (fun h => h.enter c 2 (.gelu c tag x)) s

/-- CMP enters the VE stream of its core (R131). -/
def execCmp (c : CoreId) (tag : EntryTag) (x : VeInstr) (s : State) : Host.Outcome State Fault Refusal :=
  onChip (fun h => h.enter c 2 (.cmp c tag x)) s

/-- SEL enters the VE stream of its core (R131). -/
def execSel (c : CoreId) (tag : EntryTag) (x : VeInstr) (s : State) : Host.Outcome State Fault Refusal :=
  onChip (fun h => h.enter c 2 (.sel c tag x)) s

/-- CMPP enters the VE stream of its core (R131). -/
def execCmpp (c : CoreId) (tag : EntryTag) (x : VeInstr) (s : State) : Host.Outcome State Fault Refusal :=
  onChip (fun h => h.enter c 2 (.cmpp c tag x)) s

/-- PFIRST enters the VE stream of its core (R131). -/
def execPfirst (c : CoreId) (tag : EntryTag) (x : VeInstr) (s : State) : Host.Outcome State Fault Refusal :=
  onChip (fun h => h.enter c 2 (.pfirst c tag x)) s

/-- PLOGIC enters the VE stream of its core (R131). -/
def execPlogic (c : CoreId) (tag : EntryTag) (x : VeInstr) (s : State) : Host.Outcome State Fault Refusal :=
  onChip (fun h => h.enter c 2 (.plogic c tag x)) s

/-- CVT enters the VE stream of its core (R131). -/
def execCvt (c : CoreId) (tag : EntryTag) (x : VeInstr) (s : State) : Host.Outcome State Fault Refusal :=
  onChip (fun h => h.enter c 2 (.cvt c tag x)) s

/-- CVTB enters the VE stream of its core (R131). -/
def execCvtb (c : CoreId) (tag : EntryTag) (x : VeInstr) (s : State) : Host.Outcome State Fault Refusal :=
  onChip (fun h => h.enter c 2 (.cvtb c tag x)) s

/-- DCVB enters the VE stream of its core (R131). -/
def execDcvb (c : CoreId) (tag : EntryTag) (x : VeInstr) (s : State) : Host.Outcome State Fault Refusal :=
  onChip (fun h => h.enter c 2 (.dcvb c tag x)) s

/-- RED enters the VE stream of its core (R134). -/
def execRed (c : CoreId) (tag : EntryTag) (x : VeInstr) (s : State) : Host.Outcome State Fault Refusal :=
  onChip (fun h => h.enter c 2 (.red c tag x)) s

/-- XPOSE enters the VE stream of its core (R131). -/
def execXpose (c : CoreId) (tag : EntryTag) (x : VeInstr) (s : State) : Host.Outcome State Fault Refusal :=
  onChip (fun h => h.enter c 2 (.xpose c tag x)) s

/-- TPERM enters the VE stream of its core (R136). -/
def execTperm (c : CoreId) (tag : EntryTag) (x : VeInstr) (s : State) : Host.Outcome State Fault Refusal :=
  onChip (fun h => h.enter c 2 (.tperm c tag x)) s

/-- CMPR enters the VE stream of its core (R137). -/
def execCmpr (c : CoreId) (tag : EntryTag) (x : VeInstr) (s : State) : Host.Outcome State Fault Refusal :=
  onChip (fun h => h.enter c 2 (.cmpr c tag x)) s

/-- EXPD enters the VE stream of its core (R138). -/
def execExpd (c : CoreId) (tag : EntryTag) (x : VeInstr) (s : State) : Host.Outcome State Fault Refusal :=
  onChip (fun h => h.enter c 2 (.expd c tag x)) s

/-- RAND enters the VE stream of its core (R139). -/
def execRand (c : CoreId) (tag : EntryTag) (x : VeInstr) (s : State) : Host.Outcome State Fault Refusal :=
  onChip (fun h => h.enter c 2 (.rand c tag x)) s

/-- VE_COMPLETE, R127 and R144. -/
def execVeComplete (c : CoreId) (parity : Bool) (s : State) (o : LineObs := none) : Host.Outcome State Fault Refusal :=
  onChip (fun h => h.veDone c parity o) s

/-- VE_DRAIN_BOUND, R144. -/
def execVeDrainBound (c : CoreId) (s : State) : Host.Outcome State Fault Refusal :=
  onChip (fun h => if h.coreState c = 2 then h.abortVe c else h) s

end Sys2Proof.Machine
end

