-- ==== Sys2Proof/Machine/Dispatch.lean ====
section
/-! DEFINITION. Dispatch: one arm per command, each a direct call of its meaning. -/

namespace Sys2Proof.Machine

def exec (i : Instr) (s : State) : Host.Outcome State Fault Refusal :=
  match i with
  | .load who b store => Sys2Proof.Machine.execLoad who b store s
  | .start who b store => Sys2Proof.Machine.execStart who b store s
  | .pause who b => Sys2Proof.Machine.execPause who b s
  | .resume who b => Sys2Proof.Machine.execResume who b s
  | .checkpoint who b => Sys2Proof.Machine.execCheckpoint who b s
  | .stop who b => Sys2Proof.Machine.execStop who b s
  | .batchWindow who b => Sys2Proof.Machine.execBatchWindow who b s
  | .bootBundleSubmit => Sys2Proof.Machine.execBootBundleSubmit s
  | .stepBoundary slot => Sys2Proof.Machine.execStepBoundary slot s
  | .g3Compat who v => Sys2Proof.Machine.execG3Compat who v s
  | .jadeMode who v => Sys2Proof.Machine.execJadeMode who v s
  | .nodeNumber who v => Sys2Proof.Machine.execNodeNumber who v s
  | .portEnable who p v => Sys2Proof.Machine.execPortEnable who p v s
  | .arrayState who c a v => Sys2Proof.Machine.execArrayState who c a v s
  | .coreState who c v => Sys2Proof.Machine.execCoreState who c v s
  | .solverState who k v => Sys2Proof.Machine.execSolverState who k v s
  | .engineState who e v => Sys2Proof.Machine.execEngineState who e v s
  | .channelState who n v => Sys2Proof.Machine.execChannelState who n v s
  | .recoveryTestDone u pass => Sys2Proof.Machine.execRecoveryTestDone u pass s
  | .stageSize who v => Sys2Proof.Machine.execStageSize who v s
  | .stageData who offset bytes => Sys2Proof.Machine.execStageData who offset bytes s
  | .dumpTrigger who v => Sys2Proof.Machine.execDumpTrigger who v s
  | .dumpComplete => Sys2Proof.Machine.execDumpComplete s
  | .sleepRequest who v => Sys2Proof.Machine.execSleepRequest who v s
  | .bootCommit who v => Sys2Proof.Machine.execBootCommit who v s
  | .bootCommitTimeout => Sys2Proof.Machine.execBootCommitTimeout s
  | .partitionEnable who v => Sys2Proof.Machine.execPartitionEnable who v s
  | .safeClear who v => Sys2Proof.Machine.execSafeClear who v s
  | .keyEnroll who bytes => Sys2Proof.Machine.execKeyEnroll who bytes s
  | .keyRevoke who bytes => Sys2Proof.Machine.execKeyRevoke who bytes s
  | .signingPolicy who v => Sys2Proof.Machine.execSigningPolicy who v s
  | .rollbackAdvance who v => Sys2Proof.Machine.execRollbackAdvance who v s
  | .nonce who bytes => Sys2Proof.Machine.execNonce who bytes s
  | .wdObject who slot field v => Sys2Proof.Machine.execWdObject who slot field v s
  | .dictionaryWrite who index sub ty offset bytes => Sys2Proof.Machine.execDictionaryWrite who index sub ty offset bytes s
  | .init t f => Sys2Proof.Machine.execInit t f s
  | .confirm t f => Sys2Proof.Machine.execConfirm t f s
  | .close t f => Sys2Proof.Machine.execClose t f s
  | .handshakeTimeout sid => Sys2Proof.Machine.execHandshakeTimeout sid s
  | .sessionTimeout sid => Sys2Proof.Machine.execSessionTimeout sid s
  | .dapRead t f => Sys2Proof.Machine.execDapRead t f s
  | .dapWrite t f => Sys2Proof.Machine.execDapWrite t f s
  | .writeMulti t f => Sys2Proof.Machine.execWriteMulti t f s
  | .subscribe t f => Sys2Proof.Machine.execSubscribe t f s
  | .unsubscribe t f => Sys2Proof.Machine.execUnsubscribe t f s
  | .eventAck t f => Sys2Proof.Machine.execEventAck t f s
  | .event sid subId => Sys2Proof.Machine.execEvent sid subId s
  | .eventResend sid subId => Sys2Proof.Machine.execEventResend sid subId s
  | .dapForward t f => Sys2Proof.Machine.execDapForward t f s
  | .h2pPoll slot => Sys2Proof.Machine.execH2pPoll slot s
  | .msixRaise => Sys2Proof.Machine.execMsixRaise s
  | .wload c a tag x => Sys2Proof.Machine.execWload c a tag x s
  | .stream c a tag x => Sys2Proof.Machine.execStream c a tag x s
  | .drain c a tag x => Sys2Proof.Machine.execDrain c a tag x s
  | .wloadComplete c a parity line => Sys2Proof.Machine.execWloadComplete c a parity s line
  | .streamComplete c a parity line => Sys2Proof.Machine.execStreamComplete c a parity s line
  | .drainComplete c a parity line => Sys2Proof.Machine.execDrainComplete c a parity s line
  | .selftestDue c a => Sys2Proof.Machine.execSelftestDue c a s
  | .selftestPass c a parity => Sys2Proof.Machine.execSelftestPass c a parity s
  | .selftestPassEnd c a signature => Sys2Proof.Machine.execSelftestPassEnd c a signature s
  | .arrayDrainBound c a => Sys2Proof.Machine.execArrayDrainBound c a s
  | .arrayDrainEnd c a => Sys2Proof.Machine.execArrayDrainEnd c a s
  | .vld c tag x => Sys2Proof.Machine.execVld c tag x s
  | .vst c tag x => Sys2Proof.Machine.execVst c tag x s
  | .mov c tag x => Sys2Proof.Machine.execMov c tag x s
  | .bcast c tag x => Sys2Proof.Machine.execBcast c tag x s
  | .add c tag x => Sys2Proof.Machine.execAdd c tag x s
  | .sub c tag x => Sys2Proof.Machine.execSub c tag x s
  | .mul c tag x => Sys2Proof.Machine.execMul c tag x s
  | .fma c tag x => Sys2Proof.Machine.execFma c tag x s
  | .min c tag x => Sys2Proof.Machine.execMin c tag x s
  | .max c tag x => Sys2Proof.Machine.execMax c tag x s
  | .abs c tag x => Sys2Proof.Machine.execAbs c tag x s
  | .neg c tag x => Sys2Proof.Machine.execNeg c tag x s
  | .and c tag x => Sys2Proof.Machine.execAnd c tag x s
  | .or c tag x => Sys2Proof.Machine.execOr c tag x s
  | .xor c tag x => Sys2Proof.Machine.execXor c tag x s
  | .shl c tag x => Sys2Proof.Machine.execShl c tag x s
  | .shr c tag x => Sys2Proof.Machine.execShr c tag x s
  | .rcp c tag x => Sys2Proof.Machine.execRcp c tag x s
  | .rsqrt c tag x => Sys2Proof.Machine.execRsqrt c tag x s
  | .sqrt c tag x => Sys2Proof.Machine.execSqrt c tag x s
  | .exp2 c tag x => Sys2Proof.Machine.execExp2 c tag x s
  | .log2 c tag x => Sys2Proof.Machine.execLog2 c tag x s
  | .tanh c tag x => Sys2Proof.Machine.execTanh c tag x s
  | .sigmoid c tag x => Sys2Proof.Machine.execSigmoid c tag x s
  | .silu c tag x => Sys2Proof.Machine.execSilu c tag x s
  | .gelu c tag x => Sys2Proof.Machine.execGelu c tag x s
  | .cmp c tag x => Sys2Proof.Machine.execCmp c tag x s
  | .sel c tag x => Sys2Proof.Machine.execSel c tag x s
  | .cmpp c tag x => Sys2Proof.Machine.execCmpp c tag x s
  | .pfirst c tag x => Sys2Proof.Machine.execPfirst c tag x s
  | .plogic c tag x => Sys2Proof.Machine.execPlogic c tag x s
  | .cvt c tag x => Sys2Proof.Machine.execCvt c tag x s
  | .cvtb c tag x => Sys2Proof.Machine.execCvtb c tag x s
  | .dcvb c tag x => Sys2Proof.Machine.execDcvb c tag x s
  | .red c tag x => Sys2Proof.Machine.execRed c tag x s
  | .xpose c tag x => Sys2Proof.Machine.execXpose c tag x s
  | .tperm c tag x => Sys2Proof.Machine.execTperm c tag x s
  | .cmpr c tag x => Sys2Proof.Machine.execCmpr c tag x s
  | .expd c tag x => Sys2Proof.Machine.execExpd c tag x s
  | .rand c tag x => Sys2Proof.Machine.execRand c tag x s
  | .veComplete c parity line => Sys2Proof.Machine.execVeComplete c parity s line
  | .veDrainBound c => Sys2Proof.Machine.execVeDrainBound c s
  | .solve c tag x => Sys2Proof.Machine.execSolve c tag x s
  | .copy c tag x => Sys2Proof.Machine.execCopy c tag x s
  | .prefetch c tag x => Sys2Proof.Machine.execPrefetch c tag x s
  | .rload c tag x => Sys2Proof.Machine.execRload c tag x s
  | .rstore c tag x => Sys2Proof.Machine.execRstore c tag x s
  | .ratomic c tag x => Sys2Proof.Machine.execRatomic c tag x s
  | .coll c tag x => Sys2Proof.Machine.execColl c tag x s
  | .cverify c tag x => Sys2Proof.Machine.execCverify c tag x s
  | .channelAcquire n => Sys2Proof.Machine.execChannelAcquire n s
  | .cverifyComplete n line => Sys2Proof.Machine.execCverifyComplete n s line
  | .wait c st tag x => Sys2Proof.Machine.execWait c st tag x s
  | .signal c st tag x => Sys2Proof.Machine.execSignal c st tag x s
  | .fence c st tag x => Sys2Proof.Machine.execFence c st tag x s
  | .fenceComplete c st => Sys2Proof.Machine.execFenceComplete c st s
  | .watchRegistration w obj target => Sys2Proof.Machine.execWatchRegistration w obj target s
  | .signalAdd obj amount unit => Sys2Proof.Machine.execSignalAdd obj amount unit s
  | .wake w => Sys2Proof.Machine.execWake w s
  | .waitExpiry w => Sys2Proof.Machine.execWaitExpiry w s
  | .cancel w => Sys2Proof.Machine.execCancel w s
  | .set obj value => Sys2Proof.Machine.execSet obj value s
  | .descriptorStart k line => Sys2Proof.Machine.execDescriptorStart k s line
  | .solverAssemblyDone k window => Sys2Proof.Machine.execSolverAssemblyDone k window s
  | .solverFactorDone k window => Sys2Proof.Machine.execSolverFactorDone k window s
  | .solverIteration k window => Sys2Proof.Machine.execSolverIteration k window s
  | .solverRefactDone k window => Sys2Proof.Machine.execSolverRefactDone k window s
  | .solverDelivery k pairDiffers window => Sys2Proof.Machine.execSolverDelivery k pairDiffers s window
  | .deadline k seq pairBehind pairDiffers => Sys2Proof.Machine.execDeadline k seq s pairBehind pairDiffers
  | .solverDrainBound k => Sys2Proof.Machine.execSolverDrainBound k s
  | .solverDrainEnd k => Sys2Proof.Machine.execSolverDrainEnd k s
  | .serviceCopySubmit e slot d => Sys2Proof.Machine.execServiceCopySubmit e slot d s
  | .ceCopy e q line => Sys2Proof.Machine.execCeCopy e q line s
  | .convert e q line => Sys2Proof.Machine.execConvert e q line s
  | .fill e q => Sys2Proof.Machine.execFill e q s
  | .copyComplete e q => Sys2Proof.Machine.execCopyComplete e q s
  | .granuleTaken e line => Sys2Proof.Machine.execGranuleTaken e s line
  | .ceDrainBound e => Sys2Proof.Machine.execCeDrainBound e s
  | .regionFill slot => Sys2Proof.Machine.execRegionFill slot s
  | .scrubRead h ecc => Sys2Proof.Machine.execScrubRead h ecc s
  | .sramScrub d found => Sys2Proof.Machine.execSramScrub d found s
  | .bypassEnter k => Sys2Proof.Machine.execBypassEnter k s
  | .bypassLeave k => Sys2Proof.Machine.execBypassLeave k s
  | .remoteLineExpiry k line => Sys2Proof.Machine.execRemoteLineExpiry k line s
  | .peerDetect p => Sys2Proof.Machine.execPeerDetect p s
  | .laneTrainingDone p lanes peerGletor3 peerLanes => Sys2Proof.Machine.execLaneTrainingDone p lanes peerGletor3 s peerLanes
  | .trainingTimeout p => Sys2Proof.Machine.execTrainingTimeout p s
  | .ident p h x => Sys2Proof.Machine.execIdent p h x s
  | .nak p h expected => Sys2Proof.Machine.execNak p h expected s
  | .audit p h entries => Sys2Proof.Machine.execAudit p h entries s
  | .auditFail p h entry => Sys2Proof.Machine.execAuditFail p h entry s
  | .resync p h next free => Sys2Proof.Machine.execResync p h next free s
  | .power p h v => Sys2Proof.Machine.execPower p h v s
  | .dataFlit p f => Sys2Proof.Machine.execDataFlit p f s
  | .idleFlit p f => Sys2Proof.Machine.execIdleFlit p f s
  | .flitSlot p => Sys2Proof.Machine.execFlitSlot p s
  | .ackTimer p => Sys2Proof.Machine.execAckTimer p s
  | .auditDue p => Sys2Proof.Machine.execAuditDue p s
  | .retrain p cause => Sys2Proof.Machine.execRetrain p cause s
  | .retrainTimeout p => Sys2Proof.Machine.execRetrainTimeout p s
  | .portDrainTimeout p => Sys2Proof.Machine.execPortDrainTimeout p s
  | .lsdbUpdate p rec cert => Sys2Proof.Machine.execLsdbUpdate p rec cert s
  | .routingRewrite => Sys2Proof.Machine.execRoutingRewrite s
  | .quorumSettle slot epochs => Sys2Proof.Machine.execQuorumSettle slot epochs s
  | .refclkLoss r input => Sys2Proof.Machine.execRefclkLoss r input s
  | .hostLinkTraining rate64 width => Sys2Proof.Machine.execHostLinkTraining rate64 width s
  | .perstN level => Sys2Proof.Machine.execPerstN level s
  | .read at_ m ecc => Sys2Proof.Machine.execRead at_ m ecc s
  | .write at_ m ecc => Sys2Proof.Machine.execWrite at_ m ecc s
  | .atomic at_ m ecc => Sys2Proof.Machine.execAtomic at_ m ecc s
  | .remoteSignal at_ m => Sys2Proof.Machine.execRemoteSignal at_ m s
  | .response at_ m => Sys2Proof.Machine.execResponse at_ m s
  | .retry at_ m => Sys2Proof.Machine.execRetry at_ m s
  | .rate at_ m => Sys2Proof.Machine.execRate at_ m s
  | .batch at_ dest src msgs => Sys2Proof.Machine.execBatch at_ dest src msgs s
  | .bulkWrite at_ m => Sys2Proof.Machine.execBulkWrite at_ m s
  | .bulkRead at_ m ecc => Sys2Proof.Machine.execBulkRead at_ m s ecc
  | .requestTimeout unit dest flow seq => Sys2Proof.Machine.execRequestTimeout unit dest flow seq s
  | .sequenceEntryExpiry r unit => Sys2Proof.Machine.execSequenceEntryExpiry r unit s
  | .coalesceWindow r line => Sys2Proof.Machine.execCoalesceWindow r line s
  | .hotWindow r => Sys2Proof.Machine.execHotWindow r s
  | .rateInterval dest line => Sys2Proof.Machine.execRateInterval dest line s
  | .rateHold dest line => Sys2Proof.Machine.execRateHold dest line s
  | .eaveWindow r dest => Sys2Proof.Machine.execEaveWindow r dest s
  | .collectiveStart at_ m => Sys2Proof.Machine.execCollectiveStart at_ m s
  | .go at_ m => Sys2Proof.Machine.execGo at_ m s
  | .lease at_ m => Sys2Proof.Machine.execLease at_ m s
  | .leaseReply at_ m => Sys2Proof.Machine.execLeaseReply at_ m s
  | .release at_ m => Sys2Proof.Machine.execRelease at_ m s
  | .grant at_ m => Sys2Proof.Machine.execGrant at_ m s
  | .data at_ m => Sys2Proof.Machine.execData at_ m s
  | .result at_ m => Sys2Proof.Machine.execResult at_ m s
  | .abort at_ m => Sys2Proof.Machine.execAbort at_ m s
  | .leaseIdle r jobId comm seq => Sys2Proof.Machine.execLeaseIdle r jobId comm seq s
  | .attach child resume jobId => Sys2Proof.Machine.execAttach child resume jobId s
  | .detach child jobId => Sys2Proof.Machine.execDetach child jobId s
  | .suspect reporter node jobId => Sys2Proof.Machine.execSuspect reporter node jobId s
  | .waiting parent jobId => Sys2Proof.Machine.execWaiting parent jobId s
  | .chunkArrival jobId k bytes => Sys2Proof.Machine.execChunkArrival jobId k bytes s
  | .gapTimeout jobId => Sys2Proof.Machine.execGapTimeout jobId s
  | .probe jobId anchor => Sys2Proof.Machine.execProbe jobId anchor s
  | .probeTimeout jobId node => Sys2Proof.Machine.execProbeTimeout jobId node s
  | .startTimeout jobId => Sys2Proof.Machine.execStartTimeout jobId s
  | .ready jobId node status => Sys2Proof.Machine.execReady jobId node status s
  | .run jobId => Sys2Proof.Machine.execRun jobId s
  | .shardLoadStart slot => Sys2Proof.Machine.execShardLoadStart slot s
  | .shardReadDone slot shard bytes digest => Sys2Proof.Machine.execShardReadDone slot shard bytes digest s
  | .checkpointBoundary slot part => Sys2Proof.Machine.execCheckpointBoundary slot part s
  | .checkpointWriteStep slot ok => Sys2Proof.Machine.execCheckpointWriteStep slot ok s
  | .commitTimeout slot => Sys2Proof.Machine.execCommitTimeout slot s
  | .trainingTotals slot => Sys2Proof.Machine.execTrainingTotals slot s
  | .memberTotals slot t => Sys2Proof.Machine.execMemberTotals slot t s
  | .decisionExpiry slot => Sys2Proof.Machine.execDecisionExpiry slot s
  | .stateVector slot step withheld vec => Sys2Proof.Machine.execStateVector slot step withheld vec s
  | .evaluation slot => Sys2Proof.Machine.execEvaluation slot s
  | .forwardTransfer slot => Sys2Proof.Machine.execForwardTransfer slot s
  | .returnTransfer slot => Sys2Proof.Machine.execReturnTransfer slot s
  | .inferenceBatchClose slot rows windowExpired => Sys2Proof.Machine.execInferenceBatchClose slot rows windowExpired s
  | .pgInHigh => Sys2Proof.Machine.execPgInHigh s
  | .railUp => Sys2Proof.Machine.execRailUp s
  | .inputOutOfRange vin => Sys2Proof.Machine.execInputOutOfRange vin s
  | .powerDown cause vin => Sys2Proof.Machine.execPowerDown cause vin s
  | .pkgResetNAssert => Sys2Proof.Machine.execPkgResetNAssert s
  | .resetRelease x => Sys2Proof.Machine.execResetRelease x s
  | .sensorReading r => Sys2Proof.Machine.execSensorReading r s
  | .stepDecision d averageOver => Sys2Proof.Machine.execStepDecision d averageOver s
  | .clusterPowerRamp => Sys2Proof.Machine.execClusterPowerRamp s
  | .bringupTestDone bit failed usable => Sys2Proof.Machine.execBringupTestDone bit failed usable s
  | .sleepEntryDone => Sys2Proof.Machine.execSleepEntryDone s
  | .wakeDone cycles => Sys2Proof.Machine.execWakeDone cycles s
  | .lockstepMismatch pair => Sys2Proof.Machine.execLockstepMismatch pair s
  | .pairRestartDone pair => Sys2Proof.Machine.execPairRestartDone pair s
  | .pairHeartbeat missed => Sys2Proof.Machine.execPairHeartbeat missed s
  | .buristHeartbeat => Sys2Proof.Machine.execBuristHeartbeat s
  | .buristHeartbeatTimeout => Sys2Proof.Machine.execBuristHeartbeatTimeout s
  | .watchdogSample slot => Sys2Proof.Machine.execWatchdogSample slot s
  | .clockMonitor fault reference => Sys2Proof.Machine.execClockMonitor fault reference s
  | .heartbeatSend => Sys2Proof.Machine.execHeartbeatSend s
  | .heartbeat at_ m => Sys2Proof.Machine.execHeartbeat at_ m s
  | .safeNotice at_ m => Sys2Proof.Machine.execSafeNotice at_ m s
  | .memberSilence slot node => Sys2Proof.Machine.execMemberSilence slot node s
  | .cpDrainBound c => Sys2Proof.Machine.execCpDrainBound c s
  | .channelDrainBound n => Sys2Proof.Machine.execChannelDrainBound n s
  | .hostLinkDown => Sys2Proof.Machine.execHostLinkDown s
  | .loadPacingWindow slot => Sys2Proof.Machine.execLoadPacingWindow slot s
  | .tapInstruction x => Sys2Proof.Machine.execTapInstruction x s

end Sys2Proof.Machine
end

