-- ==== Sys2Proof/Safety.lean ====
section
/-! DEFINITION. What statements call a sound state and a calm one: the canonical form of every sparse map, the relations between
pins, power stage and reset, and a package in which nothing waits. -/

namespace Sys2Proof.Machine

/-- Memory is in canonical form: offsets strictly rising, no byte listed that an unlisted offset reads as. -/
def Chip.memWf (s : Chip) : Bool := SMap.wf 0 s.mem

/-- The dictionary's words are in canonical form. -/
def Chip.regsWf (s : Chip) : Bool := s.regs.all (fun p => p.2 ≠ Objects.dflt p.1)

/-- An instruction the TAP may hold while PKG_RESET_N is high, R491. -/
def tapQuiet : TapOp → Bool
  | .bypass => true
  | .idcode => true
  | _ => false

/-- The power stage, reset and test port agree: at most five rails; the sequence runs only below five; the package runs only
with all rails up, its reset high and BYPASS or IDCODE in the TAP; a power-down that has not seen PG_IN low leaves at most the
always-on rail up and no sequence running (R444, R445, R485, R491). -/
def Plat.sound (p : Plat) : Bool :=
  decide (p.rails ≤ 5) && (!p.rising || decide (p.rails < 5))
    && (!p.running || (decide (p.rails = 5) && p.resetN && tapQuiet p.tap))
    && (!p.latched || (decide (p.rails ≤ 1) && !p.rising))

/-- The commands that act on pins, rails and test port whether or not the internal reset is released. -/
def pinRow : Instr → Bool
  | .pgInHigh => true
  | .railUp => true
  | .powerDown _ _ => true
  | .pkgResetNAssert => true
  | .resetRelease _ => true
  | .perstN _ => true
  | .tapInstruction _ => true
  | _ => false

/-- p0 is not stored: it reads as all ones in every core (R128). -/
def Chip.predsSound (s : Chip) : Bool := s.preds.all (fun e => e.1 % 16 ≠ 0)

/-- The command at the front answers a next state. -/
def State.stepsOn (s : State) : Prop := ∃ t, step s = .next t

/-- What every command of the running package does first: fresh free values, and what the last command sent is gone. -/
def Chip.fresh (s : Chip) : Chip := { s with out := [], free := s.free + 1 }

/-- The state with another chip. -/
def State.on (s : State) (h : Chip) : State := { s with chip := h }

/-- Nothing waits: no stream holds an entry, no accepted command waits to start, and no request is about to end. -/
def Chip.calm (s : Chip) : Bool := s.streams.all (fun e => e.2.held.isEmpty) && s.cmds.isEmpty && s.fab.undelivered.isEmpty

/-- The package runs and nothing waits. -/
def State.calm (s : State) : Bool := s.plat.running && s.chip.calm

end Sys2Proof.Machine
end

