-- ==== Sys2Proof/Certificates/Slice0/Obligations.lean ====
section
/-! DEFINITION. The statements for the provers. -/

section

open Sys2Proof Sys2Proof.Machine

/-! ## The queue and the part as a whole -/

/-- A step runs the command at the front of the queue on the rest; on an empty queue the block idles, which is the model's choice
(assumption 4). -/
def Obligations.StepRunsFrontCommand : Prop :=
  (∀ (c : Instr) (rest : List Instr) (s : State), s.pending = c :: rest → step s = exec c { s with pending := rest })
  ∧ (∀ s : State, s.pending = [] → step s = .next s)

/-- Whatever the command and the state, a command answers a next state; it leaves the queue to the step and never changes which
part the package is. -/
def Obligations.CommandsKeepQueueAndPart : Prop :=
  ∀ (c : Instr) (s : State), ∃ t, exec c s = .next t ∧ t.pending = s.pending ∧ t.plat.lf = s.plat.lf

/-- While the internal reset of R485 is held, no command but those of the pins changes anything, and a PERST_N edge changes the
pin alone. -/
def Obligations.ResetHoldsThePackage : Prop :=
  (∀ (c : Instr) (s : State), s.plat.running = false → pinRow c = false → exec c s = .next s)
  ∧ (∀ (level : Bool) (s : State), s.plat.running = false →
      exec (.perstN level) s = .next { s with plat := { s.plat with perstN := level } })

/-- Every step keeps the relations of power stage, reset and test port. -/
def Obligations.PowerStageInvariant : Prop :=
  ∀ s t : State, s.plat.sound = true → step s = .next t → t.plat.sound = true

/-- After reset the platform is sound, memory, dictionary and predicates are in canonical form, the queue is empty, and the
package runs in the safe state of R463 with no job, no session and nothing in flight. -/
def Obligations.ResetIsSound : Prop :=
  State.reset.plat.sound = true ∧ State.reset.chip.memWf = true ∧ State.reset.chip.regsWf = true
  ∧ State.reset.chip.predsSound = true ∧ State.reset.calm = true ∧ State.reset.pending = []
  ∧ State.reset.chip.jobs = [] ∧ State.reset.chip.dap.sessions = [] ∧ State.reset.chip.safe = true

/-! ## Power stage, reset and test port -/

/-- Power-up, R444: PG_IN high starts the sequence of a package that is not all up, rising or latched off; RAIL_UP raises one rail,
and the fifth ends the sequence; before it a release of PKG_RESET_N has no effect. Where their condition fails the commands change
nothing. -/
def Obligations.PowerUpSequence : Prop :=
  (∀ s : State, s.plat.rails < 5 → s.plat.rising = false → s.plat.latched = false →
      exec .pgInHigh s = .next { s with plat := { s.plat with pgIn := true, rising := true } })
  ∧ (∀ s : State, s.plat.rails = 5 ∨ s.plat.rising = true ∨ s.plat.latched = true → s.plat.rails ≤ 5 → exec .pgInHigh s = .next s)
  ∧ (∀ s : State, s.plat.rising = true → s.plat.rails < 5 →
      exec .railUp s = .next { s with plat := { s.plat with rails := s.plat.rails + 1, rising := decide (s.plat.rails + 1 < 5) } })
  ∧ (∀ s : State, s.plat.rising = false → exec .railUp s = .next s)
  ∧ (∀ (s : State) (x : Straps), s.plat.rails < 5 → exec (.resetRelease x) s = .next s)

/-- CAUSE of LAST_TRIP, R447. -/
def Sys2Proof.Claims.causeCode : TripCause → Byte
  | .thermal => 1
  | .undervoltage => 2
  | .overvoltage => 3
  | .pgIn => 4

/-- Power-down, R445 and R449: with at least 36 V at the input every rail but always-on goes off, jobs, sessions, log, memory and
the dictionary's words are lost, flash stays, LAST_TRIP records the cause, only the thermal cause asserts THERM_TRIP_N, and every
cause but a low PG_IN latches the package off. -/
def Obligations.PowerDownTrips : Prop :=
  ∀ (s : State) (cause : TripCause) (vin : U32), 1 < s.plat.rails → FVal.lt (f32 vin.toNat) (FVal.ofInt 36) = false →
    ∃ t, exec (.powerDown cause vin) s = .next t
      ∧ t.plat.rails = 1 ∧ t.plat.running = false ∧ t.plat.rising = false
      ∧ t.plat.latched = decide (cause ≠ .pgIn)
      ∧ t.plat.thermTrip = (decide (cause ≠ .pgIn) && (s.plat.thermTrip || decide (cause = .thermal)))
      ∧ t.chip.power.lastTrip.take 1 = [Sys2Proof.Claims.causeCode cause]
      ∧ t.chip.flash = s.chip.flash ∧ t.chip.jobs = [] ∧ t.chip.log = [] ∧ t.chip.mem = [] ∧ t.chip.dap = {}
      ∧ t.chip.regs = []

/-- A PKG_RESET_N assertion with all rails up resets everything but the always-on domain, LAST_TRIP, flash (R450) and the loss of
the 25 MHz reference (R462); below that it only moves the pin (R444). The test port (R491): while PKG_RESET_N is high any
instruction but BYPASS or IDCODE loads BYPASS; while it is low each of the eight instructions loads itself; a load disturbs
nothing else. -/
def Obligations.PkgResetAndTestPort : Prop :=
  (∀ s : State, s.plat.rails = 5 → exec .pkgResetNAssert s = .next { s with
      chip := { free := s.chip.free + 1, flash := s.chip.flash, power := { lastTrip := s.chip.power.lastTrip }
                mon := { refLost := s.chip.mon.refLost, clockFault := s.chip.mon.refLost } }
      plat := { s.plat with resetN := false, running := false } })
  ∧ (∀ s : State, s.plat.rails ≠ 5 → exec .pkgResetNAssert s = .next { s with plat := { s.plat with resetN := false } })
  ∧ (∀ (s : State) (x : TapOp), exec (.tapInstruction x) s = .next { s with plat := { s.plat with
      tap := if x = .idcode then .idcode else if s.plat.resetN || decide (x = .other) then .bypass else x } })

/-- The release of reset samples the straps (R450, R485): STRAPS and BOOT_SOURCE show them, MODE_G3 and BRIDGE_EN set their
objects, SAFE_EN or a GL4-432-LF enables the partition, the node number comes from flash, a boot from a session waits at
BOOT_PHASE 0, and the test port returns to BYPASS unless IDCODE is loaded (R491). -/
def Obligations.ResetReleaseSamplesStraps : Prop :=
  ∀ (s : State) (x : Straps), s.plat.rails = 5 → s.plat.running = false → x.bootSrc.val ≠ 0 → s.chip.flash.disabled = [] →
    s.chip.flash.node < 65536 →
    ∃ t, exec (.resetRelease x) s = .next t
      ∧ t.plat.running = true ∧ t.plat.resetN = true ∧ t.plat.straps = x
      ∧ t.plat.tap = (if s.plat.tap = .idcode then .idcode else .bypass)
      ∧ t.chip.reg 0x2300 5 = boolNat x.modeG3 + 2 * boolNat x.bridgeEn + 4 * boolNat x.safeEn + 8 * x.bootSrc.val
      ∧ t.chip.reg 0x2300 3 = x.bootSrc.val ∧ t.chip.reg 0x2300 4 = 0
      ∧ t.chip.g3 = x.modeG3 ∧ t.chip.reg 0x4010 1 = boolNat x.bridgeEn
      ∧ t.chip.partition = (s.plat.lf || x.safeEn) ∧ t.chip.node = s.chip.flash.node
      ∧ t.chip.flash = s.chip.flash ∧ t.chip.safe = true

/-! ## Sensors, throttling, bring-up and sleep -/

/-- A refresh of the sensors (R447): with no die at 105 °C the four meters and the junction temperatures show the reading; over
the power limit PEAK_EVENTS counts the entry into the peak state and every Slate die goes to THROTTLE_FLOOR at once (R448); with a
die at 105 °C the package powers down, THERM_TRIP_N asserts and LAST_TRIP names the first such die (R449). -/
def Obligations.SensorReadings : Prop :=
  (∀ (s : State) (r : Readings), s.plat.running = true → (∀ i, i < 7 → Chip.tjOf r.tj i < 1680) →
      ∃ t, exec (.sensorReading r) s = .next t
        ∧ t.chip.reg 0x2100 4 = r.vin.toNat ∧ t.chip.reg 0x2100 5 = r.iin.toNat ∧ t.chip.reg 0x2100 6 = r.pin.toNat
        ∧ t.chip.reg 0x2100 7 = r.energy.toNat ∧ (∀ i, i < 7 → t.chip.power.tj.getD i 0 = r.tj.getD i 0)
        ∧ t.plat = s.plat
        ∧ (r.overLimit20ms = true → s.chip.power.peak = false →
            t.chip.power.slateStep = List.replicate 4 (s.chip.reg 0x2100 3) ∧ bit (t.chip.reg 0x2100 9) 2 = true
            ∧ (s.chip.reg 0x2100 8 + 1 < 2 ^ 64 → t.chip.reg 0x2100 8 = s.chip.reg 0x2100 8 + 1)))
  ∧ (∀ (s : State) (r : Readings) (d : Nat), s.plat.running = true → s.plat.rails = 5 → d < 7 → 1680 ≤ Chip.tjOf r.tj d →
      (∀ i, i < d → Chip.tjOf r.tj i < 1680) → FVal.lt (f32 r.vin.toNat) (FVal.ofInt 36) = false →
      ∃ t, exec (.sensorReading r) s = .next t ∧ t.plat.thermTrip = true ∧ t.plat.running = false ∧ t.plat.rails = 1
        ∧ t.chip.power.lastTrip.take 4 = [1, BitVec.ofNat 8 d] ++ leBytes 2 (r.tj.getD d 0).toNat)

/-- The k that a step decision gives Slate die d under the table of R448. -/
def Sys2Proof.Claims.nextStep (s : Chip) (d : Nat) (averageOver : Bool) : Nat :=
  let tj := fun i => Chip.tjOf s.power.tj i
  let k := s.power.slateStep.getD d 16
  if s.power.peak || s.power.vinBand then s.reg 0x2100 3
  else if 1600 ≤ tj d ∨ 1600 ≤ tj 4 ∨ 1600 ≤ tj 5 ∨ 1600 ≤ tj 6 ∨ averageOver = true then max (k - 1) (s.reg 0x2100 3)
  else if tj d ≤ 1552 ∧ tj 4 ≤ 1552 ∧ tj 5 ≤ 1552 ∧ tj 6 ≤ 1552 then min (k + 1) 16 else k

/-- Throttling: input voltage outside 52 to 72 V but inside 48 to 75 V shows in VIN, sets THROTTLE_STATE bit 3, asserts ALERT_N
and holds every Slate die at THROTTLE_FLOOR (R443); a step decision moves its die as R448 says and no other die; a cluster ramp
moves the next cluster and nothing else (R446). -/
def Obligations.ThrottlingAndRamps : Prop :=
  (∀ (s : State) (vin : U32), s.plat.running = true → Chip.inputBand vin.toNat = true →
    ∃ t, exec (.inputOutOfRange vin) s = .next t
      ∧ t.chip.reg 0x2100 4 = vin.toNat ∧ bit (t.chip.reg 0x2100 9) 3 = true ∧ t.chip.alert = true
      ∧ t.chip.power.slateStep = List.replicate 4 (s.chip.reg 0x2100 3)
      ∧ t.plat = s.plat ∧ t.chip.mem = s.chip.mem ∧ t.chip.jobs = s.chip.jobs)
  ∧ (∀ (s : State) (d : DieId) (avg : Bool), s.plat.running = true → s.chip.power.slateStep.length = 4 →
      ∃ t, exec (.stepDecision d avg) s = .next t
        ∧ t.chip.power.slateStep = s.chip.power.slateStep.set d.val (Sys2Proof.Claims.nextStep s.chip d.val avg)
        ∧ bit (t.chip.reg 0x2100 9) 1 = avg ∧ bit (t.chip.reg 0x2100 9) 2 = s.chip.power.peak
        ∧ bit (t.chip.reg 0x2100 9) 3 = s.chip.power.vinBand ∧ t.chip.mem = s.chip.mem ∧ t.plat = s.plat)
  ∧ (∀ (s : State) (k : Nat) (up : Bool) (rest : List (Nat × Bool)), s.plat.running = true →
      s.chip.power.ramps = (k, up) :: rest →
      exec .clusterPowerRamp s = .next (s.on { s.chip.fresh with
        power := { s.chip.power with ramps := rest, clusterOn := SMap.set false s.chip.power.clusterOn k up } }))

/-- A test of bring-up without failed units ends (R454): its READY bit is set, or its FAILED bit where nothing is usable. When the
last bit of a package that is no bridge is settled with none failed, BOOT_PHASE becomes 3 and, with no cause and the reference
present, SAFE_STATE_N is released (R463). No commit within the boot ROM's bound: BOOT_SOURCE [7] is set, whatever flash holds; where
flash holds no image the package stays in BOOT_PHASE 0 with FAILED bit 0 set (R451). -/
def Obligations.BringupSettlesBits : Prop :=
  (∀ (s : State) (b : ReadyBit) (usable : Bool), s.plat.running = true → s.chip.reg 0x2300 4 = 2 →
      ∃ t, exec (.bringupTestDone b [] usable) s = .next t
        ∧ (usable = true → t.chip.reg 0x2300 1 = Nat.lor (s.chip.reg 0x2300 1) (2 ^ b.val) % 2 ^ 64
            ∧ t.chip.reg 0x2300 2 = s.chip.reg 0x2300 2)
        ∧ (usable = false → t.chip.reg 0x2300 2 = Nat.lor (s.chip.reg 0x2300 2) (2 ^ b.val) % 2 ^ 64
            ∧ t.chip.reg 0x2300 1 = s.chip.reg 0x2300 1)
        ∧ t.chip.mem = s.chip.mem ∧ t.chip.jobs = s.chip.jobs)
  ∧ (∀ (s : State), s.plat.running = true → s.chip.reg 0x2300 4 = 2 → s.chip.reg 0x4010 1 = 0 →
      s.chip.reg 0x2300 1 = 0x5FFFFF → s.chip.reg 0x2300 2 = 0 → s.chip.safe = true → s.chip.reg 0x7000 3 = 0 →
      s.chip.mon.refLost = false →
      ∃ t, exec (.bringupTestDone 23 [] true) s = .next t ∧ t.chip.reg 0x2300 4 = 3 ∧ t.chip.safe = false)
  ∧ (∀ s : State, s.plat.running = true → s.chip.reg 0x2300 4 = 0 → s.chip.reg 0x2300 3 % 4 ≠ 0 →
    ∃ t, exec .bootCommitTimeout s = .next t ∧ t.chip.reg 0x2300 3 = s.chip.reg 0x2300 3 % 128 + 128
      ∧ (s.chip.flash.image = [] → t.chip.reg 0x2300 4 = 0 ∧ bit (t.chip.reg 0x2300 2) 0 = true))

/-- The end of entry into Dormant (R457): HBM keeps every byte, local memory, tile registers, predicates and array storage are
lost (they read as after power-on: the model's choice, assumption 5), ENTRIES counts and SLEEP_STATE is 2. The end of a wake
(R458): SLEEP_STATE 0 and LAST_WAKE. -/
def Obligations.SleepAndWake : Prop :=
  (∀ s : State, s.plat.running = true → s.chip.reg 0x2200 2 = 1 → s.chip.reg 0x2200 1 = 1 → s.chip.cmds = [] →
      ∃ t, exec .sleepEntryDone s = .next t ∧ t.chip.reg 0x2200 2 = 2
        ∧ t.chip.reg 0x2200 3 = (s.chip.reg 0x2200 3 + 1) % 2 ^ 64
        ∧ (∀ a, a < hbmEnd → SMap.get 0 t.chip.mem a = SMap.get 0 s.chip.mem a)
        ∧ (∀ a, hbmEnd ≤ a → SMap.get 0 t.chip.mem a = 0)
        ∧ t.chip.tiles = [] ∧ t.chip.preds = [] ∧ t.chip.arrays = [])
  ∧ (∀ (s : State) (n : U32), s.calm = true → s.chip.reg 0x2200 2 = 3 →
      exec (.wakeDone n) s = .next (s.on ((s.chip.fresh.setReg 0x2200 2 0).setReg 0x2200 4 n.toNat)))

/-! ## Safety monitor -/

/-- What a detection of class k leaves in the monitor and the log (R462): its DETECTIONS entry one higher, and a record with its
code and the detecting unit. -/
def Sys2Proof.Claims.detected (s t : Chip) (k code unit : Nat) : Prop :=
  t.mon.detections = s.mon.detections.modify (k - 1) (· + 1)
  ∧ (t.log.head?.map (fun r => (r.code, r.source))) = some (code, unit)

/-- Lockstep pairs, R466: a mismatch in one pair while the other runs restarts it and asserts nothing; with no pair running and
the partition enabled SAFE_STATE_N asserts with class 5; a restart that succeeds returns the pair to service; a mismatch at the
third restart in a row ends it. Cross-heartbeats from both pairs clear the count of misses, one miss counts, and a second restarts
the pair. -/
def Obligations.LockstepPairs : Prop :=
  (∀ (s : State) (p : Fin 2), s.plat.running = true → s.chip.mon.pairState = [1, 1] →
      ∃ t, exec (.lockstepMismatch p) s = .next t ∧ t.chip.mon.pairState = [1, 1].set p.val 2
        ∧ Sys2Proof.Claims.detected s.chip t.chip 5 Code.checkMismatch (s.chip.pairUnit p.val) ∧ t.chip.safe = s.chip.safe)
  ∧ (∀ (s : State) (p : Fin 2), s.plat.running = true → s.chip.mon.pairState = [2, 2].set p.val 1 → s.chip.partition = true →
      s.chip.safe = false →
      ∃ t, exec (.lockstepMismatch p) s = .next t ∧ t.chip.mon.pairState = [2, 2] ∧ t.chip.safe = true
        ∧ t.chip.reg 0x7000 3 = 5)
  ∧ (∀ (s : State) (p : Fin 2), s.plat.running = true → s.chip.mon.pairState.length = 2 → s.chip.mon.pairFails.length = 2 →
      s.chip.mon.pairState.getD p.val 0 = 2 → s.chip.mon.pairFails.getD p.val 0 = 2 →
      ∃ t, exec (.lockstepMismatch p) s = .next t ∧ t.chip.mon.pairState.getD p.val 0 = 3)
  ∧ (∀ (s : State) (p : Fin 2), s.plat.running = true → s.chip.mon.pairState.getD p.val 0 = 2 →
      exec (.pairRestartDone p) s = .next (s.on { s.chip.fresh with mon := { s.chip.mon with
        pairState := s.chip.mon.pairState.set p.val 1, pairFails := s.chip.mon.pairFails.set p.val 0 } }))
  ∧ (∀ s : State, s.plat.running = true →
      exec (.pairHeartbeat none) s = .next (s.on { s.chip.fresh with mon := { s.chip.mon with pairMissed := [0, 0] } }))
  ∧ (∀ (s : State) (p : Fin 2), s.plat.running = true → s.chip.mon.pairState.getD p.val 0 = 1 →
      s.chip.mon.pairMissed.getD p.val 0 = 0 →
      exec (.pairHeartbeat (some p)) s = .next (s.on { s.chip.fresh with mon := { s.chip.mon with
        pairMissed := s.chip.mon.pairMissed.set p.val 1 } }))
  ∧ (∀ (s : State) (p : Fin 2), s.plat.running = true → s.chip.mon.pairState = [1, 1] → s.chip.mon.pairMissed.length = 2 →
      s.chip.mon.pairMissed.getD p.val 0 = 1 →
      ∃ t, exec (.pairHeartbeat (some p)) s = .next t ∧ t.chip.mon.pairState = [1, 1].set p.val 2
        ∧ t.chip.mon.pairMissed.getD p.val 0 = 0)

/-- Burist's heartbeat clocks, watchdogs and members (R462, R467): a heartbeat is noted; without one for the interval a class 6
detection, which with its reaction enabled enters the safe state; a clock fault is a class 8 detection that persists until it is
gone, and stays where the reference was lost; a read of an armed watchdog that equals the previous one is a class 7 detection
counted in WD_EXPIRIES, a read that differs is only remembered (R468); silence of another member is a class 11 detection (R469).
-/
def Obligations.MonitorDetections : Prop :=
  (∀ s : State, s.plat.running = true →
      exec .buristHeartbeat s = .next (s.on { s.chip.fresh with mon := { s.chip.mon with buristBeat := true } }))
  ∧ (∀ s : State, s.plat.running = true →
      ∃ t, exec .buristHeartbeatTimeout s = .next t ∧ t.chip.mon.buristBeat = false
        ∧ Sys2Proof.Claims.detected s.chip t.chip 6 Code.aliveStale s.chip.monitorUnit
        ∧ (s.chip.partition = true → bit (s.chip.reg 0x7000 5) 6 = true → s.chip.safe = false →
            t.chip.safe = true ∧ t.chip.reg 0x7000 3 = 6))
  ∧ (∀ (s : State) (ref : Bool), s.plat.running = true →
      ∃ t, exec (.clockMonitor true ref) s = .next t ∧ t.chip.mon.clockFault = true
        ∧ t.chip.mon.refLost = (s.chip.mon.refLost || ref)
        ∧ Sys2Proof.Claims.detected s.chip t.chip 8 Code.aliveStale s.chip.monitorUnit)
  ∧ (∀ (s : State) (ref : Bool), s.plat.running = true →
      exec (.clockMonitor false ref) s = .next (s.on { s.chip.fresh with
        mon := { s.chip.mon with clockFault := s.chip.mon.refLost } }))
  ∧ (∀ (s : State) (j : SlotId) (x : Job) (v : U64), s.plat.running = true → s.chip.job j.val = some x → x.wdArmed = true →
      s.chip.reg 0x7000 (16 * j.val + 0x11) ≠ 0xFFFF → s.chip.reg 0x7000 (16 * j.val + 0x12) ≠ 0 →
      (s.chip.obj (objOfRef (s.chip.reg 0x7000 (16 * j.val + 0x11)))).value = v →
      (x.wdLast = some v →
        ∃ t, exec (.watchdogSample j) s = .next t ∧ Sys2Proof.Claims.detected s.chip t.chip 7 Code.aliveStale s.chip.monitorUnit
          ∧ t.chip.reg 0x7000 (16 * j.val + 0x13) = (s.chip.reg 0x7000 (16 * j.val + 0x13) + 1) % 2 ^ 64)
      ∧ (x.wdLast ≠ some v →
        exec (.watchdogSample j) s = .next (s.on (s.chip.fresh.setJob j.val (some { x with wdLast := some v })))))
  ∧ (∀ (s : State) (j : SlotId) (x : Job) (n : U16), s.plat.running = true → s.chip.job j.val = some x →
      x.members.contains n.toNat = true → n.toNat ≠ s.chip.node →
      ∃ t, exec (.memberSilence j n) s = .next t
        ∧ Sys2Proof.Claims.detected s.chip t.chip 11 Code.aliveStale s.chip.monitorUnit)

/-- Safety-lane messages, R469: with the partition enabled HEARTBEAT_SEND numbers a message to each other member of every admitted
job, SEQ rising by one with each message to a node; a message for this package is accepted only with a greater SEQ than the last
from its sender; an accepted notice of a job both hold is a class 11 detection. -/
def Obligations.SafetyMessages : Prop :=
  (∀ s : State, s.plat.running = true → s.chip.partition = true →
      ∃ t, exec .heartbeatSend s = .next t
        ∧ ∀ n, SMap.get 0 t.chip.mon.txSeq n
            = SMap.get 0 s.chip.mon.txSeq n + BitVec.ofNat 32 (s.chip.safetyPeers.countP (fun p => p.1 = n)))
  ∧ (∀ (s : State) (a : Arrival) (m : SafetyMsg), s.plat.running = true → m.dest.toNat = s.chip.node →
      (SMap.get 0 s.chip.mon.rxSeq m.srcNode.toNat).toNat < m.seq.toNat →
      exec (.heartbeat a m) s = .next (s.on { s.chip.fresh with mon := { s.chip.mon with
        rxSeq := SMap.set 0 s.chip.mon.rxSeq m.srcNode.toNat m.seq } }))
  ∧ (∀ (s : State) (a : Arrival) (m : SafetyMsg), s.plat.running = true → m.dest.toNat = s.chip.node →
      m.seq.toNat ≤ (SMap.get 0 s.chip.mon.rxSeq m.srcNode.toNat).toNat →
      exec (.heartbeat a m) s = .next (s.on s.chip.fresh) ∧ exec (.safeNotice a m) s = .next (s.on s.chip.fresh))
  ∧ (∀ (s : State) (a : Arrival) (m : SafetyMsg), s.plat.running = true → m.dest.toNat = s.chip.node →
      (SMap.get 0 s.chip.mon.rxSeq m.srcNode.toNat).toNat < m.seq.toNat →
      (s.chip.sharedJob m.jobId m.srcNode.toNat).isSome = true →
      ∃ t, exec (.safeNotice a m) s = .next t ∧ SMap.get 0 t.chip.mon.rxSeq m.srcNode.toNat = m.seq
        ∧ Sys2Proof.Claims.detected s.chip t.chip 11 Code.aliveStale s.chip.monitorUnit)


/-! ## Streams of a core and the matrix arrays -/

/-- The stream that an entry of a core joins: MA0 and MA1 0 and 1, VE 2, CP 3 (R246). -/
def Sys2Proof.Claims.entryOf : Instr → Option (CoreId × StreamIx)
  | .wload c a _ _ => some (c, ⟨a.val, by omega⟩)
  | .stream c a _ _ => some (c, ⟨a.val, by omega⟩)
  | .drain c a _ _ => some (c, ⟨a.val, by omega⟩)
  | .vld c _ _ => some (c, 2)
  | .vst c _ _ => some (c, 2)
  | .mov c _ _ => some (c, 2)
  | .bcast c _ _ => some (c, 2)
  | .add c _ _ => some (c, 2)
  | .sub c _ _ => some (c, 2)
  | .mul c _ _ => some (c, 2)
  | .fma c _ _ => some (c, 2)
  | .min c _ _ => some (c, 2)
  | .max c _ _ => some (c, 2)
  | .abs c _ _ => some (c, 2)
  | .neg c _ _ => some (c, 2)
  | .and c _ _ => some (c, 2)
  | .or c _ _ => some (c, 2)
  | .xor c _ _ => some (c, 2)
  | .shl c _ _ => some (c, 2)
  | .shr c _ _ => some (c, 2)
  | .rcp c _ _ => some (c, 2)
  | .rsqrt c _ _ => some (c, 2)
  | .sqrt c _ _ => some (c, 2)
  | .exp2 c _ _ => some (c, 2)
  | .log2 c _ _ => some (c, 2)
  | .tanh c _ _ => some (c, 2)
  | .sigmoid c _ _ => some (c, 2)
  | .silu c _ _ => some (c, 2)
  | .gelu c _ _ => some (c, 2)
  | .cmp c _ _ => some (c, 2)
  | .sel c _ _ => some (c, 2)
  | .cmpp c _ _ => some (c, 2)
  | .pfirst c _ _ => some (c, 2)
  | .plogic c _ _ => some (c, 2)
  | .cvt c _ _ => some (c, 2)
  | .cvtb c _ _ => some (c, 2)
  | .dcvb c _ _ => some (c, 2)
  | .red c _ _ => some (c, 2)
  | .xpose c _ _ => some (c, 2)
  | .tperm c _ _ => some (c, 2)
  | .cmpr c _ _ => some (c, 2)
  | .expd c _ _ => some (c, 2)
  | .rand c _ _ => some (c, 2)
  | .solve c _ _ => some (c, 3)
  | .copy c _ _ => some (c, 3)
  | .prefetch c _ _ => some (c, 3)
  | .rload c _ _ => some (c, 3)
  | .rstore c _ _ => some (c, 3)
  | .ratomic c _ _ => some (c, 3)
  | .coll c _ _ => some (c, 3)
  | .cverify c _ _ => some (c, 3)
  | .wait c st _ _ => some (c, st)
  | .signal c st _ _ => some (c, st)
  | .fence c st _ _ => some (c, st)
  | _ => none

/-- Nothing holds the stream and no entry waits in it. -/
def Sys2Proof.Claims.streamOpen (s : Chip) (c st : Nat) : Bool := (s.stream c st).held.isEmpty && !s.streamHeld c st

/-- The package runs, the core is enabled, and the stream is open: an entry of the stream reaches the head at once. -/
def Sys2Proof.Claims.ready (s : State) (c : CoreId) (st : Nat) : Bool :=
  s.plat.running && decide (s.chip.coreState c = 1) && Sys2Proof.Claims.streamOpen s.chip c st

/-- Entries leave a stream in program order: one that arrives while an operation holds the stream, or while the stream is halted
or stopped, waits behind the others, and nothing else changes (R98, R250, R256, R259). -/
def Obligations.EntriesWaitInOrder : Prop :=
  ∀ (i : Instr) (c : CoreId) (st : StreamIx) (s : State), Sys2Proof.Claims.entryOf i = some (c, st) → s.plat.running = true →
    s.chip.coreState c ≠ 2 → s.chip.streamHeld c st = true →
    exec i s = .next (s.on (s.chip.fresh.updStream c st (fun y => { y with held := y.held ++ [i] })))

/-- A legal WLOAD at the head of its array's stream issues (R98, R103, R500): it fills the shadow plane only, with its operand
format, its tile geometry, the columns it loads (converted and rotated where the feeder does so) and zeros where it brings nothing;
active plane, accumulator, every other array, memory, tile registers and predicates stay. -/
def Obligations.WloadFillsShadow : Prop :=
  ∀ (s : State) (c : CoreId) (a : ArrId) (tag : EntryTag) (x : ArrayCmd), Sys2Proof.Claims.ready s c a = true →
    s.chip.arrayState c a = 1 → Chip.tagOk tag 1 4 = true → s.chip.checkWload c x = 0 → s.chip.wloadReady c a = true →
    ∃ t, exec (.wload c a tag x) s = .next t
      ∧ (t.chip.array c a).active = (s.chip.array c a).active ∧ (t.chip.array c a).acc = (s.chip.array c a).acc
      ∧ (t.chip.array c a).shadow.fmt = some x.opFormat.toNat
      ∧ ((t.chip.array c a).shadow.k, (t.chip.array c a).shadow.n)
          = geometry ((classOf x.opFormat.toNat).getD 0) (ArrayFlags.transpose x) s.chip.g3
      ∧ (let lines := (s.chip.fresh.sourceLines c x).1
         let cols := if ArrayFlags.transpose x then lines else transposeRows (0, 0) x.cols.toNat lines
         let k := if ArrayFlags.transpose x then x.cols.toNat else x.rows.toNat
         (t.chip.array c a).shadow.cells = padCells (t.chip.array c a).shadow.k (t.chip.array c a).shadow.n
            (if x.srcFormat = x.opFormat then cols
             else feedLines (Fmt.ofCode x.opFormat.toNat) x.coarseIn.toNat k (cols.map (fun l =>
               feedRotate x (t.chip.array c a).shadow.k (l.map (fun p => elemValue (Fmt.ofCode x.srcFormat.toNat) p.1)))))
         ∧ (t.chip.array c a).shadow.loadedK = k
         ∧ (t.chip.array c a).shadow.loadedN = if ArrayFlags.transpose x then x.rows.toNat else x.cols.toNat)
      ∧ ((t.chip.array c a).wload.map (fun r => (r.signalObj, r.index))) = some (x.signalObj.toNat, (s.chip.stream c a).count)
      ∧ (t.chip.stream c a).count = (s.chip.stream c a).count + 1 ∧ (t.chip.stream c a).held = []
      ∧ (∀ d b, d < 256 → b < 2 → (d, b) ≠ (c.val, a.val) → t.chip.array d b = s.chip.array d b)
      ∧ t.chip.mem = s.chip.mem ∧ t.chip.tiles = s.chip.tiles ∧ t.chip.preds = s.chip.preds

/-- A legal STREAM issues (R98, R103 to R106): with SWAP the two planes change places before its rows, without it they stay;
every accumulator value of its rows takes its tile result over the plane then active, in one word, or in two for the class that
accumulates in FP64, and every other word of the accumulator, every other array, memory, tile registers and predicates stay. -/
def Obligations.StreamAccumulates : Prop :=
  ∀ (s : State) (c : CoreId) (a : ArrId) (tag : EntryTag) (x : ArrayCmd) (cls : Nat), Sys2Proof.Claims.ready s c a = true →
    s.chip.arrayState c a = 1 → Chip.tagOk tag 1 4 = true → s.chip.checkStream c a x = 0 → s.chip.streamReady c a x = true →
    classOf x.opFormat.toNat = some cls → (s.chip.streamGeom (Chip.rowPlane (s.chip.array c a) x) x).2 ≤ 128 →
    ∃ t, exec (.stream c a tag x) s = .next t
      ∧ (let before := s.chip.array c a
         let after := t.chip.array c a
         let p := Chip.rowPlane before x
         let g := s.chip.streamGeom p x
         let rows := (s.chip.fresh.streamRows c x g.1).1
         let words := if cls = 4 then 2 else 1
         let at_ (cell : Nat × Nat) : Nat := words * (64 * cell.1 + cell.2)
         (if ArrayFlags.swap x then after.active = before.shadow ∧ after.shadow = before.active
          else after.active = before.active ∧ after.shadow = before.shadow)
         ∧ (∀ r j cell, r < x.rows.toNat → (SMap.number 0 (accCells x g.2 r))[j]? = some (j, cell) →
              SMap.getRange 0 after.acc (at_ cell) words = (List.range words).map (fun i => BitVec.ofNat 32 (FVal.code
                (if cls = 4 then fp64 else fp32) (tileResult cls (groupSize x.opFormat.toNat (p.fmt.getD x.opFormat.toNat)) (ArrayFlags.mode x) s.chip.g3 g.1
                  (rows.getD r ([], [], false)).1 (planeColumn p j) (rows.getD r ([], [], false)).2.1
                  (accRead before (decide (cls = 4)) cell)) / 2 ^ (32 * i))))
         ∧ (∀ w, (∀ r, r < x.rows.toNat → ∀ cell ∈ accCells x g.2 r, w < at_ cell ∨ at_ cell + words ≤ w) →
              SMap.get 0 after.acc w = SMap.get 0 before.acc w)
         ∧ (after.streams.getLast?.map (fun r => (r.signalObj, r.index))) = some (x.signalObj.toNat, (s.chip.stream c a).count))
      ∧ (∀ d b, d < 256 → b < 2 → (d, b) ≠ (c.val, a.val) → t.chip.array d b = s.chip.array d b)
      ∧ (t.chip.stream c a).held = [] ∧ t.chip.mem = s.chip.mem ∧ t.chip.tiles = s.chip.tiles ∧ t.chip.preds = s.chip.preds

/-- The converted plane of a DRAIN (R84 to R88, R104, R107): its accumulator values with bias and the steps of its conversion block,
divided by the coarse scale in use and rounded. -/
def Sys2Proof.Claims.drainPlane (h : Chip) (c : CoreId) (a : ArrId) (x : ArrayCmd) : Plane2 :=
  let cv := h.readConv (addrOff x.convAddr.toNat)
  let wide : Bool := x.srcFormat = 1
  let draw := h.streamDraws c a 2 (2 * c + a)
  convPlane cv.fmt
    (fun i j => if cv.round = 0 then .rne else if cv.round = 1 then .sr (draw (j % 128) i) else .rz) cv.sat x.cols.toNat
    ((List.range x.rows.toNat).map (fun r => (SMap.number 0 (accCells x x.cols.toNat r)).map (fun p =>
      cv.tOf (cv.coarseUsed FVal.zero) (cv.y3 (if wide then fp64 else fp32)
        ((h.readBias c cv x.colBase.toNat x.cols.toNat).2.1.getD p.1 FVal.zero) (accRead (h.array c a) wide p.2)))))

/-- The conversion block of a DRAIN is legal, and its destination, scale plane and bias are too (R84, R97). -/
def Sys2Proof.Claims.drainLegal (s : Chip) (c : CoreId) (x : ArrayCmd) : Prop :=
  let cv := s.readConv (addrOff x.convAddr.toNat)
  let rows := cv.fmt.paddedRows x.rows.toNat
  cv.ok false = true ∧ s.checkPlane c x rows (cv.fmt.rowBytes x.cols.toNat) = 0 ∧ s.checkScales c x cv.fmt rows x.cols.toNat = 0
    ∧ (s.readBias c cv x.colBase.toNat x.cols.toNat).1 = 0

/-- A legal DRAIN at the head issues (R98, R107, R499): with a legal conversion block it runs with that block in use, and a row
alone of an unscaled format lies at ADDR as converted; planes and accumulator stay, and of memory only the bytes of its
destination and scale planes, at the addresses that ADDR, ROW_STRIDE, SCALE_ADDR and SCALE_STRIDE give, and COARSE_OUT of the
block (R88) change. Stated without poisoned lines and guarded granules. -/
def Obligations.DrainFrame : Prop :=
  ∀ (s : State) (c : CoreId) (a : ArrId) (tag : EntryTag) (x : ArrayCmd), Sys2Proof.Claims.ready s c a = true →
    s.chip.arrayState c a = 1 → Chip.tagOk tag 1 4 = true → (s.chip.stream c a).claim = none →
    s.chip.checkDrain c x false = 0 → s.chip.drainReady c a = true → s.chip.poison = [] → s.chip.engines = [] →
    ∃ t, exec (.drain c a tag x) s = .next t
      ∧ (t.chip.stream c a).count = (s.chip.stream c a).count + 1 ∧ (t.chip.stream c a).held = []
      ∧ (t.chip.array c a).active = (s.chip.array c a).active ∧ (t.chip.array c a).shadow = (s.chip.array c a).shadow
      ∧ (t.chip.array c a).acc = (s.chip.array c a).acc
      ∧ (∀ r, (t.chip.array c a).drain = some r → r.index = (s.chip.stream c a).count ∧ r.signalObj = x.signalObj.toNat
          ∧ addrOff x.convAddr.toNat ∈ t.chip.convUse)
      ∧ (Sys2Proof.Claims.drainLegal s.chip c x → (t.chip.array c a).drain.isSome = true
          ∧ (let f := (s.chip.readConv (addrOff x.convAddr.toNat)).fmt
             x.rows = 1 → f.block = 0 → ArrayFlags.tile x = false →
             t.chip.readMem (addrOff x.addr.toNat) (f.rowBytes x.cols.toNat)
              = packCodes f.bits ((Sys2Proof.Claims.drainPlane s.chip.fresh c a x).codes.getD 0 [])))
      ∧ (∀ b, (b < addrOff x.convAddr.toNat + 16 ∨ addrOff x.convAddr.toNat + 20 ≤ b) → (∀ q ∈ Chip.planeRanges x (s.chip.readConv (addrOff x.convAddr.toNat)).fmt x.rows.toNat x.cols.toNat,
            b < q.1 ∨ q.1 + q.2 ≤ b) → SMap.get 0 t.chip.mem b = SMap.get 0 s.chip.mem b)
      ∧ (∀ d b, d < 256 → b < 2 → (d, b) ≠ (c.val, a.val) → t.chip.array d b = s.chip.array d b)
      ∧ t.chip.preds = s.chip.preds

/-- What a command of core c's stream st that ends with `code` leaves of its stream and of the signals (R99): the sticky
STREAM_STATUS, and its SIGNAL_OBJ signalled. -/
def Sys2Proof.Claims.ended (s t : Chip) (c : CoreId) (st code obj : Nat) : Prop :=
  (t.stream c st).status = Code.first (s.stream c st).status code
  ∧ (obj < 64 → t.posted = s.posted
      ++ [{ obj := 64 * c.val + obj, amount := 1, unit := BitVec.ofNat 32 (s.streamUnit c st), entry := none }])
  ∧ (64 ≤ obj → t.posted = s.posted)

/-- What the end of a conversion with OK writes of its conversion block b (R89, R499): AMAX_OUT where AMAX_EN says so, AMAX_REF in
COARSE_MODE 1, and no other byte of memory; the block is free. -/
def Sys2Proof.Claims.convEnds (s t : Chip) (b : Nat) (amax : FVal) : Prop :=
  let cv := s.readConv b
  b ∉ t.convUse
  ∧ (cv.amaxEn = true → t.readMem (b + 24) 4 = leBytes 4 (ru32 amax))
  ∧ (cv.coarseMode = 1 → t.readMem (b + 20) 4 = leBytes 4 (ru32 amax))
  ∧ (∀ a, (cv.amaxEn = true → a < b + 24 ∨ b + 28 ≤ a) → (cv.coarseMode = 1 → a < b + 20 ∨ b + 24 ≤ a) →
      SMap.get 0 t.mem a = SMap.get 0 s.mem a)

/-- Commands of an array complete (R99): a WLOAD, the oldest STREAM or a DRAIN leaves the array with its code and signals its
SIGNAL_OBJ; without a conversion block memory stays, and a DRAIN that ends with OK updates its block and frees it (R89, R499); a
parity error in the array's own storage drains it (R119). Stated with nothing that waits in a stream and no write at a guard. -/
def Obligations.ArrayCompletions : Prop :=
  (∀ (s : State) (c : CoreId) (a : ArrId) (r : ArrayRun), s.calm = true → s.chip.coreState c ≠ 2 →
      (s.chip.array c a).wload = some r →
      (r.status = 0 → exec (.wloadComplete c a .clean none) s = .next (s.on
        ((s.chip.fresh.setArray c a { s.chip.array c a with wload := none }).postOwn c a r.signalObj)))
      ∧ ∃ t, exec (.wloadComplete c a .clean none) s = .next t ∧ (t.chip.array c a).wload = none
        ∧ Sys2Proof.Claims.ended s.chip t.chip c a r.status r.signalObj ∧ t.chip.mem = s.chip.mem ∧ t.chip.tiles = s.chip.tiles)
  ∧ (∀ (s : State) (c : CoreId) (a : ArrId) (r : ArrayRun) (rest : List ArrayRun), s.calm = true → s.chip.coreState c ≠ 2 →
      (s.chip.array c a).streams = r :: rest →
      (r.status = 0 → exec (.streamComplete c a .clean none) s = .next (s.on
        ((s.chip.fresh.setArray c a { s.chip.array c a with streams := rest }).postOwn c a r.signalObj)))
      ∧ ∃ t, exec (.streamComplete c a .clean none) s = .next t ∧ (t.chip.array c a).streams = rest
        ∧ Sys2Proof.Claims.ended s.chip t.chip c a r.status r.signalObj ∧ t.chip.mem = s.chip.mem ∧ t.chip.tiles = s.chip.tiles)
  ∧ (∀ (s : State) (c : CoreId) (a : ArrId) (r : ArrayRun), s.calm = true → s.chip.coreState c ≠ 2 →
      (s.chip.array c a).drain = some r → s.chip.poison = [] → s.chip.engines = [] →
      (r.status = 0 → r.conv = none →
        exec (.drainComplete c a .clean none) s = .next (s.on
          ((s.chip.fresh.setArray c a { s.chip.array c a with drain := none }).postOwn c a r.signalObj)))
      ∧ ∃ t, exec (.drainComplete c a .clean none) s = .next t ∧ (t.chip.array c a).drain = none
        ∧ (t.chip.array c a).active = (s.chip.array c a).active ∧ (t.chip.array c a).acc = (s.chip.array c a).acc
        ∧ Sys2Proof.Claims.ended s.chip t.chip c a r.status r.signalObj
        ∧ (∀ b, r.conv = some b → r.status = 0 → Sys2Proof.Claims.convEnds s.chip t.chip b r.amax)
        ∧ (∀ b, r.conv = some b → r.status ≠ 0 → b ∉ t.chip.convUse ∧ t.chip.mem = s.chip.mem))
  ∧ (∀ (s : State) (c : CoreId) (a : ArrId) (r : ArrayRun) (rest : List ArrayRun), s.calm = true → s.chip.coreState c = 1 →
      s.chip.arrayState c a = 1 → (s.chip.array c a).streams = r :: rest → (s.chip.stream c a).status = 0 →
      ∃ t, exec (.streamComplete c a .array none) s = .next t ∧ t.chip.arrayState c a = 2
        ∧ (t.chip.stream c a).status = Code.uncorrectable ∧ (t.chip.array c a).streams = rest)

/-- Array self-test (R116, R471): while the partition is enabled a pass becomes due, and one still due takes the next command
boundary; it starts at a boundary only, there saves both planes, or drains the array on a parity error, and restores them at its
end; the signature of a healthy array enters the signature registers (their columns: the model's choice, log entry 93) and changes
nothing else; any other is a class 1 detection, and the array drains. -/
def Obligations.ArraySelftest : Prop :=
  (∀ (s : State) (c : CoreId) (a : ArrId), s.plat.running = true → s.chip.partition = true → s.chip.arrayState c a = 1 →
      ((s.chip.array c a).due = false →
        exec (.selftestDue c a) s = .next (s.on (s.chip.fresh.setArray c a { s.chip.array c a with due := true })))
      ∧ ((s.chip.array c a).due = true →
        exec (.selftestDue c a) s = .next (s.on (s.chip.fresh.setArray c a { s.chip.array c a with takeNext := true }))))
  ∧ (∀ (s : State) (c : CoreId) (a : ArrId) (parity : Bool), s.plat.running = true → s.chip.arrayIdle c a = false →
      exec (.selftestPass c a parity) s = .next (s.on s.chip.fresh))
  ∧ (∀ (s : State) (c : CoreId) (a : ArrId), s.plat.running = true → s.chip.arrayState c a = 1 → s.chip.arrayIdle c a = true →
      (s.chip.array c a).due = true → ((s.chip.stream c a).held = [] ∨ (s.chip.array c a).takeNext = true) →
      exec (.selftestPass c a false) s = .next (s.on (s.chip.fresh.setArray c a
        { s.chip.array c a with testing := some ((s.chip.array c a).active, (s.chip.array c a).shadow) })))
  ∧ (∀ (s : State) (c : CoreId) (a : ArrId), s.calm = true → s.chip.coreState c = 1 → s.chip.arrayState c a = 1 →
      s.chip.arrayIdle c a = true → (s.chip.array c a).due = true →
      ∃ t, exec (.selftestPass c a true) s = .next t ∧ t.chip.arrayState c a = 2 ∧ t.chip.mem = s.chip.mem)
  ∧ (∀ (s : State) (c : CoreId) (a : ArrId) (p q : Plane), s.calm = true → s.chip.coreState c ≠ 2 →
      (s.chip.array c a).testing = some (p, q) →
      exec (.selftestPassEnd c a Config.selftestSignature) s = .next (s.on (s.chip.fresh.setArray c a
        { s.chip.array c a with active := p, shadow := q, testing := none, due := false, takeNext := false
                                signature := Config.selftestSignature, columns := s.chip.fresh.free })))
  ∧ (∀ (s : State) (c : CoreId) (a : ArrId) (p q : Plane) (sig : U32), s.calm = true → s.chip.coreState c = 1 →
      s.chip.arrayState c a = 1 → (s.chip.array c a).testing = some (p, q) → sig ≠ Config.selftestSignature →
      ∃ t, exec (.selftestPassEnd c a sig) s = .next t ∧ t.chip.arrayState c a = 2
        ∧ t.chip.mon.detections = s.chip.mon.detections.modify 0 (· + 1) ∧ (t.chip.array c a).testing = none
        ∧ (t.chip.array c a).active = p ∧ (t.chip.array c a).shadow = q)

/-- The three array commands. -/
def Sys2Proof.Claims.arrayRows : List (CoreId → ArrId → EntryTag → ArrayCmd → Instr) := [.wload, .stream, .drain]

/-- Array commands at the head while their array is disabled or drains (R501, R118, R99): none executes, it completes with
UNIT_DISABLED or UNIT_DRAINING and signals its SIGNAL_OBJ; array, memory and registers stay. The end of draining (R118): at the
bound what still runs is aborted with UNIT_DISABLED; once nothing is in flight both planes and the accumulator are discarded, the
state becomes 0 and the disabled-unit map records the array. -/
def Obligations.ArrayDrains : Prop :=
  (∀ mk ∈ Sys2Proof.Claims.arrayRows, ∀ (s : State) (c : CoreId) (a : ArrId) (tag : EntryTag) (x : ArrayCmd) (code : Nat),
    Sys2Proof.Claims.ready s c a = true → (s.chip.stream c a).claim = none → (s.chip.stream c a).status = 0 →
    (s.chip.arrayState c a = 0 ∧ code = Code.unitDisabled ∨ s.chip.arrayState c a = 2 ∧ code = Code.unitDraining) →
    ∃ t, exec (mk c a tag x) s = .next t ∧ (t.chip.stream c a).status = code
      ∧ (t.chip.stream c a).count = (s.chip.stream c a).count + 1 ∧ (t.chip.stream c a).held = []
      ∧ (t.chip.log.head?.map (fun r => (r.code, r.source))) = some (code, s.chip.streamUnit c a)
      ∧ (x.signalObj.toNat < 64 → t.chip.posted = s.chip.posted
          ++ [{ obj := 64 * c.val + x.signalObj.toNat, amount := 1, unit := BitVec.ofNat 32 (s.chip.streamUnit c a), entry := none }])
      ∧ (64 ≤ x.signalObj.toNat → t.chip.posted = s.chip.posted)
      ∧ t.chip.arrays = s.chip.arrays ∧ t.chip.mem = s.chip.mem ∧ t.chip.tiles = s.chip.tiles ∧ t.chip.preds = s.chip.preds)
  ∧ (∀ (s : State) (c : CoreId) (a : ArrId), s.calm = true → s.chip.coreState c = 1 → s.chip.arrayState c a = 2 →
      ((s.chip.array c a).wload.isSome = true ∨ (s.chip.array c a).streams ≠ [] ∨ (s.chip.array c a).drain.isSome = true) →
      (s.chip.stream c a).status = 0 →
      ∃ t, exec (.arrayDrainBound c a) s = .next t ∧ (t.chip.array c a).wload = none ∧ (t.chip.array c a).streams = []
        ∧ (t.chip.array c a).drain = none ∧ (t.chip.stream c a).status = Code.unitDisabled)
  ∧ (∀ (s : State) (c : CoreId) (a : ArrId), s.calm = true → s.chip.coreState c = 1 → s.chip.arrayState c a = 2 →
      s.chip.arrayIdle c a = true →
      ∃ t, exec (.arrayDrainEnd c a) s = .next t ∧ t.chip.arrayState c a = 0
        ∧ (t.chip.array c a).active = {} ∧ (t.chip.array c a).shadow = {} ∧ (t.chip.array c a).acc = []
        ∧ UnitRef.array c a ∈ t.chip.flash.disabled ∧ t.chip.mem = s.chip.mem)

/-! ## The vector engine -/

/-- A VE instruction whose result is a group of elements written under the predicate and LIMIT: constructor, check of R126, width
of a result element, and the result codes. -/
structure Sys2Proof.Claims.VeForm where
  make : CoreId → EntryTag → VeInstr → Instr
  check : Chip → Nat → VeInstr → Nat
  width : VeInstr → Nat
  new : Chip → Nat → VeInstr → List Nat

/-- The elementwise forms with two sources A and B. -/
def Sys2Proof.Claims.twoForms : List Sys2Proof.Claims.VeForm :=
  [(Instr.add, VeClass.addMinMax, veAdd), (Instr.sub, .arith, veSub), (Instr.mul, .arith, veMul),
   (Instr.min, .addMinMax, veMin), (Instr.max, .addMinMax, veMax), (Instr.and, .logic, fun _ a b => Nat.land a b),
   (Instr.or, .logic, fun _ a b => Nat.lor a b), (Instr.xor, .logic, fun _ a b => Nat.xor a b),
   (Instr.shl, .logic, veShl), (Instr.shr, .logic, veShr)].map (fun e =>
    ⟨e.1, fun h c x => h.veCheck c x (veShape2 x e.2.1), fun x => veWidth x.elemFormat.toNat,
     fun h c x => List.zipWith (e.2.2 x.elemFormat.toNat) (h.veA c x) (h.veB c x)⟩)

/-- The functions of R133, with their operation codes. -/
def Sys2Proof.Claims.functionForms : List Sys2Proof.Claims.VeForm :=
  [(Instr.rcp, 0x20), (Instr.rsqrt, 0x21), (Instr.sqrt, 0x22), (Instr.exp2, 0x23), (Instr.log2, 0x24), (Instr.tanh, 0x25),
   (Instr.sigmoid, 0x26), (Instr.silu, 0x27), (Instr.gelu, 0x28)].map (fun e =>
    ⟨e.1, fun h c x => h.veFnCheck c e.2 x, fun x => veWidth x.elemFormat.toNat,
     fun h c x => (h.veA c x).map (veFunction e.2 x.elemFormat.toNat)⟩)

/-- The other forms that write a group of elements. -/
def Sys2Proof.Claims.groupForms : List Sys2Proof.Claims.VeForm :=
  let w := fun x : VeInstr => veWidth x.elemFormat.toNat
  [⟨Instr.mov, fun h c x => h.veCheck c x (veShape1 x .move), w, fun h c x => h.veA c x⟩,
   ⟨Instr.bcast, fun h c x => h.veCheck c x { cls := .move, dst := some (.grp x x.dst), auxOk := x.aux = 0 }, w,
    fun _ _ x => List.replicate (veCount x) (immCode x)⟩,
   ⟨Instr.fma, fun h c x => h.veCheck c x { veShape2 x .arith with srcs := veAB x ++ [.grp x x.srcC] }, w,
    fun h c x => ((h.veA c x).zip ((h.veB c x).zip (h.veC c x))).map (fun p => veFma x.elemFormat.toNat p.1 p.2.1 p.2.2)⟩,
   ⟨Instr.abs, fun h c x => h.veCheck c x (veShape1 x .arith), w, fun h c x => (h.veA c x).map (veAbs x.elemFormat.toNat)⟩,
   ⟨Instr.neg, fun h c x => h.veCheck c x (veShape1 x .arith), w, fun h c x => (h.veA c x).map (veNeg x.elemFormat.toNat)⟩,
   ⟨Instr.cmp, fun h c x => h.veCheck c x { cls := .compare, dst := some (.run x.dst (veCount x)), srcs := veAB x
                                            auxOk := decide (x.aux.toNat < 7) }, fun _ => 1,
    fun h c x => List.zipWith (fun a b => boolNat (veCompare x.elemFormat.toNat x.aux.toNat a b)) (h.veA c x) (h.veB c x)⟩,
   ⟨Instr.sel, fun h c x => h.veCheck c x { veShape2 x .select with srcs := veAB x ++ [maskRange x] }, w,
    fun h c x => ((h.veMask c x).zip ((h.veA c x).zip (h.veB c x))).map (fun p => if p.1 ≠ 0 then p.2.1 else p.2.2)⟩,
   ⟨Instr.cvt, fun h c x => h.veCheck c x
      { cls := .convert
        dst := some (if veWidth x.aux.toNat = veWidth x.elemFormat.toNat then .grp x x.dst
          else .run x.dst (veCount x * veWidth x.aux.toNat))
        srcs := [.grp x x.srcA], auxOk := veWidth x.aux.toNat ≠ 0 }, fun x => veWidth x.aux.toNat,
    fun h c x => (SMap.number 0 (h.veA c x)).map (fun p => convValue (Fmt.ofCode x.aux.toNat)
      (Chip.veRounding (VeField.round x) (h.streamDraws c 2 1 c) p.1) (VeField.sat x) (veValue x.elemFormat.toNat p.2))⟩,
   ⟨Instr.xpose, fun h c x => h.veCheck c x { veShape1 x .permute with apart := true }, w,
    fun h c x => (List.range (veCount x)).map (fun e =>
      (h.veA c x).getD (e % VeField.cols x * (veCount x / VeField.cols x) + e / VeField.cols x) 0)⟩,
   ⟨Instr.tperm, fun h c x => h.veCheck c x
      { cls := .permute, dst := some (.grp x x.dst)
        srcs := .grp x x.srcA :: (if VeField.immB x then [] else [.run x.srcB (veCount x)])
        auxOk := decide (x.aux.toNat ≤ 4), apart := true }, w,
    fun h c x => (if VeField.immB x then List.replicate (veCount x) (immCode x) else h.veRead c x.srcB.toNat 1 (veCount x)).map
      (fun i => ((h.veA c x).take (2 ^ (x.aux.toNat + 4))).getD (i % 2 ^ (x.aux.toNat + 4)) 0)⟩,
   ⟨Instr.rand, fun h c x => h.veCheck c x { cls := .random, dst := some (.grp x x.dst), auxOk := x.aux = 0 }, w,
    fun h c x => (List.range (veCount x)).map (fun e => Chip.randCode x.elemFormat.toNat (fun j =>
      h.streamDraws c 2 1 c (e % 256) (ceilDiv (veWidth x.elemFormat.toNat) 2 * (e / 256) + j)))⟩,
   ⟨Instr.vld, fun h c x => Code.first
      (h.veCheck c x { cls := .move, dst := some (.grp x x.dst), auxOk := x.aux = 0, usesStride := true, usesAddr := true })
      (h.checkOwn c x.addr.toNat (veSpan x)), w,
    fun h _ x => splitCodes (veWidth x.elemFormat.toNat) (veCount x) ((List.range (16 * VeField.g x)).flatMap (fun r =>
      (h.load (addrOff x.addr.toNat + r * veStride x) 512).1))⟩,
   ⟨Instr.dcvb, fun h c x =>
      let f := Fmt.ofCode x.aux.toNat
      let l := VeField.cols x
      Code.firstOf
        [h.veCheck c x { cls := .decode, dst := some (.grp x x.dst), srcs := [.run x.srcA (veCount x / l * f.rowBytes l)]
                         auxOk := Fmt.valid x.aux.toNat, extra := Chip.veBlockOk f x && Conv.coarseOk (x.imm.toNat / 2 ^ 32) },
         h.checkOwn c (Chip.dcvbScales x h) (f.scaleCount (veCount x / l) l)], w,
    fun h c x =>
      let f := Fmt.ofCode x.aux.toNat
      let l := VeField.cols x
      let sc := (h.load (addrOff (Chip.dcvbScales x h)) (f.scaleCount (veCount x / l) l)).1
      (List.range (veCount x / l)).flatMap (fun r =>
        (SMap.number 0 (unpackCodes f.bits (h.readTile c (8192 * x.srcA.toNat + r * f.rowBytes l) (f.rowBytes l)) l)).map (fun p =>
          convValue (Fmt.ofCode x.elemFormat.toNat)
            (if x.elemFormat = 0x02 then .rne else Chip.veRounding (VeField.round x) (h.streamDraws c 2 1 c) (r * l + p.1)) (VeField.sat x)
            (FVal.mul (scaledValue f p.2 ((sc.getD (f.blockOf l r p.1) 0).toNat)) (f32 (x.imm.toNat / 2 ^ 32)))))⟩]

def Sys2Proof.Claims.veForms : List Sys2Proof.Claims.VeForm :=
  Sys2Proof.Claims.twoForms ++ Sys2Proof.Claims.functionForms ++ Sys2Proof.Claims.groupForms

/-- The VE is free and its core's VE stream is open: the next legal instruction starts at once. -/
def Sys2Proof.Claims.veOpen (s : State) (c : CoreId) (tag : EntryTag) : Bool :=
  Sys2Proof.Claims.ready s c 2 && Chip.tagOk tag 1 3 && s.chip.veReady c

/-- The instruction has left its stream and occupies the VE, with its SIGNAL_OBJ and its index (R99, R127). -/
def Sys2Proof.Claims.veInFlight (s t : State) (c : CoreId) (x : VeInstr) : Prop :=
  (t.chip.ve c).map (fun r => (r.signalObj, r.index)) = [(x.signalObj.toNat, (s.chip.stream c 2).count)]
  ∧ (t.chip.stream c 2).count = (s.chip.stream c 2).count + 1 ∧ (t.chip.stream c 2).held = []

/-- A legal instruction that writes a register group (R122 to R140): the group holds the new element where the element is active
(predicate and LIMIT), and zero or the old element where it is not, by ZEROING (R130); every other byte of the tile registers of
every core, every predicate, and memory stay as they were. An element is active only if its predicate bit is 1 and, with LIMIT not
0, its index is below LIMIT (R129). -/
def Obligations.VeGroupResults : Prop :=
  ∀ f ∈ Sys2Proof.Claims.veForms, ∀ (s : State) (c : CoreId) (tag : EntryTag) (x : VeInstr),
    Sys2Proof.Claims.veOpen s c tag = true → f.check s.chip c x = 0 →
    (∀ e, e < veCount x → ((s.chip.veActive c x)[e]? = some true ↔
      ((x.pred = 0 ∨ (s.chip.pred c x.pred.toNat).getLsbD (e % VeField.cols x) = true)
        ∧ (x.limit.toNat ≠ 0 → e < x.limit.toNat))))
    ∧ ∃ t, exec (f.make c tag x) s = .next t
      ∧ (let w := f.width x
         let bs := joinCodes w (mergeElems (VeField.zeroing x) (s.chip.veActive c x)
           (s.chip.veRead c x.dst.toNat w (veCount x)) (f.new s.chip.fresh c x))
         t.chip.readTile c (8192 * x.dst.toNat) bs.length = bs
         ∧ (∀ b, (b < 2 ^ 19 * c.val + 8192 * x.dst.toNat ∨ 2 ^ 19 * c.val + 8192 * x.dst.toNat + bs.length ≤ b) →
              SMap.get 0 t.chip.tiles b = SMap.get 0 s.chip.tiles b))
      ∧ Sys2Proof.Claims.veInFlight s t c x
      ∧ t.chip.preds = s.chip.preds ∧ t.chip.mem = s.chip.mem ∧ t.chip.arrays = s.chip.arrays

/-- The predicate instructions (R128, R131): PFIRST sets bits 0 to IMM − 1, PLOGIC combines two predicates, CMPP gathers the mask
columns over the active elements; p0 still reads as all ones, and every other predicate, the tile registers and memory stay. -/
def Obligations.VePredicateResults : Prop :=
  let only := fun (s t : State) (c : CoreId) (p : Nat) =>
    (∀ d q, q < 16 → (d, q) ≠ (c.val, p) → t.chip.pred d q = s.chip.pred d q) ∧ t.chip.tiles = s.chip.tiles
      ∧ t.chip.mem = s.chip.mem
  (∀ (s : State) (c : CoreId) (tag : EntryTag) (x : VeInstr), Sys2Proof.Claims.veOpen s c tag = true →
      s.chip.veCheck c x { cls := .any, auxOk := x.aux = 0
                           extra := decide (0 < x.dst.toNat) && decide (x.dst.toNat < 16) && decide (x.imm.toNat ≤ 256) } = 0 →
      ∃ t, exec (.pfirst c tag x) s = .next t
        ∧ (∀ j, j < 256 → (t.chip.pred c x.dst.toNat).getLsbD j = decide (j < x.imm.toNat))
        ∧ only s t c x.dst.toNat ∧ Sys2Proof.Claims.veInFlight s t c x)
  ∧ (∀ (s : State) (c : CoreId) (tag : EntryTag) (x : VeInstr), Sys2Proof.Claims.veOpen s c tag = true →
      s.chip.veCheck c x { cls := .any, auxOk := decide (x.aux.toNat < 4)
                           extra := decide (0 < x.dst.toNat) && decide (x.dst.toNat < 16) && decide (x.srcA.toNat < 16)
                             && decide (x.srcB.toNat < 16) } = 0 →
      ∃ t, exec (.plogic c tag x) s = .next t
        ∧ t.chip.pred c x.dst.toNat = (let a := s.chip.pred c x.srcA.toNat
            let b := s.chip.pred c x.srcB.toNat
            if x.aux = 0 then a &&& b else if x.aux = 1 then a ||| b else if x.aux = 2 then a ^^^ b else a &&& ~~~b)
        ∧ only s t c x.dst.toNat ∧ Sys2Proof.Claims.veInFlight s t c x)
  ∧ (∀ (s : State) (c : CoreId) (tag : EntryTag) (x : VeInstr), Sys2Proof.Claims.veOpen s c tag = true →
      s.chip.veCheck c x { cls := .any, srcs := [maskRange x], auxOk := decide (x.aux.toNat < 2)
                           extra := decide (0 < x.dst.toNat) && decide (x.dst.toNat < 16) } = 0 →
      ∃ t, exec (.cmpp c tag x) s = .next t
        ∧ (∀ j, j < 256 → (t.chip.pred c x.dst.toNat).getLsbD j =
            (let l := VeField.cols x
             let col := (List.range (veCount x / l)).map (fun r => (s.chip.veActive c x).getD (r * l + j) false
               && decide ((s.chip.veMask c x).getD (r * l + j) 0 ≠ 0))
             decide (j < l) && (if x.aux = 0 then col.any id else col.all id)))
        ∧ only s t c x.dst.toNat ∧ Sys2Proof.Claims.veInFlight s t c x)

/-- The bytes a VST writes (R131): address and byte of each active element, or of every element with ZEROING, in element order. -/
def Sys2Proof.Claims.vstBytes (s : Chip) (c : Nat) (x : VeInstr) : List (Nat × Byte) :=
  let w := veWidth x.elemFormat.toNat
  (SMap.number 0 ((s.veActive c x).zip (s.veA c x))).flatMap (fun e =>
    if e.2.1 || VeField.zeroing x then
      (SMap.number (e.1 * w) (leBytes w (if e.2.1 then e.2.2 else 0))).map (fun b =>
        (addrOff x.addr.toNat + b.1 / 512 * veStride x + b.1 % 512, b.2))
    else [])

/-- Memory after a list of byte writes, in order. -/
def Sys2Proof.Claims.after (m : Nat → Byte) (ws : List (Nat × Byte)) : Nat → Byte :=
  ws.foldl (fun f p => fun a => if a = p.1 then p.2 else f a) m

/-- The instructions that write memory: a legal VST writes exactly the bytes of its active elements, row by row STRIDE apart
(R131); CMPR packs the selected elements or their flat indices into DST and zeroes the rest of the group, EXPD places elements of
A at the selected positions of DST, the others following ZEROING, and both write their count to the four bytes at ADDR (R137,
R138); no other byte of memory changes, and no predicate. RED writes its results from register DST on and no memory (R134). Every
tile byte outside the destination stays. Stated without poisoned lines and guarded granules. -/
def Obligations.VeMemoryResults : Prop :=
  let tilesElse := fun (s t : State) (c : CoreId) (x : VeInstr) (n : Nat) =>
    ∀ b, (b < 2 ^ 19 * c.val + 8192 * x.dst.toNat ∨ 2 ^ 19 * c.val + 8192 * x.dst.toNat + n ≤ b) →
      SMap.get 0 t.chip.tiles b = SMap.get 0 s.chip.tiles b
  (∀ (s : State) (c : CoreId) (tag : EntryTag) (x : VeInstr), Sys2Proof.Claims.veOpen s c tag = true →
      s.chip.poison = [] → s.chip.engines = [] →
      Code.first (s.chip.veCheck c x { cls := .move, srcs := [.grp x x.srcA], auxOk := x.aux = 0, usesStride := true
                                       usesAddr := true }) (s.chip.checkOwn c x.addr.toNat (veSpan x)) = 0 →
      ∃ t, exec (.vst c tag x) s = .next t
        ∧ (∀ a, SMap.get 0 t.chip.mem a
            = Sys2Proof.Claims.after (SMap.get 0 s.chip.mem) (Sys2Proof.Claims.vstBytes s.chip c x) a)
        ∧ t.chip.tiles = s.chip.tiles ∧ t.chip.preds = s.chip.preds ∧ Sys2Proof.Claims.veInFlight s t c x)
  ∧ (∀ (s : State) (c : CoreId) (tag : EntryTag) (x : VeInstr), Sys2Proof.Claims.veOpen s c tag = true →
      s.chip.poison = [] → s.chip.engines = [] →
      Code.first (s.chip.veCheck c x { cls := .select
                                       dst := some (if x.aux = 1 then .run x.dst (4 * veCount x) else .grp x x.dst)
                                       srcs := [.grp x x.srcA, maskRange x], auxOk := decide (x.aux.toNat < 2), usesAddr := true
                                       apart := true, extra := x.addr.toNat % 4 = 0 }) (s.chip.checkOwn c x.addr.toNat 4) = 0 →
      ∃ t, exec (.cmpr c tag x) s = .next t
        ∧ (let es := (SMap.number 0 ((s.chip.veActive c x).zip ((s.chip.veA c x).zip (s.chip.veMask c x)))).filter (fun p =>
             p.2.1 && p.2.2.2 ≠ 0)
           let w := if x.aux = 1 then 4 else veWidth x.elemFormat.toNat
           let n := roundUp (veCount x * w) 8192
           let bs := joinCodes w (es.map (fun p => if x.aux = 1 then p.1 else p.2.2.1))
           t.chip.readMem (addrOff x.addr.toNat) 4 = leBytes 4 es.length
           ∧ t.chip.readTile c (8192 * x.dst.toNat) n = bs ++ List.replicate (n - bs.length) 0
           ∧ tilesElse s t c x n)
        ∧ (∀ a, a < addrOff x.addr.toNat ∨ addrOff x.addr.toNat + 4 ≤ a → SMap.get 0 t.chip.mem a = SMap.get 0 s.chip.mem a)
        ∧ t.chip.preds = s.chip.preds ∧ Sys2Proof.Claims.veInFlight s t c x)
  ∧ (∀ (s : State) (c : CoreId) (tag : EntryTag) (x : VeInstr), Sys2Proof.Claims.veOpen s c tag = true →
      s.chip.poison = [] → s.chip.engines = [] →
      Code.first (s.chip.veCheck c x { cls := .select, dst := some (.grp x x.dst), srcs := [.grp x x.srcA, maskRange x]
                                       auxOk := x.aux = 0, usesAddr := true, apart := true, extra := x.addr.toNat % 4 = 0 })
        (s.chip.checkOwn c x.addr.toNat 4) = 0 →
      ∃ t, exec (.expd c tag x) s = .next t
        ∧ (let w := veWidth x.elemFormat.toNat
           let sel := List.zipWith (fun a m => a && m ≠ 0) (s.chip.veActive c x) (s.chip.veMask c x)
           t.chip.readMem (addrOff x.addr.toNat) 4 = leBytes 4 (sel.countP id)
           ∧ t.chip.readTile c (8192 * x.dst.toNat) (veCount x * w) = joinCodes w ((List.range (veCount x)).map (fun e =>
              if sel.getD e false then (s.chip.veA c x).getD ((sel.take e).countP id) 0
              else if VeField.zeroing x then 0 else (s.chip.veRead c x.dst.toNat w (veCount x)).getD e 0))
           ∧ tilesElse s t c x (veCount x * w))
        ∧ (∀ a, a < addrOff x.addr.toNat ∨ addrOff x.addr.toNat + 4 ≤ a → SMap.get 0 t.chip.mem a = SMap.get 0 s.chip.mem a)
        ∧ t.chip.preds = s.chip.preds ∧ Sys2Proof.Claims.veInFlight s t c x)
  ∧ (∀ (s : State) (c : CoreId) (tag : EntryTag) (x : VeInstr), Sys2Proof.Claims.veOpen s c tag = true →
      (let wa := veWidth (Chip.redFormat x.elemFormat.toNat)
       let n := if VeField.axis x then VeField.cols x else veCount x / VeField.cols x
       s.chip.veCheck c x { cls := .reduce, dst := some (.run x.dst (n * wa)), srcs := [.grp x x.srcA]
                            auxOk := decide (x.aux.toNat < 4), apart := true } = 0) →
      ∃ t, exec (.red c tag x) s = .next t
        ∧ (let bs := Chip.padRegs (joinCodes (veWidth (Chip.redFormat x.elemFormat.toNat)) (s.chip.redResults c x))
           t.chip.readTile c (8192 * x.dst.toNat) bs.length = bs ∧ tilesElse s t c x bs.length)
        ∧ t.chip.mem = s.chip.mem ∧ t.chip.preds = s.chip.preds ∧ Sys2Proof.Claims.veInFlight s t c x)

/-- Codes and scales of a CVTB (R85 to R89, R131): each active element scaled, clipped and divided by the coarse scale, an
inactive one as zero, then the blocks of the view converted. ROUND and SAT are those of FLAGS and of the conversion block; where
these differ, a constant that nothing constrains says which holds (the model's choice, log entry 96). -/
def Sys2Proof.Claims.cvtbPlane (h : Chip) (c : CoreId) (x : VeInstr) : Plane2 :=
  let cv := h.readConv (addrOff x.addr.toNat)
  let l := VeField.cols x
  let ts := List.zipWith (fun a v => cv.tOf (cv.coarseUsed FVal.zero)
    (if a then cv.y3 fp32 FVal.zero (veValue x.elemFormat.toNat v) else FVal.zero)) (h.veActive c x) (h.veA c x)
  convPlane cv.fmt
    (fun i j => Chip.veRounding (if cv.round = VeField.round x then cv.round else Chip.cvtbRound x cv) (h.streamDraws c 2 1 c) (i * l + j))
    (if cv.sat = VeField.sat x then cv.sat else Chip.cvtbSat x cv) l
    ((List.range (veCount x / l)).map (fun r => (ts.drop (r * l)).take l))

/-- A legal CVTB starts (R131, R499): its conversion block is in use; of memory only the scale plane at IMM changes, to the scales
of its blocks, and COARSE_OUT of the conversion block, to the coarse scale in use (R88); each row of DST holds the codes of its
active elements, and zero or the old code of the others; every other tile byte and every predicate stay. Stated without poisoned
lines and guarded granules. -/
def Obligations.VeBlockConversion : Prop :=
  ∀ (s : State) (c : CoreId) (tag : EntryTag) (x : VeInstr), Sys2Proof.Claims.veOpen s c tag = true →
    s.chip.poison = [] → s.chip.engines = [] → (s.chip.stream c 2).claim = none → s.chip.checkCvtb c x false = 0 →
    (let f := (s.chip.readConv (addrOff x.addr.toNat)).fmt
     let l := VeField.cols x
     let rows := veCount x / l
     let rb := f.rowBytes l
     let p := Sys2Proof.Claims.cvtbPlane s.chip.fresh c x
     ∃ t, exec (.cvtb c tag x) s = .next t ∧ addrOff x.addr.toNat ∈ t.chip.convUse
      ∧ t.chip.readMem (addrOff x.imm.toNat) (f.scaleCount rows l) = p.scales.map (BitVec.ofNat 8)
      ∧ (∀ a, (a < addrOff x.imm.toNat ∨ addrOff x.imm.toNat + f.scaleCount rows l ≤ a) →
          (a < addrOff x.addr.toNat + 16 ∨ addrOff x.addr.toNat + 20 ≤ a) → SMap.get 0 t.chip.mem a = SMap.get 0 s.chip.mem a)
      ∧ (let cv := s.chip.readConv (addrOff x.addr.toNat)
         let out := addrOff x.addr.toNat + 16
         cv.fmt.hasCoarse = true → cv.coarseMode ≠ 0 →
         (addrOff x.imm.toNat + f.scaleCount rows l ≤ out ∨ out + 4 ≤ addrOff x.imm.toNat) →
         t.chip.readMem out 4 = leBytes 4 (cv.coarseUsed FVal.zero))
      ∧ (∀ r, r < rows → t.chip.readTile c (8192 * x.dst.toNat + r * rb) rb = packCodes f.bits
          (mergeElems (VeField.zeroing x) (((s.chip.veActive c x).drop (r * l)).take l)
            (unpackCodes f.bits (s.chip.readTile c (8192 * x.dst.toNat + r * rb) rb) l) (p.codes.getD r [])))
      ∧ (∀ b, (b < 2 ^ 19 * c.val + 8192 * x.dst.toNat ∨ 2 ^ 19 * c.val + 8192 * x.dst.toNat + rows * rb ≤ b) →
          SMap.get 0 t.chip.tiles b = SMap.get 0 s.chip.tiles b)
      ∧ t.chip.preds = s.chip.preds ∧ Sys2Proof.Claims.veInFlight s t c x)

/-- Every VE instruction, by constructor. -/
def Sys2Proof.Claims.veRows : List (CoreId → EntryTag → VeInstr → Instr) :=
  Sys2Proof.Claims.veForms.map (fun f => f.make)
    ++ [.vst, .cmpp, .pfirst, .plogic, .cvtb, .red, .cmpr, .expd]

/-- What a VE instruction refused at the head of its stream leaves (R99, R126, R127, R144): it has left the stream without
executing, the first such code stays in STREAM_STATUS, the event log has it, and its SIGNAL_OBJ is signalled; registers, memory and
the VE stay. A wrong tag gives VALUE_OUT_OF_RANGE; a disabled core ends every instruction with UNIT_DISABLED. -/
def Obligations.VeRefusals : Prop :=
  ∀ mk ∈ Sys2Proof.Claims.veRows, ∀ (s : State) (c : CoreId) (tag : EntryTag) (x : VeInstr) (code : Nat),
    s.plat.running = true → (s.chip.stream c 2).held = [] → (s.chip.stream c 2).claim = none →
    s.chip.streamHeld c 2 = false → (s.chip.stream c 2).status = 0 →
    (s.chip.coreState c = 1 ∧ Chip.tagOk tag 1 3 = false ∧ code = Code.outOfRange
      ∨ s.chip.coreState c = 0 ∧ code = Code.unitDisabled) →
    ∃ t, exec (mk c tag x) s = .next t ∧ (t.chip.stream c 2).status = code
      ∧ (t.chip.stream c 2).count = (s.chip.stream c 2).count + 1 ∧ (t.chip.stream c 2).held = []
      ∧ (t.chip.log.head?.map (fun r => (r.code, r.source))) = some (code, s.chip.streamUnit c 2)
      ∧ (x.signalObj.toNat < 64 → t.chip.posted = s.chip.posted
          ++ [{ obj := 64 * c.val + x.signalObj.toNat, amount := 1, unit := BitVec.ofNat 32 (s.chip.streamUnit c 2), entry := none }])
      ∧ (64 ≤ x.signalObj.toNat → t.chip.posted = s.chip.posted)
      ∧ t.chip.mem = s.chip.mem ∧ t.chip.tiles = s.chip.tiles ∧ t.chip.preds = s.chip.preds ∧ t.chip.ves = s.chip.ves

/-- The running VE instruction completes (R99, R127): it leaves the VE with its code and signals its SIGNAL_OBJ, and nothing else
changes, but that a CVTB that ends with OK updates its conversion block and frees it (R89, R499); at the drain bound of its core
it is aborted with UNIT_DISABLED (R144). Stated with nothing that waits in a stream and no write at a guard. -/
def Obligations.VeCompletions : Prop :=
  (∀ (s : State) (c : CoreId) (r : VeRun) (rest : List VeRun), s.calm = true → s.chip.coreState c ≠ 2 →
      s.chip.ve c = r :: rest → s.chip.poison = [] → s.chip.engines = [] →
      (r.status = 0 → r.conv = none →
        exec (.veComplete c false none) s = .next (s.on ((s.chip.fresh.setVe c rest).postOwn c 2 r.signalObj)))
      ∧ ∃ t, exec (.veComplete c false none) s = .next t ∧ t.chip.ve c = rest
        ∧ Sys2Proof.Claims.ended s.chip t.chip c 2 r.status r.signalObj
        ∧ (∀ b, r.conv = some b → r.status = 0 → Sys2Proof.Claims.convEnds s.chip t.chip b r.amax)
        ∧ (∀ b, r.conv = some b → r.status ≠ 0 → b ∉ t.chip.convUse ∧ t.chip.mem = s.chip.mem)
        ∧ t.chip.tiles = s.chip.tiles ∧ t.chip.preds = s.chip.preds)
  ∧ (∀ (s : State) (c : CoreId) (r : VeRun), s.calm = true → s.chip.coreState c = 2 → s.chip.ve c = [r] →
      (s.chip.stream c 2).status = 0 →
      ∃ t, exec (.veDrainBound c) s = .next t ∧ t.chip.ve c = [] ∧ (t.chip.stream c 2).status = Code.unitDisabled)

/-! ## Synchronisation -/

/-- The registration that a WAIT of a stream sends (R251). -/
def Sys2Proof.Claims.registration (s : Chip) (c : CoreId) (st : StreamIx) (x : SyncOp) : Registration :=
  ⟨.stream c st, objOfRef x.obj.toNat, BitVec.ofNat 32 (s.streamUnit c st), x.operand, x.sflags.toNat, x.expiry⟩

/-- A legal WAIT, SIGNAL or FENCE at the head of its stream (R248 to R251, R259): the WAIT sends its registration and holds the
stream; the SIGNAL to the own node, where the update pass of a training job is not held back (R176), sends its amount and holds
the stream; the SIGNAL to another node that the checks of R249 and R310 admit, once the stream's earlier writes are visible, sends
a request with its amount and holds the stream, or ends with PEER_UNREACHABLE where no route takes it; a FENCE of scope CORE or
PACKAGE holds the stream, and one of scope FABRIC also closes its unit's epoch, with the code PEER_UNREACHABLE where a request of
the unit was lost (R328, R329). But for the remote SIGNAL nothing else changes. -/
def Obligations.SyncEntriesIssue : Prop :=
  (∀ (s : State) (c : CoreId) (st : StreamIx) (tag : EntryTag) (x : SyncOp), Sys2Proof.Claims.ready s c st = true →
      Chip.tagOk tag 2 2 = true → syncOk 1 x = true →
      exec (.wait c st tag x) s = .next (s.on { s.chip.fresh.updStream c st (fun y => { y with
          count := y.count + 1, waiting := some x, syncIndex := y.count }) with
        registrations := s.chip.registrations ++ [Sys2Proof.Claims.registration s.chip c st x] }))
  ∧ (∀ (s : State) (c : CoreId) (st : StreamIx) (tag : EntryTag) (x : SyncOp), Sys2Proof.Claims.ready s c st = true →
      Chip.tagOk tag 2 2 = true → syncOk 2 x = true → (x.node = 0xFFFF ∨ x.node.toNat = s.chip.node) →
      s.chip.stepHeld (s.chip.slotOfCore c) (objOfRef x.obj.toNat) = false →
      exec (.signal c st tag x) s = .next (s.on { s.chip.fresh.updStream c st (fun y => { y with
          count := y.count + 1, signalling := true, syncIndex := y.count }) with
        posted := s.chip.posted ++ [{ obj := objOfRef x.obj.toNat, amount := x.operand
                                      unit := BitVec.ofNat 32 (s.chip.streamUnit c st), entry := some (c, st) }] }))
  ∧ (∀ (s : State) (c : CoreId) (st : StreamIx) (tag : EntryTag) (x : SyncOp), Sys2Proof.Claims.ready s c st = true →
      Chip.tagOk tag 2 2 = true → syncOk 2 x = true → x.node ≠ 0xFFFF → x.node.toNat ≠ s.chip.node →
      s.chip.signalCode c x.node.toNat = 0 → s.chip.remoteRoom (s.chip.streamUnit c st) x.node.toNat = true →
      s.chip.streamQuiet c st = true → s.chip.usesEave x.node.toNat = false → s.chip.fab.undelivered = [] →
      ∃ t, exec (.signal c st tag x) s = .next t ∧ t.chip.objs = s.chip.objs ∧ t.chip.posted = s.chip.posted
        ∧ (t.chip.stream c st).count = (s.chip.stream c st).count + 1
        ∧ (((t.chip.stream c st).signalling = true ∧ (t.chip.stream c st).status = (s.chip.stream c st).status
            ∧ ∃ r, t.chip.fab.requests = s.chip.fab.requests ++ [r] ∧ r.unit = s.chip.streamUnit c st ∧ r.dest = x.node.toNat
              ∧ r.msg.mtype = 4 ∧ r.msg.operand = x.operand
              ∧ r.msg.address = BitVec.ofNat 64 (signalAddr x.node.toNat (objOfRef x.obj.toNat)))
          ∨ ((t.chip.stream c st).signalling = false
            ∧ (t.chip.stream c st).status = Code.first (s.chip.stream c st).status Code.peerUnreachable)))
  ∧ (∀ (s : State) (c : CoreId) (st : StreamIx) (tag : EntryTag) (x : SyncOp), Sys2Proof.Claims.ready s c st = true →
      Chip.tagOk tag 2 2 = true → syncOk 3 x = true → x.fenceScope.toNat ≠ 3 → s.chip.fab.undelivered = [] →
      exec (.fence c st tag x) s = .next (s.on (s.chip.fresh.updStream c st (fun y => { y with
        count := y.count + 1, fencing := some x.fenceScope.toNat, fenceIndex := y.count, fenceCode := 0 }))))
  ∧ (∀ (s : State) (c : CoreId) (st : StreamIx) (tag : EntryTag) (x : SyncOp), Sys2Proof.Claims.ready s c st = true →
      Chip.tagOk tag 2 2 = true → syncOk 3 x = true → x.fenceScope = 3 → s.chip.fab.undelivered = [] →
      (∀ r < 2, (s.chip.ridge r).batches = []) →
      ∃ t, exec (.fence c st tag x) s = .next t
        ∧ t.chip.issuer (s.chip.streamUnit c st) = (let i := s.chip.issuer (s.chip.streamUnit c st)
            { i with epoch := (i.epoch + 1) % 65536, lost := false })
        ∧ t.chip.stream c st = (let y := s.chip.stream c st
            { y with count := y.count + 1, fencing := some 3, fenceIndex := y.count
                     fenceCode := if (s.chip.issuer (s.chip.streamUnit c st)).lost then Code.peerUnreachable else 0 })
        ∧ t.chip.objs = s.chip.objs ∧ t.chip.mem = s.chip.mem ∧ t.chip.fab.requests = s.chip.fab.requests)

/-- A SIGNAL_ADD of no stream entry that its home applies, from a unit that may use the object and none of whose earlier writes is
on its way (R245, R247, R251, R253, R258): VALUE rises by the amount, LAST_SIGNALLER names the unit, SIGNAL_COUNT
rises by one, every watch whose target is reached leaves the list with a wake message, in list order, and the others stay. One
that would carry VALUE past 2^64 − 1 changes no object and is logged with VALUE_OUT_OF_RANGE. -/
def Obligations.SignalAddApplies : Prop :=
  ∀ (s : State) (ref : U16) (p : Posted) (rest : List Posted), s.calm = true → (∀ c : CoreId, s.chip.coreState c ≠ 2) →
    s.chip.posted = p :: rest → p.obj = objOfRef ref.toNat → p.entry = none → p.slot = 0xFF → p.after = [] →
    s.chip.stalledBy p.unit.toNat = false →
    s.chip.mayUse p.unit.toNat p.obj = true →
    ((s.chip.obj p.obj).value.toNat + p.amount.toNat < 2 ^ 64 →
      exec (.signalAdd ref p.amount p.unit) s = .next (s.on
        (let x := s.chip.obj p.obj
         let v := x.value + p.amount
         { s.chip.fresh.setObj p.obj { x with value := v, last := p.unit, count := x.count + 1
                                              watches := x.watches.filter (fun w => !decide (w.target.toNat ≤ v.toNat)) } with
           posted := rest
           wakes := s.chip.wakes ++ (x.watches.filter (fun w => decide (w.target.toNat ≤ v.toNat))).map (Chip.wakeOf p.obj) })))
    ∧ (2 ^ 64 ≤ (s.chip.obj p.obj).value.toNat + p.amount.toNat →
      ∃ t, exec (.signalAdd ref p.amount p.unit) s = .next t ∧ t.chip.objs = s.chip.objs ∧ t.chip.posted = rest
        ∧ t.chip.wakes = s.chip.wakes
        ∧ (t.chip.log.head?.map (fun r => (r.code, r.source))) = some (Code.outOfRange, p.unit.toNat))

/-- Registrations, wakes and cancels of streams (R250 to R256): a registration whose target is reached is answered by a wake
message at once, any other joins the end of the watch list; the wake ends the WAIT, and the stream's status stays; a WAIT with
expiry of a job that is not frozen sends one cancel when its time is over; a cancel that finds the watch removes it and ends the
WAIT with WATCH_EXPIRED, halting the stream under EXPIRY_ACTION 0 alone; one that finds none is discarded. -/
def Obligations.WatchesAndWakes : Prop :=
  (∀ (s : State) (c : CoreId) (st : StreamIx) (ref : U16) (r : Registration) (rest : List Registration), s.calm = true →
      s.chip.coreState c ≠ 2 → s.chip.registrations = r :: rest → r.waiter = .stream c st → r.obj = objOfRef ref.toNat →
      s.chip.mayUse r.unit.toNat r.obj = true →
      (r.target.toNat ≤ (s.chip.obj r.obj).value.toNat →
        exec (.watchRegistration (.stream c st) ref r.target) s = .next (s.on { s.chip.fresh with
          registrations := rest, wakes := s.chip.wakes ++ [r] }))
      ∧ ((s.chip.obj r.obj).value.toNat < r.target.toNat →
        exec (.watchRegistration (.stream c st) ref r.target) s = .next (s.on { s.chip.fresh.setObj r.obj
          { s.chip.obj r.obj with watches := (s.chip.obj r.obj).watches ++ [⟨r.waiter, r.unit, r.target, r.flags, r.remaining⟩] }
          with registrations := rest })))
  ∧ (∀ (s : State) (c : CoreId) (st : StreamIx) (r : Registration) (rest : List Registration) (x : SyncOp), s.calm = true →
      s.chip.coreState c ≠ 2 → s.chip.wakes = r :: rest → r.waiter = .stream c st → (s.chip.stream c st).waiting = some x →
      ∃ t, exec (.wake (.stream c st)) s = .next t ∧ (t.chip.stream c st).waiting = none ∧ t.chip.wakes = rest
        ∧ (t.chip.stream c st).status = (s.chip.stream c st).status ∧ t.chip.objs = s.chip.objs ∧ t.chip.mem = s.chip.mem)
  ∧ (∀ (s : State) (c : CoreId) (st : StreamIx) (x : SyncOp), s.plat.running = true → (s.chip.stream c st).waiting = some x →
      expiryEn x = true → s.chip.jobState (s.chip.slotOfCore c) ≠ 5 →
      Sys2Proof.Claims.registration s.chip c st x ∉ s.chip.cancels →
      exec (.waitExpiry (.stream c st)) s = .next (s.on { s.chip.fresh with
        cancels := s.chip.cancels ++ [Sys2Proof.Claims.registration s.chip c st x] }))
  ∧ (∀ (s : State) (c : CoreId) (st : StreamIx) (x : SyncOp), s.calm = true → s.chip.coreState c ≠ 2 →
      (s.chip.stream c st).waiting = some x → s.chip.cancels = [Sys2Proof.Claims.registration s.chip c st x] →
      s.chip.registrations = [] → (s.chip.stream c st).status = 0 →
      ((s.chip.obj (objOfRef x.obj.toNat)).watches.any (fun w => w.waiter = .stream c st && w.target = x.operand) = true →
        ∃ t, exec (.cancel (.stream c st)) s = .next t ∧ (t.chip.stream c st).waiting = none
          ∧ (t.chip.stream c st).status = Code.watchExpired ∧ t.chip.cancels = []
          ∧ (expiryGoesOn x = false → (t.chip.stream c st).halted = true)
          ∧ (expiryGoesOn x = true → (t.chip.stream c st).halted = (s.chip.stream c st).halted)
          ∧ (t.chip.obj (objOfRef x.obj.toNat)).value = (s.chip.obj (objOfRef x.obj.toNat)).value
          ∧ (t.chip.obj (objOfRef x.obj.toNat)).watches
              = (s.chip.obj (objOfRef x.obj.toNat)).watches.filter (fun w => !(w.waiter = .stream c st && w.target = x.operand)))
      ∧ ((s.chip.obj (objOfRef x.obj.toNat)).watches = [] →
        exec (.cancel (.stream c st)) s = .next (s.on { s.chip.fresh with cancels := [] })))

/-- A FENCE completes with its code once its stream's commands have completed, none of its writes waits at a guard, and, of scope
FABRIC, no request of its unit is uncompleted; one of scope FABRIC drops the cluster's remote lines (R258, R259, R317, R329). SET by
Burist writes VALUE and LAST_SIGNALLER only, while the object has no watch and its job does not run; in any other case it is refused
with STATE_CONFLICT and the object stays (R266). -/
def Obligations.FenceAndSet : Prop :=
  (∀ (s : State) (c : CoreId) (st : StreamIx) (k : Nat), s.calm = true → s.chip.coreState c ≠ 2 →
      (s.chip.stream c st).fencing = some k → s.chip.fenceDone c st k = true →
      exec (.fenceComplete c st) s = .next (s.on
        (let y := s.chip.stream c st
         let h := (s.chip.fresh.record c st y.fenceCode y.fenceIndex).updStream c st (fun y => { y with
           fencing := none, fenceCode := 0 })
         if k = 3 then h.dropLines (c.val / 4) else h)))
  ∧ (∀ (s : State) (ref : U16) (v : U64), s.plat.running = true → (s.chip.obj (objOfRef ref.toNat)).watches = [] →
      s.chip.jobBusy (s.chip.obj (objOfRef ref.toNat)).owner.toNat = false →
      exec (.set ref v) s = .next (s.on ((s.chip.fresh.setObj (objOfRef ref.toNat)
        { s.chip.obj (objOfRef ref.toNat) with value := v, last := BitVec.ofNat 32 s.chip.buristUnit }).emit (.answer 0 []))))
  ∧ (∀ (s : State) (ref : U16) (v : U64), s.plat.running = true →
      ((s.chip.obj (objOfRef ref.toNat)).watches ≠ [] ∨ s.chip.jobBusy (s.chip.obj (objOfRef ref.toNat)).owner.toNat = true) →
      exec (.set ref v) s = .next (s.on (s.chip.fresh.emit (.answer Code.stateConflict []))))

/-! ## The CP stream and what it hands on -/

/-- A request-lane message to node d can leave: into an open batch of the Eave gateway that has none yet, or by a live route
(R295, R297, R325). -/
def Sys2Proof.Claims.sendable (s : Chip) (d : Nat) : Bool :=
  if s.usesEave d then (s.ridge (d % 2)).batches.isEmpty else s.laneOpen 0 && (s.nextHop 0 s.node d none false).isSome

/-- A legal PREFETCH at the head of a CP stream (R228, R229, R495) arms its slot with the descriptor's fields under CTRL 1 and
disarms it under CTRL 0; nothing else changes but the stream's count of entries and the count of prefetched lines. -/
def Obligations.PrefetchArms : Prop :=
  ∀ (s : State) (c : CoreId) (tag : EntryTag) (x : CpEntry), Sys2Proof.Claims.ready s c 3 = true →
    Chip.tagOk tag 1 1 = true → x.opcode = 0x12 → x.reserved = 0 → x.target = 0 → s.chip.checkDesc c x.descAddr.toNat 32 32 = 0 →
    s.chip.poison = [] →
    (let b := s.chip.readMem (addrOff x.descAddr.toNat) 32
     let slot := field b 0 1
     let ctrl := field b 1 1
     let bytes := field b 4 4
     let base := field b 8 8
     let rows := field b 16 4
     let dist := field b 20 4
     let stride := field b 24 8
     slot < 16 → ctrl < 2 → field b 2 2 = 0 → 64 ≤ bytes → bytes ≤ 2 ^ 24 → bytes % 64 = 0 → addrClass base = 1 → base % 64 = 0 →
     addrOff base < hbmEnd → 1 ≤ rows → rows ≤ 2 ^ 24 → 4096 ≤ dist → dist ≤ 2 ^ 21 → dist % 4096 = 0 →
     (rows = 1 ∨ stride % 64 = 0) →
     s.chip.checkRange (s.chip.slotOfCore c) base (if rows = 1 then bytes else (rows - 1) * stride + bytes) true = 0 →
     exec (.prefetch c tag x) s = .next (s.on
       (let h := { s.chip.fresh.updStream c 3 (fun y => { y with count := y.count + 1 }) with
          prefetch := SMap.set none s.chip.prefetch (16 * (c.val / 4) + slot)
            (if ctrl = 1 then some ⟨bytes, base, rows, dist, stride, min dist (bytes * rows)⟩ else none) }
        if ctrl = 1 then h.bump 0x80D0 (c.val / 64 + 1) (min dist (bytes * rows) / 64) else h)))

/-- A legal remote command whose message can leave (R308 to R310, R313, R317): RLOAD, RSTORE and RATOMIC open one request of the CP
stream that carries the remote address, the size and data, or the operation with its operands; they have left the stream and are
not complete; memory, tile registers, predicates and signals stay. An RLOAD whose lines the cluster caches may complete from them
instead: it writes them to local memory and opens no request. -/
def Obligations.RemoteCommandsIssue : Prop :=
  ∀ (s : State) (c : CoreId) (tag : EntryTag) (x : RemoteCmd), Sys2Proof.Claims.ready s c 3 = true →
    Chip.tagOk tag 1 4 = true → s.chip.remoteRoom (s.chip.streamUnit c 3) (addrNode x.remote.toNat) = true →
    Sys2Proof.Claims.sendable s.chip.fresh (addrNode x.remote.toNat) = true → s.chip.fab.rates = [] → s.chip.poison = [] →
    s.chip.fab.undelivered = [] →
    (let issues (i : Instr) (open_ : List Request) (p : Msg → Prop) : Prop := ∃ t r, exec i s = .next t
        ∧ t.chip.fab.requests = open_ ++ [r]
        ∧ r.unit = s.chip.streamUnit c 3 ∧ r.dest = addrNode x.remote.toNat
        ∧ r.owner = .command c (s.chip.stream c 3).count x.signalObj.toNat (addrOff x.local_.toNat)
        ∧ r.msg.address = x.remote ∧ r.msg.parts.length = 1 ∧ p r.msg
        ∧ (t.chip.stream c 3).count = (s.chip.stream c 3).count + 1 ∧ (t.chip.stream c 3).held = []
        ∧ (t.chip.stream c 3).status = (s.chip.stream c 3).status
        ∧ t.chip.mem = s.chip.mem ∧ t.chip.tiles = s.chip.tiles ∧ t.chip.preds = s.chip.preds ∧ t.chip.posted = s.chip.posted
     let load : Prop := issues (.rload c tag x) s.chip.fab.requests (fun m => m.mtype = 1 ∧ m.length = x.size)
     (s.chip.remoteCode 0x20 c x = 0 → s.chip.cachedBytes (c.val / 4) x.remote.toNat x.size.toNat = none → load)
     ∧ (∀ bs, s.chip.remoteCode 0x20 c x = 0 → s.chip.cachedBytes (c.val / 4) x.remote.toNat x.size.toNat = some bs →
        s.chip.engines = [] →
        load ∨ ∃ t, exec (.rload c tag x) s = .next t ∧ t.chip.readMem (addrOff x.local_.toNat) x.size.toNat = bs
          ∧ t.chip.fab.requests = s.chip.fab.requests ∧ (t.chip.stream c 3).count = (s.chip.stream c 3).count + 1
          ∧ (t.chip.stream c 3).held = [] ∧ (t.chip.stream c 3).status = (s.chip.stream c 3).status)
     ∧ (s.chip.remoteCode 0x21 c x = 0 →
        issues (.rstore c tag x) (s.chip.dropRange (c.val / 4) x.remote.toNat x.size.toNat).fab.requests (fun m => m.mtype = 2
          ∧ m.length = x.size ∧ m.data = s.chip.readMem (addrOff x.local_.toNat) x.size.toNat))
     ∧ (s.chip.remoteCode 0x22 c x = 0 →
        issues (.ratomic c tag x) (s.chip.dropRange (c.val / 4) x.remote.toNat (atypeBytes x.atype.toNat)).fab.requests (fun m =>
          m.mtype = 3 ∧ m.aop = x.aop ∧ m.atype = x.atype
          ∧ m.operand.toNat = x.operand.toNat % 2 ^ (8 * atypeBytes x.atype.toNat))))

/-- Legal SOLVE, COPY and COLL at the head of a CP stream: SOLVE adds one entry to the queue of every member of the descriptor's
gang or pair and to no other (R181, R182, R206); COPY appends the descriptor to its engine's job queue and takes its conversion
block (R232, R234); COLL joins the collectives of its communicator under the next sequence number, and one without others begins
(R335, R337). Memory stays. While the unit's queue holds 8 descriptors, the engine's job queue 16, or the communicator four
collectives, the entry waits in its stream. -/
def Obligations.CpEntriesHandOn : Prop :=
  (∀ (s : State) (c : CoreId) (tag : EntryTag) (x : CpEntry), Sys2Proof.Claims.ready s c 3 = true →
    Chip.tagOk tag 1 1 = true → x.opcode = 0x10 → x.reserved = 0 → x.target.toNat < 64 →
    s.chip.checkDesc c x.descAddr.toNat 128 128 = 0 →
    (let k := x.target.toNat
     let d := SolveDesc.ofBytes (s.chip.readMem (addrOff x.descAddr.toNat) 128)
     (8 ≤ (s.chip.solver k).length → exec (.solve c tag x) s = .next (s.on (s.chip.fresh.updStream c 3 (fun y => { y with
        held := y.held ++ [.solve c tag x] }))))
     ∧ (s.chip.poison = [] → (s.chip.solver k).length < 8 → s.chip.fresh.acceptCode d k (s.chip.slotOfCore c) = 0 →
     ∃ t, exec (.solve c tag x) s = .next t
      ∧ (∀ m ∈ solveUnits d k, (t.chip.solver m).map (·.desc) = (s.chip.solver m).map (·.desc) ++ [d])
      ∧ (∀ m, m ∉ solveUnits d k → t.chip.solver m = s.chip.solver m)
      ∧ t.chip.mem = s.chip.mem ∧ (t.chip.stream c 3).held = [] ∧ (t.chip.stream c 3).status = (s.chip.stream c 3).status
      ∧ t.chip.posted = s.chip.posted)))
  ∧ (∀ (s : State) (c : CoreId) (tag : EntryTag) (x : CpEntry), Sys2Proof.Claims.ready s c 3 = true →
    Chip.tagOk tag 1 1 = true → x.opcode = 0x11 → x.reserved = 0 → s.chip.checkDesc c x.descAddr.toNat 128 128 = 0 →
    x.target.toNat < ((s.chip.job (s.chip.slotOfCore c)).map (fun j => j.res.engines)).getD 0 →
    (let e : EngineId := Fin.ofNat 128 (2 * (c.val / 4) + x.target.toNat)
     let d := CopyField.ofBytes (s.chip.readMem (addrOff x.descAddr.toNat) 128)
     (16 ≤ (s.chip.engine e).job.length → exec (.copy c tag x) s = .next (s.on (s.chip.fresh.updStream c 3 (fun y => { y with
        held := y.held ++ [.copy c tag x] }))))
     ∧ (s.chip.poison = [] → (s.chip.engine e).job.length < 16 → s.chip.copyCode e (s.chip.slotOfCore c) false d = 0 →
     ∃ t r, exec (.copy c tag x) s = .next t ∧ (t.chip.engine e).job = (s.chip.engine e).job ++ [r]
      ∧ (t.chip.engine e).service = (s.chip.engine e).service
      ∧ r.desc = d ∧ r.slot = s.chip.slotOfCore c ∧ r.from_ = some (c, (s.chip.stream c 3).count) ∧ r.started = false
      ∧ t.chip.convUse = s.chip.convUse ++ (if d.opcode = 2 then [addrOff d.convAddr.toNat] else [])
      ∧ t.chip.mem = s.chip.mem ∧ (t.chip.stream c 3).held = [] ∧ t.chip.posted = s.chip.posted)))
  ∧ (∀ (s : State) (c : CoreId) (tag : EntryTag) (x : CollCmd) (j : Job) (cm : Comm), Sys2Proof.Claims.ready s c 3 = true →
    Chip.tagOk tag 1 4 = true → s.chip.job (s.chip.slotOfCore c) = some j →
    j.comms.find? (fun m => m.comm = x.comm.toNat) = some cm → s.chip.collCode c (some cm) x = 0 →
    (let others := s.chip.fab.colls.filter (fun r => r.jobId = j.jobId && r.comm = x.comm.toNat)
     (4 ≤ others.length → exec (.coll c tag x) s = .next (s.on (s.chip.fresh.updStream c 3 (fun y => { y with
        held := y.held ++ [.coll c tag x] }))))
     ∧ (others = [] → s.chip.fab.inbox = [] →
      (cm.members.headD s.chip.node ≠ s.chip.node ∨ (s.chip.fab.starts = [] ∧ ∃ m ∈ cm.members, m ≠ s.chip.node)) →
      ∃ t r, exec (.coll c tag x) s = .next t ∧ t.chip.fab.colls = s.chip.fab.colls ++ [r] ∧ r.begun = true ∧ r.going = false
      ∧ r.cmd = x ∧ r.jobId = j.jobId ∧ r.comm = x.comm.toNat
      ∧ r.seq = SMap.get 0 s.chip.fab.collSeq (256 * s.chip.slotOfCore c + x.comm.toNat)
      ∧ SMap.get 0 t.chip.fab.collSeq (256 * s.chip.slotOfCore c + x.comm.toNat) = r.seq + 1
      ∧ t.chip.mem = s.chip.mem ∧ (t.chip.stream c 3).held = [] ∧ t.chip.posted = s.chip.posted)))

/-- Outcome and COMPUTED_CHECK of a verification whose data can be read: a record that is not valid or carries another ALIVE is
stale; a record of another length or check value is a mismatch (R365, R506). -/
def Sys2Proof.Claims.verdictOf (s : Chip) (x : CverifyCmd) (r : CheckRec) : Nat × Nat :=
  if r.valid = false ∨ r.alive ≠ x.expectedAlive.toNat then (Code.aliveStale, 0)
  else if r.length ≠ x.dataBytes.toNat + x.scaleBytes.toNat then (Code.checkMismatch, 0)
  else
    let v := Chip.checkOf r.poly x.expectedAlive.toNat (s.readMem (addrOff x.dataAddr.toNat) x.dataBytes.toNat
      ++ (if x.scaleBytes = 0 then [] else s.readMem (addrOff x.scaleAddr.toNat) x.scaleBytes.toNat))
    (if v = r.check then 0 else Code.checkMismatch, v)

/-- Verification (R357, R364 to R366, R371, R505): a legal CVERIFY takes a free channel and reads its record once, holding its
stream; it waits for a channel that is in use or that others wait for; CHANNEL_ACQUIRE passes a freed channel to the operation
that asked first, a verification or a copy; CVERIFY_COMPLETE of data that can be read frees the stream, writes the verdict at
VERDICT_ADDR and nowhere else, and keeps a failed one in LAST_FAIL. -/
def Obligations.Verification : Prop :=
  (∀ (s : State) (c : CoreId) (tag : EntryTag) (x : CverifyCmd), Sys2Proof.Claims.ready s c 3 = true →
    Chip.tagOk tag 1 4 = true → s.chip.verifyCode c x = 0 → s.chip.channelState x.channel.toNat = 1 →
    ∃ t, exec (.cverify c tag x) s = .next t ∧ (t.chip.stream c 3).count = (s.chip.stream c 3).count + 1
      ∧ (t.chip.stream c 3).held = [] ∧ t.chip.mem = s.chip.mem ∧ t.chip.posted = s.chip.posted
      ∧ ((s.chip.chan x.channel.toNat).busy = none → (s.chip.chan x.channel.toNat).waiting = [] →
          (t.chip.chan x.channel.toNat).busy = some (.verify c)
          ∧ (t.chip.stream c 3).verify = some (x, (s.chip.stream c 3).count, some
              (if x.expectedAlive.toNat % 2 = 0 then (s.chip.chan x.recChannel.toNat).slot0
               else (s.chip.chan x.recChannel.toNat).slot1)))
      ∧ ((s.chip.chan x.channel.toNat).busy ≠ none ∨ (s.chip.chan x.channel.toNat).waiting ≠ [] →
          (t.chip.chan x.channel.toNat).waiting = (s.chip.chan x.channel.toNat).waiting ++ [.verify c]
          ∧ (t.chip.stream c 3).verify = some (x, (s.chip.stream c 3).count, none)))
  ∧ (∀ (s : State) (n : ChanId) (c : CoreId) (rest : List ChanUser) (x : CverifyCmd) (ix : Nat), s.calm = true →
    (s.chip.chan n).busy = none → s.chip.channelState n = 1 → (s.chip.chan n).waiting = .verify c :: rest →
    (s.chip.stream c 3).verify = some (x, ix, none) →
    ∃ t, exec (.channelAcquire n) s = .next t ∧ (t.chip.chan n).busy = some (.verify c) ∧ (t.chip.chan n).waiting = rest
      ∧ ((t.chip.stream c 3).verify.bind (fun v => v.2.2)).isSome = true ∧ t.chip.mem = s.chip.mem)
  ∧ (∀ (s : State) (n : ChanId) (e : EngineId) (q : EngineQueue) (rest : List ChanUser) (r : CopyRun), s.calm = true →
    (s.chip.chan n).busy = none → s.chip.channelState n = 1 → (s.chip.chan n).waiting = .copy e q :: rest →
    s.chip.copyFront e q = some r →
    ∃ t r', exec (.channelAcquire n) s = .next t ∧ (t.chip.chan n).busy = some (.copy e q) ∧ (t.chip.chan n).waiting = rest
      ∧ t.chip.copyFront e q = some r' ∧ r'.desc = r.desc ∧ r'.started = true ∧ r'.holds = true)
  ∧ (∀ (s : State) (n : ChanId) (c : CoreId) (x : CverifyCmd) (ix : Nat) (r : CheckRec), s.calm = true →
    (s.chip.chan n).busy = some (.verify c) → s.chip.channelState n = 1 → (s.chip.stream c 3).verify = some (x, ix, some r) →
    s.chip.verdictOk c x = true → s.chip.poison = [] → s.chip.engines = [] →
    (let o := Sys2Proof.Claims.verdictOf s.chip x r
     let v := Chip.verdict x o.1 r.alive o.2
     ∃ t, exec (.cverifyComplete n none) s = .next t ∧ (t.chip.stream c 3).verify = none ∧ (t.chip.chan n).busy = none
      ∧ t.chip.readMem (addrOff x.verdictAddr.toNat) 32 = v
      ∧ (∀ a, a < addrOff x.verdictAddr.toNat ∨ addrOff x.verdictAddr.toNat + 32 ≤ a →
          SMap.get 0 t.chip.mem a = SMap.get 0 s.chip.mem a)
      ∧ (t.chip.stream c 3).status = Code.first (s.chip.stream c 3).status o.1
      ∧ (t.chip.chan n).lastFail = (if o.1 = 0 then (s.chip.chan n).lastFail else v)
      ∧ t.chip.reg (0x7100 + n.val) 5 = (s.chip.reg (0x7100 + n.val) 5 + 1) % 2 ^ 64
      ∧ t.chip.tiles = s.chip.tiles ∧ t.chip.preds = s.chip.preds))

/-! ## Solver units -/

/-- The descriptor in front of unit k, which leads it; no other descriptor of the queue has its ticket. -/
def Sys2Proof.Claims.front (s : Chip) (k : ClusterId) (r : SolveRun) (rest : List SolveRun) : Prop :=
  s.solver k = r :: rest ∧ r.lead = k.val ∧ (∀ q ∈ rest, q.ticket ≠ r.ticket) ∧ s.solverState k = 1

/-- The phases of a descriptor in front of its unit (R183, R186 to R195): the start assembles the system, and the end of assembly
scales it by its largest element or refuses a value that is not finite; the factorisation gives the first iterate or
re-equilibrates once; an iteration delivers what has converged, goes on to the next correction, or has stalled; the FP64 factor
restarts the refinement. No phase changes memory or signals. An uncorrectable error in the lead's window ends the descriptor and
drains the unit (R215). -/
def Obligations.SolverPhases : Prop :=
  ∀ (s : State) (k : ClusterId) (r : SolveRun) (rest : List SolveRun), s.calm = true → Sys2Proof.Claims.front s.chip k r rest →
    (let goes (i : Instr) (p : SolveRun → Prop) : Prop := ∃ t q, exec i s = .next t ∧ t.chip.solver k = q :: rest
        ∧ t.chip.mem = s.chip.mem ∧ t.chip.posted = s.chip.posted ∧ p q
     (∀ st, s.chip.headsAll r = true → (r.phase = .ready ∨ r.phase = .queued ∧ r.desc.startObj = 0xFFFF) →
        Solve.assemble r.desc (s.chip.fresh.solveReader r.slot) = .ok st →
        goes (.descriptorStart k none) (fun q => q.phase = .assembly ∧ q.a = st.a ∧ q.b = st.b ∧ q.desc = r.desc))
     ∧ (∀ w : WindowObs, Chip.lostWindow r w = none →
       (r.phase = .assembly → (Solve.allFinite r.a && Solve.allFinite r.b) = true →
        goes (.solverAssemblyDone k w) (fun q => q.phase = .factor ∧ q.normMax = FVal.code fp64 (Solve.maxAbs r.a)
          ∧ q.scale = Solve.scaleExp r.a ∧ q.a = Solve.shiftAll r.a (-(Solve.scaleExp r.a))
          ∧ q.b = Solve.shiftAll r.b (-(Solve.scaleExp r.a))))
     ∧ (r.phase = .assembly → (Solve.allFinite r.a && Solve.allFinite r.b) = false →
        goes (.solverAssemblyDone k w) (fun q => q.phase = .deliver
          ∧ (r.desc.deadline = 0 → q.outcome.map (fun o => (o.status, o.delivery)) = some (Code.outOfRange, 3))))
     ∧ (r.phase = .factor → (Solve.factor r.desc fp32 r.a).overflow = false →
        goes (.solverFactorDone k w) (fun q => q.phase = .refine ∧ q.factor = some (Solve.factor r.desc fp32 r.a)
          ∧ q.reg = r.reg + (Solve.factor r.desc fp32 r.a).reg ∧ (q.pending.map Prod.fst) = some 0))
     ∧ (r.phase = .factor → (Solve.factor r.desc fp32 r.a).overflow = true → r.rescaled = false →
        goes (.solverFactorDone k w) (fun q => q.phase = .factor ∧ q.rescaled = true
          ∧ q.a = Solve.applyEquil r.desc r.a (Solve.equil r.desc r.a) ∧ q.colExp = (Solve.equil r.desc r.a).2))
     ∧ (r.phase = .factor → (Solve.factor r.desc fp32 r.a).overflow = true → r.rescaled = true →
        goes (.solverFactorDone k w) (fun q => q.phase = if r.desc.refactEn then .refact else .deliver))
     ∧ (∀ p f, r.phase = .refine → r.pending = some p → r.factor = some f →
        (let om := Solve.omega (Solve.normInf r.desc r.a) ((SMap.number 0 (Chip.rhsCols r)).map (fun e =>
            Solve.residual r.desc r.a e.2 (p.2.getD e.1 []))) p.2 (Chip.rhsCols r)
         let slow : Prop := ∃ v, r.lastOmega = some v ∧ 1 ≤ r.iter ∧ FVal.lt (FVal.mul v (FVal.pow2 (-1))) om = true
         (FVal.le om (f64 r.desc.rtol) = true →
           goes (.solverIteration k w) (fun q => q.phase = .deliver
             ∧ q.outcome = some ⟨Chip.convergedStatus r, 0, p.1, FVal.code fp64 om, Chip.deliveredX r p.2⟩))
         ∧ (FVal.le om (f64 r.desc.rtol) = false → ¬slow → r.iter ≠ r.desc.iterLimit →
           goes (.solverIteration k w) (fun q => q.phase = .refine ∧ q.iter = r.iter + 1 ∧ q.corrections = r.corrections + 1
             ∧ (q.pending.map Prod.fst) = some (p.1 + 1)))
         ∧ (FVal.le om (f64 r.desc.rtol) = false → (slow ∨ r.iter = r.desc.iterLimit) →
           goes (.solverIteration k w) (fun q => Nat.testBit q.events 3 = true
             ∧ q.phase = if r.desc.refactEn && !r.inFp64 then .refact else .deliver))))
     ∧ (r.phase = .refact → goes (.solverRefactDone k w) (fun q => q.phase = .refine ∧ q.inFp64 = true
          ∧ q.factor = some (Solve.factor r.desc fp64 r.a) ∧ q.iter = 0
          ∧ Nat.testBit q.events 4 = true)))
     ∧ (let fails (i : Instr) : Prop := ∃ t, exec i s = .next t ∧ t.chip.solverState k = 2
        (r.phase = .assembly → fails (.solverAssemblyDone k (.uncorrectable k)))
        ∧ (r.phase = .factor → fails (.solverFactorDone k (.uncorrectable k)))
        ∧ (r.phase = .refine → fails (.solverIteration k (.uncorrectable k)))
        ∧ (r.phase = .refact → fails (.solverRefactDone k (.uncorrectable k)))
        ∧ (∀ b, r.phase = .deliver → fails (.solverDelivery k b (.uncorrectable k)))))

/-- The delivery of a descriptor led by unit k (R196, R198, R203, R205): it has left every queue of its gang or pair, its 64-byte
record begins with STATUS and DELIVERY, X stands at X_ADDR unless nothing is delivered, no other byte of memory has changed, and a
SIGNAL_OBJ that its job holds is signalled. -/
def Sys2Proof.Claims.delivers (s t : Chip) (k : ClusterId) (r : SolveRun) (status delivery : Nat) (x : List U64) : Prop :=
  let xa := addrOff r.desc.xAddr
  let rec_ := addrOff r.desc.completion
  (∀ m ∈ solveUnits r.desc k, ∀ q ∈ t.solver m, ¬(q.ticket = r.ticket ∧ q.lead = k.val))
  ∧ t.readMem rec_ 3 = leBytes 2 status ++ leBytes 1 delivery
  ∧ (delivery ≠ 3 → t.readMem xa (8 * x.length) = x.flatMap (fun c => leBytes 8 c.toNat))
  ∧ (∀ a, (delivery = 3 ∨ a < xa ∨ xa + 8 * x.length ≤ a) → (a < rec_ ∨ rec_ + 64 ≤ a) → SMap.get 0 t.mem a = SMap.get 0 s.mem a)
  ∧ ((s.obj (objOfRef r.desc.signalObj)).owner.toNat = r.slot → r.desc.signalObj ≠ 0xFFFF → SolveDesc.refOk r.desc.signalObj = true →
      ∃ p, t.posted = s.posted ++ [p] ∧ p.obj = objOfRef r.desc.signalObj ∧ p.amount = 1
        ∧ p.unit = BitVec.ofNat 32 (s.solverUnit k) ∧ p.entry = none)

/-- Delivery (R196 to R198, R203 to R205, R208): a descriptor that has its outcome delivers it, but a pair whose results differ,
which delivers CHECK_MISMATCH; at its deadline one that has not started delivers the shifted previous solution with
DEADLINE_SHIFTED, and one in refinement whose current iterate is good enough that iterate with DEADLINE_PARTIAL. -/
def Obligations.SolverDelivers : Prop :=
  ∀ (s : State) (k : ClusterId) (r : SolveRun) (rest : List SolveRun), s.calm = true → Sys2Proof.Claims.front s.chip k r rest →
    s.chip.poison = [] → s.chip.engines = [] →
    (let apart (n : Nat) : Prop := addrOff r.desc.xAddr + 8 * n ≤ addrOff r.desc.completion
        ∨ addrOff r.desc.completion + 64 ≤ addrOff r.desc.xAddr
     (∀ o w b, r.phase = .deliver → r.outcome = some o → Chip.lostWindow r w = none → (r.desc.paired = true → b = false) →
        (o.delivery = 3 ∨ apart o.x.length) →
        ∃ t, exec (.solverDelivery k b w) s = .next t
          ∧ Sys2Proof.Claims.delivers s.chip t.chip k r o.status o.delivery o.x)
     ∧ (∀ o w, r.phase = .deliver → r.outcome = some o → Chip.lostWindow r w = none → r.desc.paired = true → r.desc.deadline = 0 →
        ∃ t, exec (.solverDelivery k true w) s = .next t ∧ Sys2Proof.Claims.delivers s.chip t.chip k r Code.checkMismatch 3 [])
     ∧ (∀ y b v, (r.phase = .ready ∨ r.phase = .queued) → r.desc.deadline ≠ 0 → r.desc.seq < 2 ^ 64 →
        s.chip.readSubstitute r.desc = some y → apart y.length → (r.desc.paired = true → v = false) →
        ∃ t, exec (.deadline k (BitVec.ofNat 64 r.desc.seq) b v) s = .next t
          ∧ Sys2Proof.Claims.delivers s.chip t.chip k r Code.deadlineShifted 2 y)
     ∧ (∀ y b v, r.phase = .waiting → r.desc.deadline ≠ 0 → r.desc.seq < 2 ^ 64 → s.chip.readSubstitute r.desc = some y →
        apart y.length → (r.desc.paired = true → v = false) →
        ∃ t, exec (.deadline k (BitVec.ofNat 64 r.desc.seq) b v) s = .next t
          ∧ t.chip.readMem (addrOff r.desc.completion) 3 = leBytes 2 Code.deadlineShifted ++ [2]
          ∧ t.chip.readMem (addrOff r.desc.xAddr) (8 * y.length) = y.flatMap (fun c => leBytes 8 c.toNat)
          ∧ ∀ w ∈ t.chip.wakes, w.waiter ≠ .solver k)
     ∧ (∀ i v, r.phase = .refine → r.current = some i → FVal.le i.omega (f64 r.desc.accept) = true → r.desc.deadline ≠ 0 →
        r.desc.seq < 2 ^ 64 → apart (Chip.deliveredX r i.cols).length → (r.desc.paired = true → v = false) →
        ∃ t, exec (.deadline k (BitVec.ofNat 64 r.desc.seq) false v) s = .next t
          ∧ Sys2Proof.Claims.delivers s.chip t.chip k r Code.deadlinePartial 1 (Chip.deliveredX r i.cols)))

/-- The end of the draining of a solver unit, an engine, a channel and a core (R214, R238, R371, R433): at its bound a descriptor,
copy, verification or remote command that still runs is aborted with UNIT_DISABLED; a unit with nothing left enters state 0 and the
disabled-unit map. -/
def Obligations.UnitDrainsEnd : Prop :=
  (∀ (s : State) (k : ClusterId) (r : SolveRun), s.calm = true → s.chip.solverState k = 2 → s.chip.solver k = [r] →
      r.lead = k.val → r.phase ≠ .deliver → r.desc.deadline = 0 →
      ∃ t q, exec (.solverDrainBound k) s = .next t ∧ t.chip.solver k = [q] ∧ q.phase = .deliver
        ∧ q.outcome.map (fun o => (o.status, o.delivery)) = some (Code.unitDisabled, 3) ∧ t.chip.mem = s.chip.mem)
  ∧ (∀ (s : State) (k : ClusterId), s.plat.running = true → s.chip.solverState k = 2 → s.chip.solver k = [] →
      ∃ t, exec (.solverDrainEnd k) s = .next t ∧ t.chip.solverState k = 0 ∧ UnitRef.solver k ∈ t.chip.flash.disabled
        ∧ t.chip.mem = s.chip.mem)
  ∧ (∀ (s : State) (e : EngineId) (r : CopyRun), s.calm = true → s.chip.engineState e = 2 → (s.chip.engine e).job = [r] →
      (s.chip.engine e).service = [] → (∀ j y, s.chip.job j = some y → y.seeding = false) →
      ∃ t, exec (.ceDrainBound e) s = .next t ∧ (t.chip.engine e).job = [] ∧ t.chip.engineState e = 0
        ∧ UnitRef.engine e ∈ t.chip.flash.disabled)
  ∧ (∀ (s : State) (n : ChanId) (c : CoreId) (x : CverifyCmd) (ix : Nat) (r : CheckRec), s.calm = true →
      s.chip.channelState n = 2 → (s.chip.chan n).busy = some (.verify c) → (s.chip.stream c 3).verify = some (x, ix, some r) →
      ∃ t, exec (.channelDrainBound n) s = .next t ∧ (t.chip.stream c 3).verify = none ∧ t.chip.channelState n = 0
        ∧ (t.chip.stream c 3).status = Code.first (s.chip.stream c 3).status Code.unitDisabled
        ∧ UnitRef.channel n ∈ t.chip.flash.disabled)
  ∧ (∀ (s : State) (c : CoreId), s.calm = true → s.chip.coreState c = 2 → s.chip.requestsOf (s.chip.streamUnit c 3) ≠ [] →
      (∀ r ∈ s.chip.requestsOf (s.chip.streamUnit c 3), (∃ ix obj dst, r.owner = .command c ix obj dst) ∨ ∃ ix, r.owner = .signal c 3 ix) →
      ∃ t, exec (.cpDrainBound c) s = .next t ∧ t.chip.requestsOf (s.chip.streamUnit c 3) = []
        ∧ (t.chip.stream c 3).status = Code.first (s.chip.stream c 3).status Code.unitDisabled ∧ t.chip.mem = s.chip.mem)

/-! ## Links -/

/-- Nothing of the package waits for another one: no uncompleted request or collective, no job and no broadcast. -/
def Sys2Proof.Claims.quiet (s : State) : Bool :=
  s.calm && s.chip.fab.requests.isEmpty && s.chip.fab.colls.isEmpty && s.chip.jobs.isEmpty && s.chip.casts.isEmpty

/-- Training of a port (R273, R274, R276, R281, R287), while nothing of the package waits for another one: a peer is detected by an
enabled port in DETECT; the lanes that trained on both sides under LANE_MASK give width and rate, and IDENT goes out (RESYNC from
RETRAIN); IDENT gives the peer's node, port, generation and role, and RESYNC goes out; RESYNC sets the credits and makes the port
live, from TRAINING with the next sequence number, from RETRAIN with the unacknowledged flits to resend; a failure counts, the
sixteenth in succession makes the port FAILED, and width, rate and role are 0. -/
def Obligations.LinkTraining : Prop :=
  (∀ (s : State) (p : PortId), Sys2Proof.Claims.quiet s = true → s.chip.portReg p 2 = 1 → s.chip.portReg p 1 = 1 →
      ∃ t, exec (.peerDetect p) s = .next t ∧ t.chip.portReg p 2 = 2 ∧ (t.chip.port p).lanesDone = false
        ∧ (∀ q : PortId, q ≠ p → t.chip.portReg q 2 = s.chip.portReg q 2))
  ∧ (∀ (s : State) (p : PortId) (lanes peer : BitVec 4) (g3 : Bool), s.plat.running = true →
      (s.chip.portReg p 2 = 2 ∨ s.chip.portReg p 2 = 6) → (s.chip.port p).lanesDone = false →
      (let w := (Chip.chooseLanes (Nat.land (Nat.land lanes.toNat (s.chip.portReg p 5)) peer.toNat) (s.chip.port p).dormant).1
       w ≠ 0 →
      ∃ t f, exec (.laneTrainingDone p lanes g3 peer) s = .next t ∧ t.chip.portReg p 3 = w
        ∧ t.chip.portReg p 4 = (if g3 || (s.chip.port p).dormant then 1 else 2) ∧ t.chip.portReg p 2 = s.chip.portReg p 2
        ∧ (t.chip.port p).lanesDone = true ∧ t.chip.out = [.flit p f] ∧ f.hdr.ftype = 1
        ∧ f.body.head? = some (if s.chip.portReg p 2 = 2 then 1 else 5)))
  ∧ (∀ (s : State) (p : PortId), Sys2Proof.Claims.quiet s = true → s.chip.portReg p 2 = 2 → s.chip.portReg p 0x12 < 2 ^ 32 →
      ∃ t, exec (.trainingTimeout p) s = .next t ∧ t.chip.portReg p 0x12 = s.chip.portReg p 0x12 + 1
        ∧ t.chip.portReg p 2 = (if 16 ≤ s.chip.portReg p 0x12 + 1 then 7 else 1)
        ∧ t.chip.portReg p 3 = 0 ∧ t.chip.portReg p 4 = 0 ∧ t.chip.portReg p 6 = 0)
  ∧ (∀ (s : State) (p : PortId) (h : FlitHdr) (x : Ident), s.plat.running = true → h.ftype = 1 → h.reserved = 0 →
      s.chip.portReg p 2 = 2 → (s.chip.port p).lanesDone = true → (s.chip.port p).identDone = false →
      ∃ t f, exec (.ident p h x) s = .next t ∧ t.chip.portReg p 7 = x.node.toNat ∧ t.chip.portReg p 8 = x.port.toNat
        ∧ t.chip.portReg p 9 = x.generation.toNat
        ∧ t.chip.portReg p 6 = (if isEndpoint x.node.toNat then 3 else if !isPackage x.node.toNat then 0
            else if sameGroup s.chip.node x.node.toNat then 1 else 2)
        ∧ (t.chip.port p).identDone = true ∧ t.chip.out = [.flit p f] ∧ f.hdr.ftype = 1 ∧ f.body.head? = some 5)
  ∧ (∀ (s : State) (p : PortId) (h : FlitHdr) (next : Fin 4096) (free : List U16), Sys2Proof.Claims.quiet s = true →
      h.ftype = 1 → h.reserved = 0 →
      (s.chip.portReg p 2 = 2 ∧ (s.chip.port p).identDone = true ∨ s.chip.portReg p 2 = 6 ∧ (s.chip.port p).lanesDone = true) →
      ∃ t, exec (.resync p h next free) s = .next t
        ∧ t.chip.portReg p 2 = (if (s.chip.port p).dormant then 5 else if s.chip.portReg p 3 = 4 then 3 else 4)
        ∧ t.chip.portReg p 0x12 = 0 ∧ (t.chip.port p).avail = free.map (fun n => n.toNat)
        ∧ (t.chip.port p).resend = (t.chip.port p).replay
        ∧ (s.chip.portReg p 2 = 2 → (t.chip.port p).nextFseq = next.val ∧ (t.chip.port p).replay = [])
        ∧ (s.chip.portReg p 2 = 6 → (t.chip.port p).nextFseq = (s.chip.port p).nextFseq))

/-- A control flit without acknowledgement and credits, in sequence, of a port that carries traffic and owes few
acknowledgements. -/
def Sys2Proof.Claims.inSequence (s : State) (p : PortId) (h : FlitHdr) : Prop :=
  s.plat.running = true ∧ s.chip.portLive p = true ∧ h.ftype = 1 ∧ h.reserved = 0 ∧ h.fseq.val = (s.chip.port p).expected
    ∧ h.ackValid = false ∧ 6 ≤ h.credVl.val ∧ (s.chip.port p).sinceAck < 63

/-- Flits of a live port (R279 to R287, R300): a flit in sequence advances the expected number and is counted; the first one out
of sequence is answered with one NAK; NAK resends from the number it names; a balanced AUDIT is counted; a mismatch, AUDIT_FAIL,
POWER and the causes of R275 retrain, here while nothing of the package waits for another one; an idle flit acknowledges; a slot
sends first what is resent, then the flit that the arbitration chose under the next number, else an idle flit. -/
def Obligations.LinkTraffic : Prop :=
  (∀ (s : State) (p : PortId) (f : Flit), s.plat.running = true → s.chip.carries p = true → Flit.good f = true →
      f.hdr.ftype = 0 → f.hdr.vl.val < 6 → (∀ k ∈ s.chip.fab.kept, k.port ≠ p.val) →
      (f.hdr.fseq.val = (s.chip.port p).expected →
        ∃ t, exec (.dataFlit p f) s = .next t ∧ (t.chip.port p).expected = ((s.chip.port p).expected + 1) % 4096
          ∧ t.chip.portReg p 0x0B = (s.chip.portReg p 0x0B + 1) % 2 ^ 64 ∧ (t.chip.port p).nakSent = false
          ∧ (t.chip.port p).held = (s.chip.port p).held.set (8 * f.hdr.vl.val + f.hdr.hop.val)
              (if f.hdr.msgEnd then 0 else (s.chip.port p).held.getD (8 * f.hdr.vl.val + f.hdr.hop.val) 0 + 1))
      ∧ (f.hdr.fseq.val ≠ (s.chip.port p).expected → (s.chip.port p).nakSent = false → (s.chip.port p).resend = [] →
          (s.chip.port p).replay.length < 2048 →
        ∃ t g, exec (.dataFlit p f) s = .next t ∧ (t.chip.port p).expected = (s.chip.port p).expected
          ∧ (t.chip.port p).nakSent = true ∧ t.chip.out = [.flit p g] ∧ g.hdr.ftype = 1 ∧ g.body.head? = some 2
          ∧ (t.chip.port p).held = (s.chip.port p).held)
      ∧ (f.hdr.fseq.val ≠ (s.chip.port p).expected → (s.chip.port p).nakSent = true →
        exec (.dataFlit p f) s = .next (s.on s.chip.fresh)))
  ∧ (∀ (s : State) (p : PortId) (h : FlitHdr), Sys2Proof.Claims.inSequence s p h →
      (let took (i : Instr) (q : Chip → Prop) : Prop := ∃ t, exec i s = .next t
          ∧ (t.chip.port p).expected = ((s.chip.port p).expected + 1) % 4096 ∧ q t.chip
       (∀ want, took (.nak p h want) (fun t =>
          (t.port p).resend = (s.chip.port p).replay.dropWhile (fun g => g.hdr.fseq.val ≠ want.val)
          ∧ t.portReg p 2 = s.chip.portReg p 2))
       ∧ (∀ es, Chip.auditMismatch (s.chip.port p) (es.map (fun e => (e.1.toNat, e.2.toNat))) = none →
          took (.audit p h es) (fun t => t.portReg p 0x0F = (s.chip.portReg p 0x0F + 1) % 2 ^ 64
            ∧ t.portReg p 2 = s.chip.portReg p 2))
       ∧ (∀ es, Sys2Proof.Claims.quiet s = true →
          (Chip.auditMismatch (s.chip.port p) (es.map (fun e => (e.1.toNat, e.2.toNat)))).isSome = true →
          took (.audit p h es) (fun t => t.portReg p 2 = 6))
       ∧ (∀ e, Sys2Proof.Claims.quiet s = true → took (.auditFail p h e) (fun t => t.portReg p 2 = 6
            ∧ (t.log.head?.map (fun r => r.code)) = some Code.checkMismatch))
       ∧ (∀ v, Sys2Proof.Claims.quiet s = true → took (.power p h v) (fun t => t.portReg p 2 = 6 ∧ (t.port p).dormant = decide (v = 1)))))
  ∧ (∀ (s : State) (p : PortId) (f : Flit), s.plat.running = true → s.chip.carries p = true → f.crc.toNat = flitCrc f.hdr f.body →
      f.hdr.ftype = 2 → exec (.idleFlit p f) s = .next (s.on (s.chip.fresh.useHeader p f.hdr)))
  ∧ (∀ (s : State) (p : PortId), s.plat.running = true → s.chip.carries p = true → 0 < (s.chip.port p).sinceAck →
      ∃ t f, exec (.ackTimer p) s = .next t ∧ t.chip.out = [.flit p f] ∧ f.hdr.ftype = 2
        ∧ f.hdr.ackSeq.val = ((s.chip.port p).expected + 4095) % 4096 ∧ (t.chip.port p).sinceAck = 0)
  ∧ (∀ (s : State) (p : PortId), s.plat.running = true → s.chip.portLive p = true → 2 ^ 20 ≤ (s.chip.port p).sinceAudit →
      (s.chip.port p).resend = [] → (s.chip.port p).replay.length < 2048 →
      ∃ t f, exec (.auditDue p) s = .next t ∧ t.chip.out = [.flit p f] ∧ f.hdr.ftype = 1 ∧ f.body.head? = some 3
        ∧ (t.chip.port p).sinceAudit = 1)
  ∧ (∀ (s : State) (p : PortId) (c : RetrainCause), Sys2Proof.Claims.quiet s = true → s.chip.portLive p = true →
      ∃ t, exec (.retrain p c) s = .next t ∧ t.chip.portReg p 2 = 6
        ∧ t.chip.portReg p 0x11 = (s.chip.portReg p 0x11 + 1) % 2 ^ 64 ∧ (t.chip.port p).replay = (s.chip.port p).replay
        ∧ (t.chip.port p).avail = (s.chip.port p).avail ∧ (t.chip.port p).queue = (s.chip.port p).queue)
  ∧ (∀ (s : State) (p : PortId) (vl : Nat) (w m : List Nat) (q : QMsg), s.plat.running = true → s.chip.carries p = true →
      (s.chip.port p).resend = [] → (s.chip.port p).control = [] → (s.chip.port p).replay.length < 2048 →
      Chip.arbitrate (s.chip.laneOpen 0) { s.chip.port p with slot := (s.chip.port p).slot + 1 } = some (vl, w, m) →
      Chip.sendable (s.chip.port p) vl = some q →
      ∃ t f, exec (.flitSlot p) s = .next t ∧ t.chip.out = [.flit p f] ∧ f.hdr.ftype = 0
        ∧ f.hdr.vl.val = q.vl % 8 ∧ f.hdr.fseq.val = (s.chip.port p).nextFseq % 4096
        ∧ (t.chip.port p).replay = (s.chip.port p).replay ++ [f]
        ∧ (t.chip.port p).nextFseq = ((s.chip.port p).nextFseq + 1) % 4096
        ∧ f.body.take (min 244 (q.bytes.length - 244 * q.sent)) = (q.bytes.drop (244 * q.sent)).take 244)
  ∧ (∀ (s : State) (p : PortId) (f : Flit) (rest : List Flit), s.plat.running = true → s.chip.carries p = true →
      (s.chip.port p).resend = f :: rest →
      (f.hdr.fseq.val ∉ (s.chip.port p).uncharged ∨ 0 < (s.chip.port p).avail.getD (bufIx f.hdr.vl.val f.hdr.hop.val) 0) →
      ∃ t, exec (.flitSlot p) s = .next t ∧ t.chip.out = [.flit p f] ∧ (t.chip.port p).resend = rest
        ∧ (t.chip.port p).nextFseq = (s.chip.port p).nextFseq)
  ∧ (∀ (s : State) (p : PortId), s.plat.running = true → s.chip.carries p = true → (s.chip.port p).resend = [] →
      (s.chip.port p).control = [] →
      Chip.arbitrate (s.chip.laneOpen 0) { s.chip.port p with slot := (s.chip.port p).slot + 1 } = none →
      ∃ t f, exec (.flitSlot p) s = .next t ∧ t.chip.out = [.flit p f] ∧ f.hdr.ftype = 2
        ∧ (t.chip.port p).nextFseq = (s.chip.port p).nextFseq)

/-- Ports that go down, the database and the host link (R275, R278, R294, R298, R303, R440, R486), of ports while nothing of the
package waits for another one: a retraining that fails leads to DETECT and a drained port to DISABLED, each with width, rate and
role 0; a lost reference leads the ports that it serves to DETECT, but those in DISABLED and FAILED; a newer record of another
package is stored, and the routing tables follow the database at their rewriting alone; the host link is up in full or reduced
form after training, and down with no bridge active after a loss or PERST_N low; PERST_N high starts its training on a package
with BRIDGE_EN high. -/
def Obligations.PortsAndHostLink : Prop :=
  (∀ (s : State) (p : PortId), Sys2Proof.Claims.quiet s = true → s.chip.portReg p 2 = 6 →
      ∃ t, exec (.retrainTimeout p) s = .next t ∧ t.chip.portReg p 2 = 1 ∧ t.chip.portReg p 3 = 0 ∧ t.chip.portReg p 4 = 0
        ∧ t.chip.portReg p 6 = 0 ∧ (t.chip.log.head?.map (fun r => (r.code, r.kind))) = some (Code.pathLost, 7))
  ∧ (∀ (s : State) (p : PortId), Sys2Proof.Claims.quiet s = true → s.chip.portReg p 2 = 8 →
      ∃ t, exec (.portDrainTimeout p) s = .next t ∧ t.chip.portReg p 2 = 0 ∧ t.chip.portReg p 3 = 0 ∧ t.chip.portReg p 4 = 0
        ∧ t.chip.portReg p 6 = 0)
  ∧ (∀ (s : State) (r : RidgeId) (input : Fin 2), Sys2Proof.Claims.quiet s = true →
      ∃ t, exec (.refclkLoss r input) s = .next t
        ∧ (∀ p ∈ Chip.portsOfRef r input, t.chip.portReg p 2 =
            if s.chip.portReg p 2 = 0 ∨ s.chip.portReg p 2 = 7 then s.chip.portReg p 2 else 1)
        ∧ (∀ p, p < 48 → p ∉ Chip.portsOfRef r input → t.chip.portReg p 2 = s.chip.portReg p 2))
  ∧ (∀ (s : State) (p : PortId) (r : LinkRecord) (cert : Option NodeCert), Sys2Proof.Claims.quiet s = true →
      r.node ≠ s.chip.node →
      (∀ q, s.chip.fab.lsdb.find? (fun q => q.node = r.node && q.port = r.port) = some q → q.seq.toNat < r.seq.toNat) →
      ∃ t, exec (.lsdbUpdate p r cert) s = .next t
        ∧ t.chip.fab.lsdb = s.chip.fab.lsdb.filter (fun (q : LinkRecord) => !(q.node = r.node && q.port = r.port)) ++ [r]
        ∧ t.chip.fab.routes = s.chip.fab.routes)
  ∧ (∀ (s : State), s.plat.running = true →
      exec .routingRewrite s = .next (s.on { s.chip.fresh with fab := { s.chip.fab with routes := s.chip.fab.lsdb } }))
  ∧ (∀ (s : State) (rate64 : Bool) (width : Nat), s.plat.running = true →
      (s.chip.reg 0x4010 3 = 1 ∨ s.chip.reg 0x4010 3 = 0 ∧ s.plat.perstN = true ∧ s.chip.reg 0x4010 1 = 1) →
      ∃ t, exec (.hostLinkTraining rate64 width) s = .next t
        ∧ t.chip.reg 0x4010 3 = (if rate64 = true ∧ width = 16 then 2 else 3)
        ∧ (s.chip.reg 0x4010 1 = 1 → s.chip.bridgesIn = [] → t.chip.reg 0x4010 2 = 1) ∧ t.chip.fab = s.chip.fab)
  ∧ (∀ (s : State), s.plat.running = true →
      ∃ t, exec .hostLinkDown s = .next t ∧ t.chip.reg 0x4010 3 = 0 ∧ t.chip.reg 0x4010 2 = 0 ∧ t.chip.fab = s.chip.fab)
  ∧ (∀ (s : State), s.plat.running = true →
      ∃ t, exec (.perstN false) s = .next t ∧ t.plat.perstN = false ∧ t.chip.reg 0x4010 3 = 0 ∧ t.chip.reg 0x4010 2 = 0
        ∧ t.chip.dap.h2p = 0 ∧ t.chip.dap.p2h = 0 ∧ t.chip.dap.sessions = s.chip.dap.sessions)
  ∧ (∀ (s : State), s.plat.running = true → s.chip.reg 0x4010 1 = 1 → s.chip.reg 0x4010 3 = 0 →
      ∃ t, exec (.perstN true) s = .next t ∧ t.plat.perstN = true ∧ t.chip.reg 0x4010 3 = 1)
  ∧ (∀ (s : State), s.plat.running = true → (s.chip.reg 0x4010 1 ≠ 1 ∨ s.chip.reg 0x4010 3 ≠ 0) →
      exec (.perstN true) s = .next { s.on s.chip.fresh with plat := { s.plat with perstN := true } })

/-! ## Remote memory -/

/-- A request for this package, of one constituent in sequence, reaches its Ridge: the lane is open, the package is not asleep,
no coalescing entry, poisoned line or guard is in its way (R289, R314, R315). -/
def Sys2Proof.Claims.arrives (s : State) (m : Msg) (p : Constituent) : Prop :=
  s.calm = true ∧ m.parts = [p] ∧ m.dest.toNat = s.chip.node ∧ s.chip.node ≠ 0xFFFF ∧ s.chip.reg 0x4002 5 = 0
    ∧ m.age.toNat ≤ 16384 ∧ s.chip.reg 0x2200 2 ≠ 2 ∧ s.chip.seqKind p = .inOrder ∧ s.chip.poison = [] ∧ s.chip.engines = []
    ∧ (s.chip.ridge 0).entries = [] ∧ (s.chip.ridge 1).entries = []

/-- A request in sequence is served once (R314, R316, R319, R321, R330): the source's next SEQ is expected; a READ or BULK_READ of
memory answers with the bytes at its address and changes no memory; a WRITE outside coalescing and a BULK_WRITE put their data there
and change no other byte, and a coalesced WRITE waits in the entry of its line; an ATOMIC replaces its cell by its operation on cell
and operand, by the operand, or under CAS by the second operand where the cell equals the first; a signal raises VALUE and counts
it. One for another package goes on by a route with its hop class one higher, and changes nothing else (R297). -/
def Obligations.RequestsServed : Prop :=
  (∀ (s : State) (at_ : Arrival) (m : Msg) (p : Constituent), Sys2Proof.Claims.arrives s m p →
    (let off := addrOff m.address.toNat
     let serves (i : Instr) (q : Chip → Prop) : Prop := ∃ t, exec i s = .next t
        ∧ t.chip.seqEntry p.unit.toNat = some (p.flow.toNat, p.seq.toNat + 1) ∧ q t.chip
     let puts (bs : List Byte) (t : Chip) : Prop := t.readMem off bs.length = bs
        ∧ ∀ a, a < off ∨ off + bs.length ≤ a → SMap.get 0 t.mem a = SMap.get 0 s.chip.mem a
     (addrClass m.address.toNat ≠ 2 → s.chip.targetCode m m.length.toNat = 0 → 0 < m.length.toNat →
        exec (.read at_ m .clean) s = .next (s.on (
          ((s.chip.fresh.advanceSeq p).countHot (m.srcNode.toNat % 2) { m with mtype := 1 }).sendAnswers
            [s.chip.responseOf { m with mtype := 1 } p 0 0 (s.chip.readMem off m.length.toNat)]).pumpAll))
     ∧ (addrClass m.address.toNat ≠ 2 → s.chip.targetCode m m.length.toNat = 0 → 0 < m.length.toNat →
        exec (.bulkRead at_ m .clean) s = .next (s.on ((s.chip.fresh.advanceSeq p).sendAnswers
            [s.chip.responseOf { m with mtype := 10 } p 0 0 (s.chip.readMem off m.length.toNat)]).pumpAll))
     ∧ (s.chip.targetCode m m.data.length = 0 → m.data ≠ [] → s.chip.reg 0x4030 1 = 0 →
        serves (.write at_ m .clean) (puts m.data))
     ∧ (s.chip.targetCode m m.data.length = 0 → m.data ≠ [] → off % 64 + m.data.length ≤ 64 → s.chip.reg 0x4030 1 ≠ 0 →
        serves (.write at_ m .clean) (fun t => t.mem = s.chip.mem ∧ (t.ridge (m.srcNode.toNat % 2)).entries
          = [⟨off / 64, (SMap.number off m.data).map (fun b => (b.1, b.2, p.unit.toNat)), [{ m with mtype := 2 }]⟩]))
     ∧ (s.chip.targetCode m m.data.length = 0 → m.data ≠ [] → serves (.bulkWrite at_ m) (puts m.data))
     ∧ (s.chip.targetCode m (atypeBytes m.atype.toNat) = 0 → atomicOk m.aop.toNat m.atype.toNat = true →
        off % atypeBytes m.atype.toNat = 0 →
        (let n := atypeBytes m.atype.toNat
         let v := leNat (s.chip.readMem off n)
         (combinableAop m.aop.toNat = true → serves (.atomic at_ m .clean) (puts (leBytes n
              (atomicOp m.aop.toNat m.atype.toNat v m.operand.toNat))))
         ∧ (m.aop = 1 → m.atype ≠ 2 → serves (.atomic at_ m .clean) (puts (leBytes n ((v + m.operand.toNat) % 2 ^ (8 * n)))))
         ∧ (m.aop = 0x10 → serves (.atomic at_ m .clean) (puts (leBytes n (m.operand.toNat % 2 ^ (8 * n)))))
         ∧ (m.aop = 0x11 → serves (.atomic at_ m .clean) (puts (leBytes n
              (if v = m.operand.toNat % 2 ^ (8 * n) then m.operand2.toNat % 2 ^ (8 * n) else v))))))
     ∧ (∀ o x, addrClass m.address.toNat = 2 → off = 0x020000000000 + 64 * o + 8 → o < 17408 → 1 ≤ m.operand.toNat →
        m.operand.toNat ≤ 65535 → s.chip.job (s.chip.slotOfJobId m.jobId) = some x → jobHoldsObj x o = true →
        s.chip.mayUse p.unit.toNat o = true → (s.chip.obj o).value.toNat + m.operand.toNat < 2 ^ 64 →
        serves (.remoteSignal at_ m) (fun t => (t.obj o).value = (s.chip.obj o).value + m.operand ∧ (t.obj o).last = p.unit
          ∧ (t.obj o).count = (s.chip.obj o).count + 1 ∧ t.mem = s.chip.mem))))
  ∧ (∀ (s : State) (at_ : Arrival) (m : Msg) (e : EccObs) (u : Chip), s.calm = true → m.dest.toNat ≠ s.chip.node →
      m.age.toNat ≤ 16384 →
      (let goesOn (vl : Nat) (t : Byte) (i : Instr) : Prop :=
         s.chip.fresh.route vl (at_.hop.val + 1) m.srcNode.toNat m.dest.toNat (some at_.port.val) (Msg.resent m)
           (.msg { m with mtype := t }) = some u → exec i s = .next (s.on u)
       goesOn 0 1 (.read at_ m e) ∧ goesOn 0 2 (.write at_ m e) ∧ goesOn 0 3 (.atomic at_ m e) ∧ goesOn 0 4 (.remoteSignal at_ m)
       ∧ goesOn 3 9 (.bulkWrite at_ m) ∧ goesOn 3 10 (.bulkRead at_ m e)))

/-- Answers at their source (R310, R314, R315, R323, R327): a RESPONSE completes its request once, putting the data of an RLOAD at
LOCAL and no other byte, and signals its object, where that of an RSTORE only signals, and that of a SIGNAL lets its stream go on;
one that finds no request is counted; a RETRY sends the named request again; RATE enters its line in a list of 64; a BATCH is
handled as if its message had arrived alone; a remote command without an answer completes with PEER_UNREACHABLE. -/
def Obligations.AnswersComplete : Prop :=
  (∀ (s : State) (at_ : Arrival) (m : Msg) (p : Constituent) (r : Request) (c : CoreId) (ix obj dst : Nat), s.calm = true →
      s.chip.coreState c ≠ 2 → m.parts = [p] → m.dest.toNat = s.chip.node → s.chip.node ≠ 0xFFFF → s.chip.reg 0x4002 5 = 0 →
      s.chip.fab.requests = [r] → r.unit = p.unit.toNat → r.flow = p.flow.toNat → r.seq = p.seq.toNat →
      r.owner = .command c ix obj dst → r.msg.mtype = 1 → s.chip.poison = [] → s.chip.engines = [] →
      m.data ≠ [] → m.operand2.toNat % 65536 = 0 →
      ∃ t, exec (.response at_ m) s = .next t ∧ t.chip.fab.requests = [] ∧ t.chip.readMem dst m.data.length = m.data
        ∧ (∀ a, a < dst ∨ dst + m.data.length ≤ a → SMap.get 0 t.chip.mem a = SMap.get 0 s.chip.mem a)
        ∧ (t.chip.stream c 3).status = (s.chip.stream c 3).status
        ∧ (obj < 64 → t.chip.posted = s.chip.posted ++ [{ obj := 64 * c.val + obj, amount := 1
                                                          unit := BitVec.ofNat 32 (s.chip.streamUnit c 3), entry := none }])
        ∧ (64 ≤ obj → t.chip.posted = s.chip.posted))
  ∧ (∀ (s : State) (at_ : Arrival) (m : Msg) (p : Constituent) (r : Request), s.calm = true →
      m.parts = [p] → m.dest.toNat = s.chip.node → s.chip.node ≠ 0xFFFF → s.chip.reg 0x4002 5 = 0 →
      s.chip.fab.requests = [r] → r.unit = p.unit.toNat → r.flow = p.flow.toNat → r.seq = p.seq.toNat →
      m.operand2.toNat % 65536 = 0 →
      (∀ (c : CoreId) (ix obj dst : Nat), r.owner = .command c ix obj dst → r.msg.mtype = 2 → fetches r.msg = false →
        ∃ t, exec (.response at_ m) s = .next t ∧ t.chip.fab.requests = [] ∧ t.chip.mem = s.chip.mem
          ∧ (t.chip.stream c 3).status = (s.chip.stream c 3).status
          ∧ (64 ≤ obj → t.chip.posted = s.chip.posted)
          ∧ (obj < 64 → ∃ q, t.chip.posted = s.chip.posted ++ [q] ∧ q.obj = 64 * c.val + obj ∧ q.amount = 1))
      ∧ (∀ (c : CoreId) (st : StreamIx) (ix : Nat), r.owner = .signal c st ix → (s.chip.stream c st).held = [] →
        ∃ t, exec (.response at_ m) s = .next t ∧ t.chip.fab.requests = [] ∧ (t.chip.stream c st).signalling = false
          ∧ (t.chip.stream c st).status = (s.chip.stream c st).status ∧ t.chip.mem = s.chip.mem))
  ∧ (∀ (s : State) (at_ : Arrival) (m : Msg), s.calm = true → m.dest.toNat = s.chip.node → s.chip.node ≠ 0xFFFF →
      s.chip.reg 0x4002 5 = 0 → s.chip.fab.requests = [] → m.parts ≠ [] →
      ∃ t, exec (.response at_ m) s = .next t ∧ t.chip.mem = s.chip.mem ∧ t.chip.posted = s.chip.posted
        ∧ t.chip.reg 0x8037 (s.chip.node % 2 + 1) = (s.chip.reg 0x8037 (s.chip.node % 2 + 1) + 1) % 2 ^ 64)
  ∧ (∀ (s : State) (at_ : Arrival) (m : Msg) (p : Constituent) (r : Request) (u : Chip), s.calm = true → m.parts = [p] →
      m.dest.toNat = s.chip.node → s.chip.node ≠ 0xFFFF → s.chip.reg 0x4002 5 = 0 → s.chip.fab.requests = [r] →
      r.unit = p.unit.toNat → r.flow = p.flow.toNat → m.operand2.toNat / 2 ^ 32 ≤ r.seq → r.msg.mtype = 1 →
      bit r.msg.mflags.toNat 2 = false →
      s.chip.fresh.route 0 0 s.chip.node r.dest none true (.msg { r.msg with mflags := 2 }) = some u →
      exec (.retry at_ m) s = .next (s.on u))
  ∧ (∀ (s : State) (at_ : Arrival) (m : Msg), s.calm = true → m.dest.toNat = s.chip.node → s.chip.node ≠ 0xFFFF →
      s.chip.reg 0x4002 5 = 0 → s.chip.fab.rates.length < 64 →
      (∀ e ∈ s.chip.fab.rates, ¬(e.dest = m.srcNode.toNat ∧ e.line = addrOff m.address.toNat / 64)) →
      exec (.rate at_ m) s = .next (s.on { s.chip.fresh with fab := { s.chip.fab with
        rates := s.chip.fab.rates ++ [{ dest := m.srcNode.toNat, line := addrOff m.address.toNat / 64 }] } }))
  ∧ (∀ (s : State) (at_ : Arrival) (m : Msg) (p : Constituent) (src : U16), Sys2Proof.Claims.arrives s m p →
      (m.mtype = 1 → ∃ t, exec (.batch at_ m.dest src [m]) s = .next t ∧ exec (.read at_ m .clean) s = .next t)
      ∧ (m.mtype = 2 → ∃ t, exec (.batch at_ m.dest src [m]) s = .next t ∧ exec (.write at_ m .clean) s = .next t)
      ∧ (m.mtype = 3 → ∃ t, exec (.batch at_ m.dest src [m]) s = .next t ∧ exec (.atomic at_ m .clean) s = .next t)
      ∧ (m.mtype = 4 → ∃ t, exec (.batch at_ m.dest src [m]) s = .next t ∧ exec (.remoteSignal at_ m) s = .next t))
  ∧ (∀ (s : State) (r : Request) (c : CoreId) (ix obj dst : Nat), s.calm = true → s.chip.coreState c ≠ 2 →
      s.chip.fab.requests = [r] → r.owner = .command c ix obj dst → r.unit < 2 ^ 32 → r.dest < 2 ^ 16 → r.flow < 2 ^ 16 →
      r.seq < 2 ^ 32 →
      ∃ t, exec (.requestTimeout (BitVec.ofNat 32 r.unit) (BitVec.ofNat 16 r.dest) (BitVec.ofNat 16 r.flow)
          (BitVec.ofNat 32 r.seq)) s = .next t
        ∧ t.chip.fab.requests = [] ∧ (t.chip.stream c 3).status = Code.first (s.chip.stream c 3).status Code.peerUnreachable
        ∧ t.chip.mem = s.chip.mem)

/-- The windows of a Ridge and a gateway (R315, R321, R323, R326): a sequence entry of a source is forgotten; a coalescing entry is
written and leaves; a window of hot lines starts again; a rate interval frees its entry, or passes it to the message that waits;
a rate entry ends, and what waits in it goes; a batch with a route leaves. -/
def Obligations.RemoteWindows : Prop :=
  (∀ (s : State) (r : RidgeId) (unit : U32), s.plat.running = true →
      exec (.sequenceEntryExpiry r unit) s = .next (s.on (s.chip.fresh.setRidge r { s.chip.ridge r with
        seqs := (s.chip.ridge r).seqs.filter (fun e => e.1 ≠ unit.toNat) })))
  ∧ (∀ (s : State) (r : RidgeId) (line : U64) (unit : Nat) (m : Msg) (rest : List Coalesce), s.plat.running = true →
      (s.chip.ridge r).entries = ⟨line.toNat / 64,
        (SMap.number (addrOff m.address.toNat) m.data).map (fun b => (b.1, b.2, unit)), [m]⟩ :: rest →
      (∀ e ∈ rest, e.line ≠ line.toNat / 64) → s.chip.poison = [] → s.chip.engines = [] →
      ∃ t, exec (.coalesceWindow r line) s = .next t ∧ (t.chip.ridge r).entries = rest
        ∧ t.chip.readMem (addrOff m.address.toNat) m.data.length = m.data
        ∧ (∀ a, a < addrOff m.address.toNat ∨ addrOff m.address.toNat + m.data.length ≤ a →
            SMap.get 0 t.chip.mem a = SMap.get 0 s.chip.mem a))
  ∧ (∀ (s : State) (r : RidgeId), s.plat.running = true →
      exec (.hotWindow r) s = .next (s.on (s.chip.fresh.setRidge r { s.chip.ridge r with hot := [], rated := [] })))
  ∧ (∀ (s : State) (dest : U16) (line : U64) (e : RateEntry) (rest : List RateEntry), s.calm = true →
      s.chip.fab.rates = e :: rest → e.dest = dest.toNat → e.line = line.toNat / 64 →
      (∀ f ∈ rest, ¬(f.dest = e.dest ∧ f.line = e.line)) →
      (let with_ (l : List RateEntry) : Chip := { s.chip.fresh with fab := { s.chip.fab with rates := l } }
       (e.waits = [] → exec (.rateInterval dest line) s = .next (s.on (with_ ({ e with busy := false } :: rest)))
          ∧ exec (.rateHold dest line) s = .next (s.on (with_ rest)))
       ∧ (∀ m ms u, e.waits = m :: ms → (with_ ({ e with waits := ms } :: rest)).launch 0 m = some u →
          exec (.rateInterval dest line) s = .next (s.on u.pumpAll))
       ∧ (∀ m u, e.waits = [m] → (with_ rest).launch 0 m = some u →
          exec (.rateHold dest line) s = .next (s.on u.pumpAll))))
  ∧ (∀ (s : State) (r : RidgeId) (dest : U16) (ms : List Msg) (rest : List (Nat × List Msg)), s.calm = true →
      s.chip.laneOpen 3 = true → (s.chip.fresh.nextHop 3 s.chip.node dest.toNat none false).isSome = true →
      (s.chip.ridge r).batches = (dest.toNat, ms) :: rest → (∀ b ∈ rest, b.1 ≠ dest.toNat) →
      ∃ t, exec (.eaveWindow r dest) s = .next t ∧ (t.chip.ridge r).batches = rest
        ∧ t.chip.reg 0x8038 (r.val + 1) = (s.chip.reg 0x8038 (r.val + 1) + 1) % 2 ^ 64
        ∧ t.chip.reg 0x8039 (r.val + 1) = (s.chip.reg 0x8039 (r.val + 1) + ms.length) % 2 ^ 64 ∧ t.chip.mem = s.chip.mem)

/-! ## Collectives -/

/-- Every message of the collectives, by MTYPE. -/
def Sys2Proof.Claims.collRows : List (Nat × (Arrival → CollMsg → Instr)) :=
  [(0x20, Instr.collectiveStart), (0x21, Instr.go), (0x22, Instr.lease), (0x23, Instr.leaseReply), (0x24, Instr.release),
   (0x25, Instr.grant), (0x26, Instr.data), (0x27, Instr.result), (0x28, Instr.abort)]

/-- A collective message for another package goes on by a route with its hop class one higher, and changes nothing else (R297,
R338). -/
def Obligations.CollectivesPassOn : Prop :=
  ∀ e ∈ Sys2Proof.Claims.collRows, ∀ (s : State) (at_ : Arrival) (m : CollMsg) (u : Chip), s.calm = true →
    m.dest.toNat ≠ s.chip.node →
    s.chip.fresh.route 2 (at_.hop.val + 1) m.srcNode.toNat m.dest.toNat (some at_.port.val) false (.coll e.1 m) = some u →
    exec (e.2 at_ m) s = .next (s.on u)

/-- The only collective of this package is x, which the message names and of which no lease was revoked here; no message to the
package itself waits, and the collective lane is open. -/
def Sys2Proof.Claims.alone (s : State) (m : CollMsg) (x : CollRun) : Prop :=
  s.calm = true ∧ s.chip.fab.colls = [x] ∧ s.chip.fab.inbox = [] ∧ m.dest.toNat = s.chip.node ∧ m.jobId = x.jobId
    ∧ m.comm.toNat = x.comm ∧ m.seq.toNat = x.seq ∧ s.chip.poison = [] ∧ s.chip.engines = [] ∧ s.chip.laneOpen 2 = true
    ∧ s.chip.revokedMsg m = false

/-- Messages of a collective at their destination (R336 to R339, R347, R348, R350, R353): a START waits at the leader for the
other members; GO completes a BARRIER; a lease takes tokens of its die while it has them and is refused else, and a release or
revocation gives them back; the reply of one lease of several is kept; a grant lets its transfer go; data join the vector by the
reduction's operation or as they are, a result replaces its segment; an abort ends the collective with its status, or with another
listed one where that is unknown (R16). -/
def Obligations.CollectiveMessages : Prop :=
  (∀ (s : State) (at_ : Arrival) (m : CollMsg), s.calm = true → m.dest.toNat = s.chip.node → s.chip.laneOpen 2 = true →
      s.chip.fab.inbox = [] →
      (∀ q ∈ s.chip.fab.starts, q.jobId = m.jobId → q.comm = m.comm.toNat → q.seq = m.seq.toNat → q.node ≠ m.srcNode.toNat) →
      (∀ x, s.chip.findRun m.jobId m.comm.toNat m.seq.toNat = some x → ∃ n ∈ s.chip.runMembers x, n ≠ m.srcNode.toNat
        ∧ ∀ q ∈ s.chip.fab.starts, q.node ≠ n) →
      exec (.collectiveStart at_ m) s = .next (s.on { s.chip.fresh with fab := { s.chip.fab with
        starts := s.chip.fab.starts ++ [⟨m.jobId, m.comm.toNat, m.seq.toNat, m.srcNode.toNat, m.ctype.toNat, m.rop.toNat,
          m.dtype.toNat, m.count.toNat, m.root.toNat⟩] } }))
  ∧ (∀ (s : State) (at_ : Arrival) (m : CollMsg) (x : CollRun), Sys2Proof.Claims.alone s m x → x.begun = true → x.going = false →
      x.cmd.ctype = 5 → m.status = 0 → x.code = 0 → x.cmd.completionAddr ≠ 0 →
      ∃ t, exec (.go at_ m) s = .next t ∧ t.chip.fab.colls = [] ∧ (t.chip.stream x.core 3).status = (s.chip.stream x.core 3).status
        ∧ t.chip.readMem (addrOff x.cmd.completionAddr.toNat) 4
            = [0, 0, BitVec.ofNat 8 m.algo.toNat, BitVec.ofNat 8 x.comm]
        ∧ (∀ a, a < addrOff x.cmd.completionAddr.toNat ∨ addrOff x.cmd.completionAddr.toNat + 32 ≤ a →
            SMap.get 0 t.chip.mem a = SMap.get 0 s.chip.mem a))
  ∧ (∀ (s : State) (at_ : Arrival) (m : CollMsg), s.calm = true → m.dest.toNat = s.chip.node → s.chip.fab.inbox = [] →
      m.srcNode.toNat ≠ s.chip.node → s.chip.laneOpen 2 = true →
      (∀ l ∈ s.chip.fab.leases, l.jobId = m.jobId → l.comm = m.comm.toNat → l.seq ≠ m.seq.toNat) →
      (let r := m.segment.toNat % 2
       let free := s.chip.reg 0x4040 (4 + r)
       (m.tokens ≤ free → ∃ t, exec (.lease at_ m) s = .next t ∧ t.chip.reg 0x4040 (4 + r) = free - m.tokens
          ∧ t.chip.fab.leases = s.chip.fab.leases ++ [⟨r, m.jobId, m.comm.toNat, m.seq.toNat, m.tokens, m.srcNode.toNat⟩])
       ∧ (free < m.tokens → ∃ t, exec (.lease at_ m) s = .next t ∧ t.chip.reg 0x4040 (4 + r) = free ∧ t.chip.fab.leases = s.chip.fab.leases
          ∧ t.chip.reg 0x80F1 (r + 1) = (s.chip.reg 0x80F1 (r + 1) + 1) % 2 ^ 64)))
  ∧ (∀ (s : State) (at_ : Arrival) (m : CollMsg) (l : Lease), s.calm = true → m.dest.toNat = s.chip.node →
      s.chip.laneOpen 2 = true → s.chip.fab.inbox = [] → s.chip.fab.leases = [l] → l.ridge = m.segment.toNat % 2 → l.jobId = m.jobId →
      l.comm = m.comm.toNat → l.seq = m.seq.toNat →
      ∃ t, exec (.release at_ m) s = .next t ∧ t.chip.fab.leases = []
        ∧ t.chip.reg 0x4040 (4 + l.ridge) = (s.chip.reg 0x4040 (4 + l.ridge) + l.tokens) % 2 ^ 64)
  ∧ (∀ (s : State) (r : RidgeId) (l : Lease) (comm : Byte) (seq : U32), s.calm = true → s.chip.fab.leases = [l] →
      l.ridge = r.val → l.comm = comm.toNat → l.seq = seq.toNat →
      ∃ t, exec (.leaseIdle r l.jobId comm seq) s = .next t ∧ t.chip.fab.leases = []
        ∧ t.chip.reg 0x4040 (4 + r.val) = (s.chip.reg 0x4040 (4 + r.val) + l.tokens) % 2 ^ 64
        ∧ t.chip.reg 0x80F2 (r.val + 1) = (s.chip.reg 0x80F2 (r.val + 1) + 1) % 2 ^ 64
        ∧ (l.jobId.toNat, l.comm, l.seq) ∈ t.chip.fab.revoked
        ∧ (t.chip.log.head?.map (fun e => e.code)) = some Code.slotUnavailable)
  ∧ (∀ (s : State) (at_ : Arrival) (m : CollMsg) (x : CollRun) (d : Nat × Nat), Sys2Proof.Claims.alone s m x →
      d = (rankOf (s.chip.runMembers x) m.srcNode.toNat, m.segment.toNat) → d ∈ x.leasing → x.leasing.erase d ≠ [] → m.status = 0 →
      exec (.leaseReply at_ m) s = .next (s.on { s.chip.fresh with fab := { s.chip.fab with colls := [{ x with
        leasing := x.leasing.erase d, leased := x.leased ++ [d] }] } }))
  ∧ (∀ (s : State) (at_ : Arrival) (m : CollMsg) (x : CollRun) (o : CollOut) (bs : List Byte), Sys2Proof.Claims.alone s m x →
      s.chip.jobState x.slot ≠ 5 → (0x25, m.segment.toNat, m.srcNode.toNat) ∉ x.keys → x.allowed = [] → x.incoming = [] →
      x.opened ≠ [] → x.outgoing = [o] → o.seg = m.segment.toNat → (s.chip.runMembers x).getD o.dst 0 = m.srcNode.toNat →
      m.srcNode.toNat ≠ s.chip.node → Chip.outData x o = some bs →
      ∃ t y, exec (.grant at_ m) s = .next t ∧ t.chip.fab.colls = [y] ∧ y.outgoing = [] ∧ y.sent = x.sent + bs.length
        ∧ y.keys = x.keys ++ [(0x25, m.segment.toNat, m.srcNode.toNat)] ∧ y.cur = x.cur ∧ t.chip.mem = s.chip.mem)
  ∧ (∀ (s : State) (at_ : Arrival) (m : CollMsg) (x : CollRun) (i : CollIn), Sys2Proof.Claims.alone s m x →
      s.chip.jobState x.slot ≠ 5 → x.incoming = [] → x.outgoing = [] → x.opened.head? = some i →
      x.opened.erase i ≠ [] → i.seg = m.segment.toNat → i.src = rankOf (s.chip.runMembers x) m.srcNode.toNat →
      (let reduces : Prop := x.cmd.ctype = 1 ∨ x.cmd.ctype = 2
       let dt := x.cmd.dtype.toNat
       let n := i.hi - i.lo
       let joins (e : Instr) (k : Nat) (v : List Nat) : Prop := (k, m.segment.toNat, m.srcNode.toNat) ∉ x.keys →
          ∃ t y, exec e s = .next t ∧ t.chip.fab.colls = [y] ∧ y.cur = x.cur.take i.lo ++ v ++ x.cur.drop i.hi
            ∧ y.opened = x.opened.erase i ∧ y.keys = x.keys ++ [(k, m.segment.toNat, m.srcNode.toNat)]
            ∧ t.chip.mem = s.chip.mem
       (reduces → i.kind = 0 → i.add = true → joins (.data at_ m) 0x26 (zipOp x.cmd.rop.toNat dt
          (splitCodes (accBytesOf dt) n m.data) ((x.cur.drop i.lo).take n)))
       ∧ (reduces → i.kind = 0 → i.add = false → joins (.data at_ m) 0x26 ((splitCodes (collBytesOf dt) n m.data).map (widen dt)))
       ∧ (x.cmd.ctype = 4 → i.kind = 0 → joins (.data at_ m) 0x26 (m.data.map (fun b => b.toNat)))
       ∧ (reduces → i.kind = 3 → x.algo ≠ 1 → (i.lo, i.hi) = segRange dt x.cmd.count.toNat i.seg →
          joins (.result at_ m) 0x27 ((splitCodes (collBytesOf dt) n m.data).map (widen dt)))))
  ∧ (∀ (s : State) (at_ : Arrival) (m : CollMsg) (x : CollRun), Sys2Proof.Claims.alone s m x → m.status ≠ 0 →
      x.cmd.completionAddr = 0 →
      ∃ t, exec (.abort at_ m) s = .next t ∧ t.chip.fab.colls = [] ∧ t.chip.mem = s.chip.mem
        ∧ (t.chip.stream x.core 3).status = Code.first (s.chip.stream x.core 3).status
            (Code.received (Config.freeChoice s.chip.fresh.free 60) m.status.toNat))

/-! ## The dictionary -/

/-- Burist serves the dictionary, nothing waits, and the client has the role of the host or of service. -/
def Sys2Proof.Claims.serves (s : State) (who : Client) : Prop :=
  s.calm = true ∧ s.chip.reg 0x2300 4 = 3 ∧ (who.role = .host ∨ who.role = .service)

/-- The chip h stands and the client is told OK. -/
def Sys2Proof.Claims.answersOk (i : Instr) (s : State) (h : Chip) : Prop := exec i s = .next (s.on (h.emit (.answer 0 [])))

/-- Writes of one subindex (R17, R417). A refused write changes nothing but the answer, and the first check that fails gives the
code: no such object, role or access code, type or length, range, partition lock, state of the package. A write of a plain setting
that passes every check stores its value and is answered with OK; a write of an object that has a row of its own does what that row
does. -/
def Obligations.DictionaryRefuses : Prop :=
  (∀ (s : State) (who : Client) (index : U16) (sub ty : Byte) (offset : U64) (bytes : List Byte), s.calm = true →
    (let w : Write := ⟨index.toNat, sub.toNat, ty.toNat, offset.toNat, bytes⟩
     let refused (c : Nat) : Prop :=
       exec (.dictionaryWrite who index sub ty offset bytes) s = .next (s.on (s.chip.fresh.emit (.answer c [])))
     (s.chip.entryAt w.ix w.sub = none → refused 0x0801)
     ∧ (∀ e, s.chip.entryAt w.ix w.sub = some e →
        ((e.acc = .ro ∨ e.acc = .const ∨ s.chip.roleMay who w = false) → refused 0x0802)
        ∧ ((e.acc = .wo ∨ e.acc = .rw) → s.chip.roleMay who w = true →
            (Chip.typeFits e w = false → refused 0x0803)
            ∧ (Chip.typeFits e w = true →
                (s.chip.fresh.inRange e w = false → refused 0x0804)
                ∧ (s.chip.fresh.inRange e w = true →
                    (s.chip.lockedOut who w = true → refused 0x0806)
                    ∧ (s.chip.lockedOut who w = false → s.chip.stateFits w = false → refused 0x0805)
                    ∧ (s.chip.lockedOut who w = false → w.ix ∈ [0x2100, 0x4020, 0x4030, 0x4040, 0x5010, 0x5020, 0x6200] →
                        exec (.dictionaryWrite who index sub ty offset bytes) s
                          = .next (s.on ((s.chip.fresh.setReg w.ix w.sub w.num).emit (.answer 0 []))))))))))
  ∧ (∀ (s : State) (who : Client) (v : Byte) (off : U64) (bs : List Byte),
      exec (.dictionaryWrite who 0x2010 1 0x01 0 [v]) s = exec (.g3Compat who v) s
      ∧ exec (.dictionaryWrite who 0x2020 1 0x01 0 [v]) s = exec (.jadeMode who v) s
      ∧ exec (.dictionaryWrite who 0x2200 1 0x01 0 [v]) s = exec (.sleepRequest who v) s
      ∧ exec (.dictionaryWrite who 0x6010 2 0x0C off bs) s = exec (.stageData who off bs) s
      ∧ exec (.dictionaryWrite who 0x1003 1 0x0B 0 bs) s = exec (.nonce who bs) s)

/-- Writes of settings (R58, R268, R278, R289, R372, R430, R451, R456). G3_COMPAT, JADE_MODE and NODE_NUMBER are written while the
package is empty and refused with STATE_CONFLICT while it is not; a new node number goes to flash and every live port retrains.
PORT_ENABLE begins training, drains a live port and takes any other port down; a 1 to a port that is neither disabled nor failed
changes nothing. STAGE_SIZE frees the
earlier staging and takes HBM, unless an admission reads it; STAGE_DATA fills it. DUMP_TRIGGER starts a dump unless one runs; a
completed dump stands at its place in HBM and is counted. SLEEP_REQUEST enters Dormant or wakes. BOOT_COMMIT starts the staged
image, else the image in flash with BOOT_SOURCE bit 7 set, else the ROM stays with FAILED bit 0 set. -/
def Obligations.SettingsWrites : Prop :=
  (∀ (s : State) (who : Client) (v : Byte), Sys2Proof.Claims.serves s who → v.toNat ≤ 1 →
      (s.chip.occupied = false →
        Sys2Proof.Claims.answersOk (.g3Compat who v) s (s.chip.fresh.setReg 0x2010 1 v.toNat)
        ∧ Sys2Proof.Claims.answersOk (.jadeMode who v) s (s.chip.fresh.setReg 0x2020 1 v.toNat))
      ∧ (s.chip.occupied = true →
        exec (.g3Compat who v) s = .next (s.on (s.chip.fresh.emit (.answer 0x0805 [])))
        ∧ exec (.jadeMode who v) s = .next (s.on (s.chip.fresh.emit (.answer 0x0805 [])))))
  ∧ (∀ (s : State) (who : Client) (v : U16), Sys2Proof.Claims.serves s who → who.role = .service →
      (isPackage v.toNat = true ∨ v = 0xFFFF) →
      (Sys2Proof.Claims.quiet s = true →
        ∃ t, exec (.nodeNumber who v) s = .next t ∧ t.chip.out = [.answer 0 []] ∧ t.chip.node = v.toNat
          ∧ t.chip.flash.node = v.toNat
          ∧ (∀ p : PortId, s.chip.portLive p = true → t.chip.portReg p 2 = 6)
          ∧ (∀ p : PortId, s.chip.portLive p = false → t.chip.portReg p 2 = s.chip.portReg p 2))
      ∧ (s.chip.occupied = true →
        exec (.nodeNumber who v) s = .next (s.on (s.chip.fresh.emit (.answer 0x0805 [])))))
  ∧ (∀ (s : State) (who : Client) (p : PortId), Sys2Proof.Claims.serves s who → who.role = .service →
      ((s.chip.portReg p 2 ≠ 0 ∧ s.chip.portReg p 2 ≠ 7) → Sys2Proof.Claims.answersOk (.portEnable who p 1) s s.chip.fresh)
      ∧ ((s.chip.portReg p 2 = 0 ∨ s.chip.portReg p 2 = 8) →
        Sys2Proof.Claims.answersOk (.portEnable who p 0) s (s.chip.fresh.setPortReg p 1 0))
      ∧ (Sys2Proof.Claims.quiet s = true →
        ((s.chip.portReg p 2 = 0 ∨ s.chip.portReg p 2 = 7) →
          ∃ t, exec (.portEnable who p 1) s = .next t ∧ t.chip.out = [.answer 0 []] ∧ t.chip.portReg p 1 = 1
            ∧ t.chip.portReg p 2 = 1 ∧ t.chip.portReg p 0x12 = 0)
        ∧ (s.chip.portLive p = true →
          ∃ t, exec (.portEnable who p 0) s = .next t ∧ t.chip.out = [.answer 0 []] ∧ t.chip.portReg p 1 = 0
            ∧ t.chip.portReg p 2 = 8)
        ∧ (s.chip.portReg p 2 ∈ [1, 2, 6, 7] → (s.chip.port p).queue = [] → (s.chip.port p).unacked = [] →
          ∃ t, exec (.portEnable who p 0) s = .next t ∧ t.chip.out = [.answer 0 []] ∧ t.chip.portReg p 1 = 0
            ∧ t.chip.portReg p 2 = 0)))
  ∧ (∀ (s : State) (who : Client) (v : U64), Sys2Proof.Claims.serves s who → who.role = .host →
      v.toNat ≤ 2 ^ 38 → v.toNat % 4096 = 0 →
      (∀ sh, (s.chip.admitting && s.chip.staging.reading) = false → s.chip.fresh.unstaged.spreadHbm v.toNat = some sh →
        Sys2Proof.Claims.answersOk (.stageSize who v) s
          { s.chip.fresh.setReg 0x6010 1 v.toNat with staging := { share := sh } })
      ∧ (s.chip.fresh.unstaged.spreadHbm v.toNat = none →
        exec (.stageSize who v) s = .next (s.on (s.chip.fresh.emit (.answer 0x0804 []))))
      ∧ ((s.chip.admitting && s.chip.staging.reading) = true → (s.chip.fresh.unstaged.spreadHbm v.toNat).isSome = true →
        exec (.stageSize who v) s = .next (s.on (s.chip.fresh.emit (.answer 0x0805 [])))))
  ∧ (∀ (s : State) (who : Client) (off : U64) (bs : List Byte), Sys2Proof.Claims.serves s who → who.role = .host →
      (off.toNat + bs.length ≤ s.chip.reg 0x6010 1 →
        Sys2Proof.Claims.answersOk (.stageData who off bs) s
          { s.chip.fresh with staging := { s.chip.staging with data := SMap.setRange 0 s.chip.staging.data off.toNat bs } })
      ∧ (s.chip.reg 0x6010 1 < off.toNat + bs.length →
        exec (.stageData who off bs) s = .next (s.on (s.chip.fresh.emit (.answer 0x0804 [])))))
  ∧ (∀ (s : State) (who : Client), Sys2Proof.Claims.serves s who →
      (s.chip.dumping = none →
        Sys2Proof.Claims.answersOk (.dumpTrigger who 1) s { s.chip.fresh with dumping := some (0, s.chip.reg 0x8100 1) })
      ∧ (s.chip.dumping.isSome = true →
        exec (.dumpTrigger who 1) s = .next (s.on (s.chip.fresh.emit (.answer 0x0805 []))))
      ∧ Sys2Proof.Claims.answersOk (.dumpTrigger who 0) s s.chip.fresh)
  ∧ (∀ (s : State), s.calm = true →
      (s.chip.dumping = none → exec .dumpComplete s = .next (s.on s.chip.fresh))
      ∧ (∀ reason scope, s.chip.dumping = some (reason, scope) →
        (let bs := s.chip.fresh.dumpBytes reason scope
         s.chip.poisoned (4 * stackBytes - 0x200000) bs.length = false →
         ∃ t, exec .dumpComplete s = .next t ∧ t.chip.dumping = s.chip.dumpNext.head?.map (fun j => (1, j))
          ∧ t.chip.readMem (4 * stackBytes - 0x200000) bs.length = bs
          ∧ (∀ a, a < 4 * stackBytes - 0x200000 ∨ 4 * stackBytes - 0x200000 + bs.length ≤ a →
              SMap.get 0 t.chip.mem a = SMap.get 0 s.chip.mem a)
          ∧ t.chip.reg 0x8100 4 = (s.chip.reg 0x8100 4 + 1) % 2 ^ 64 ∧ t.chip.reg 0x8100 5 = bs.length % 2 ^ 64)))
  ∧ (∀ (s : State) (who : Client), Sys2Proof.Claims.serves s who →
      (Sys2Proof.Claims.quiet s = true → s.chip.reg 0x2200 2 = 0 →
        ∃ t, exec (.sleepRequest who 1) s = .next t ∧ t.chip.out = [.answer 0 []] ∧ t.chip.reg 0x2200 1 = 1
          ∧ t.chip.reg 0x2200 2 = 1)
      ∧ (s.chip.occupied = false → s.chip.reg 0x2200 2 ≠ 0 →
        Sys2Proof.Claims.answersOk (.sleepRequest who 1) s (s.chip.fresh.setReg 0x2200 1 1))
      ∧ (s.chip.occupied = true →
        exec (.sleepRequest who 1) s = .next (s.on (s.chip.fresh.emit (.answer 0x0805 []))))
      ∧ (s.chip.reg 0x2200 2 ≠ 2 →
        Sys2Proof.Claims.answersOk (.sleepRequest who 0) s (s.chip.fresh.setReg 0x2200 1 0))
      ∧ (Sys2Proof.Claims.quiet s = true → s.chip.reg 0x2200 2 = 2 →
        ∃ t, exec (.sleepRequest who 0) s = .next t ∧ t.chip.out = [.answer 0 []] ∧ t.chip.reg 0x2200 1 = 0
          ∧ t.chip.reg 0x2200 2 = 3))
  ∧ (∀ (s : State) (who : Client), s.calm = true → s.chip.reg 0x2300 4 = 0 → s.chip.bootClient who = true →
      (let image := components 32 (SMap.getRange 0 s.chip.staging.data 0 (s.chip.reg 0x6010 1))
       let tried := s.chip.fresh.bootImage (s.chip.reg 0x2300 3 % 4) image
       let back := tried.2.setReg 0x2300 3 (s.chip.reg 0x2300 3 % 128 + 128)
       Sys2Proof.Claims.answersOk (.bootCommit who 0) s s.chip.fresh
       ∧ (tried.1 = true →
        ∃ t, exec (.bootCommit who 1) s = .next t ∧ t.chip.out = [.answer 0 []] ∧ t.chip.reg 0x2300 4 = 1
          ∧ t.chip.reg 0x6010 1 = 0 ∧ t.chip.reg 0x2300 3 = s.chip.reg 0x2300 3 ∧ t.chip.dap.sessions = []
          ∧ t.chip.flash = s.chip.flash)
       ∧ (tried.1 = false → (back.bootImage 0 s.chip.flash.image).1 = true →
        ∃ t, exec (.bootCommit who 1) s = .next t ∧ t.chip.out = [.answer 0 []] ∧ t.chip.reg 0x2300 4 = 1
          ∧ Nat.testBit (t.chip.reg 0x2300 3) 7 = true ∧ t.chip.dap.sessions = [] ∧ t.chip.flash = s.chip.flash)
       ∧ (tried.1 = false → (back.bootImage 0 s.chip.flash.image).1 = false →
        ∃ t, exec (.bootCommit who 1) s = .next t ∧ t.chip.out = [.answer 0 []] ∧ t.chip.reg 0x2300 4 = 0
          ∧ Nat.testBit (t.chip.reg 0x2300 2) 0 = true ∧ Nat.testBit (t.chip.reg 0x2300 3) 7 = true
          ∧ t.chip.dap.sessions = s.chip.dap.sessions ∧ t.chip.flash = s.chip.flash)))

/-- Writes of the safety partition and of keys (R459, R464, R468, R474, R476, R477, R480). PARTITION_ENABLE takes 1 on an empty
package and never 0 while enabled. SAFE_CLEAR releases SAFE_STATE_N for the safety role, for others while the partition is disabled,
unless no pair runs, a clock fault persists or Burist's heartbeat is missing. An enrolment enters a key or changes its USE, and a
65th is refused; a revocation removes the key and its sessions, but not the last host key. SIGNING_POLICY 0 is locked while the
partition is enabled. A rollback advance raises the floors to the versions that run and uses one advance. A nonce builds a report
that carries it. A watchdog takes an object that the slot's job holds and a limit, while the job's state is 1 to 4. -/
def Obligations.SecurityWrites : Prop :=
  (∀ (s : State) (who : Client), Sys2Proof.Claims.serves s who →
      (s.chip.occupied = false →
        Sys2Proof.Claims.answersOk (.partitionEnable who 1) s ((s.chip.fresh.setReg 0x7000 1 1).setReg 0x7800 0x0A 1))
      ∧ (s.chip.occupied = true →
        exec (.partitionEnable who 1) s = .next (s.on (s.chip.fresh.emit (.answer 0x0805 []))))
      ∧ (s.chip.partition = true →
        exec (.partitionEnable who 0) s = .next (s.on (s.chip.fresh.emit (.answer 0x0806 []))))
      ∧ (s.chip.partition = false → Sys2Proof.Claims.answersOk (.partitionEnable who 0) s s.chip.fresh))
  ∧ (∀ (s : State) (who : Client), s.calm = true → s.chip.reg 0x2300 4 = 3 →
      (who.role = .safety ∨ ((who.role = .host ∨ who.role = .service) ∧ s.chip.partition = false)) →
      ((s.chip.noPair = false ∧ s.chip.mon.clockFault = false ∧ s.chip.mon.buristBeat = true) →
        Sys2Proof.Claims.answersOk (.safeClear who 1) s (s.chip.fresh.setReg 0x7000 2 0))
      ∧ ((s.chip.noPair = true ∨ s.chip.mon.clockFault = true ∨ s.chip.mon.buristBeat = false) →
        exec (.safeClear who 1) s = .next (s.on (s.chip.fresh.emit (.answer 0x0805 []))))
      ∧ Sys2Proof.Claims.answersOk (.safeClear who 0) s s.chip.fresh)
  ∧ (∀ (s : State) (who : Client) (v : Byte), Sys2Proof.Claims.serves s who → s.chip.partition = true →
      exec (.safeClear who v) s = .next (s.on (s.chip.fresh.emit (.answer 0x0802 []))))
  ∧ (∀ (s : State) (who : Client) (use : Byte) (pk : List Byte), Sys2Proof.Claims.serves s who → pk.length = 2592 →
      use ≠ 0 → use.toNat < 32 →
      (let kid := sha3_256 pk
       let row := Instr.keyEnroll who (use :: 0 :: 0 :: 0 :: pk)
       (s.chip.partition = false ∨ (bit use.toNat 2 = false ∧ ∀ k ∈ s.chip.flash.keys, k.keyId = kid → bit k.use 2 = false)) →
       ((∀ k ∈ s.chip.flash.keys, k.keyId ≠ kid) → s.chip.flash.keys.length < 64 →
        Sys2Proof.Claims.answersOk row s { s.chip.fresh with
          flash := { s.chip.flash with keys := s.chip.flash.keys ++ [⟨kid, use.toNat, pk⟩] } })
       ∧ ((∀ k ∈ s.chip.flash.keys, k.keyId ≠ kid) → 64 ≤ s.chip.flash.keys.length →
        exec row s = .next (s.on (s.chip.fresh.emit (.answer 0x0805 []))))
       ∧ ((∃ k ∈ s.chip.flash.keys, k.keyId = kid) →
        Sys2Proof.Claims.answersOk row s { s.chip.fresh with
          flash := { s.chip.flash with
            keys := s.chip.flash.keys.map (fun k => if k.keyId = kid then { k with use := use.toNat } else k) } })))
  ∧ (∀ (s : State) (who : Client) (kid : List Byte) (use : Nat), Sys2Proof.Claims.serves s who → kid.length = 32 →
      s.chip.keyUse kid = some use → (s.chip.partition = false ∨ bit use 2 = false) →
      (let another := s.chip.flash.keys.any (fun k => k.keyId ≠ kid && bit k.use 0)
       ((bit use 0 = false ∨ another = true) →
        Sys2Proof.Claims.answersOk (.keyRevoke who kid) s { s.chip.fresh with
          flash := { s.chip.flash with keys := s.chip.flash.keys.filter (fun k => k.keyId ≠ kid) }
          dap := { s.chip.dap with sessions := s.chip.dap.sessions.filter (fun (x : Session) => x.keyId ≠ kid) } })
       ∧ (bit use 0 = true → another = false →
        exec (.keyRevoke who kid) s = .next (s.on (s.chip.fresh.emit (.answer 0x0805 []))))))
  ∧ (∀ (s : State) (who : Client) (v : Byte), Sys2Proof.Claims.serves s who → v.toNat ≤ 1 →
      ((s.chip.partition = false ∨ v = 1) →
        Sys2Proof.Claims.answersOk (.signingPolicy who v) s (s.chip.fresh.setReg 0x7800 0x0A v.toNat))
      ∧ (s.chip.partition = true → v = 0 →
        exec (.signingPolicy who v) s = .next (s.on (s.chip.fresh.emit (.answer 0x0806 [])))))
  ∧ (∀ (s : State) (who : Client), Sys2Proof.Claims.serves s who →
      (s.chip.flash.advances ≠ 0 →
        ∃ t, exec (.rollbackAdvance who 1) s = .next t ∧ t.chip.out = [.answer 0 []]
          ∧ t.chip.flash.advances = s.chip.flash.advances - 1
          ∧ (∀ i, i < 8 → (t.chip.flash.floors.getD i 0).toNat
              = max (s.chip.flash.floors.getD i 0).toNat (s.chip.boot.versions.getD i 0).toNat)
          ∧ t.chip.flash.keys = s.chip.flash.keys)
      ∧ (s.chip.flash.advances = 0 →
        exec (.rollbackAdvance who 1) s = .next (s.on (s.chip.fresh.emit (.answer 0x0805 []))))
      ∧ Sys2Proof.Claims.answersOk (.rollbackAdvance who 0) s s.chip.fresh)
  ∧ (∀ (s : State) (who : Client) (n : List Byte), s.calm = true → n.length = 32 →
      (let r := s.chip.fresh.buildReport s.plat.lf n
       Sys2Proof.Claims.answersOk (.nonce who n) s
          { s.chip.fresh.setReg 0x1003 3 r.length with boot := { s.chip.boot with report := r } }
       ∧ (r.drop 16).take 32 = n ∧ r.take 4 = [0x54, 0x53, 0x54, 0x41]))
  ∧ (∀ (s : State) (who : Client) (j : SlotId) (v : U32), s.calm = true → s.chip.reg 0x2300 4 = 3 →
      (who.role = .host ∨ who.role = .safety) →
      (let runs : Prop := 1 ≤ s.chip.jobState j ∧ s.chip.jobState j ≤ 4
       let held (r : Nat) : Prop := refOk r = true ∧ ∃ x, s.chip.job j = some x ∧ jobHoldsObj x (objOfRef r) = true
       (runs → (v = 0xFFFF ∨ (v.toNat < 0xFFFF ∧ held v.toNat)) → Sys2Proof.Claims.answersOk (.wdObject who j .object v) s
          ((s.chip.fresh.setReg 0x7000 (16 * j.val + 0x11) v.toNat).armWatchdog j))
       ∧ (runs → (v = 0 ∨ 4096 ≤ v.toNat) → Sys2Proof.Claims.answersOk (.wdObject who j .limit v) s
          ((s.chip.fresh.setReg 0x7000 (16 * j.val + 0x12) v.toNat).armWatchdog j))
       ∧ (∀ x, s.chip.job j = some x → v.toNat < 0xFFFF → refOk v.toNat = true → jobHoldsObj x (objOfRef v.toNat) = false →
          exec (.wdObject who j .object v) s = .next (s.on (s.chip.fresh.emit (.answer 0x0804 []))))
       ∧ (¬runs → v = 0xFFFF →
          exec (.wdObject who j .object v) s = .next (s.on (s.chip.fresh.emit (.answer 0x0805 []))))))

/-- The row that writes a unit's state. -/
def Sys2Proof.Claims.unitRow (who : Client) (v : Byte) : UnitRef → Instr
  | .array c a => Instr.arrayState who c a v
  | .core c => Instr.coreState who c v
  | .solver k => Instr.solverState who k v
  | .engine e => Instr.engineState who e v
  | .channel n => Instr.channelState who n v

/-- Unit states (R117, R433, R434): 1 to an enabled unit withdraws a pending disable, to a draining one is refused, to a disabled
one starts its recovery test, whose pass enables it and whose failure is STATE_CONFLICT; 0 to a unit of a coupled job is kept
pending, and an idle solver unit or array that no job holds passes to state 0 at once. -/
def Obligations.UnitStates : Prop :=
  (∀ (s : State) (who : Client) (u : UnitRef), Sys2Proof.Claims.serves s who →
      (s.chip.unitState u = 1 → Sys2Proof.Claims.answersOk (Sys2Proof.Claims.unitRow who 1 u) s
        { s.chip.fresh with pendingOff := s.chip.pendingOff.filter (fun q => q ≠ u) })
      ∧ (s.chip.unitState u = 2 →
        exec (Sys2Proof.Claims.unitRow who 1 u) s = .next (s.on (s.chip.fresh.emit (.answer Code.stateConflict []))))
      ∧ (s.chip.unitState u = 0 →
        exec (Sys2Proof.Claims.unitRow who 1 u) s = .next (s.on { s.chip.fresh with testing := s.chip.testing ++ [(u, none)] }))
      ∧ (∀ x, s.chip.unitState u = 1 → u ∉ s.chip.pendingOff → s.chip.job (s.chip.slotOfUnit u) = some x → jobCoupled x = true →
        ∃ t, exec (Sys2Proof.Claims.unitRow who 0 u) s = .next t ∧ t.chip.pendingOff = s.chip.pendingOff ++ [u]
          ∧ t.chip.unitState u = 1 ∧ (t.chip.log.head?.map (fun r => r.kind)) = some 4))
  ∧ (∀ (s : State) (who : Client) (k : ClusterId), Sys2Proof.Claims.serves s who → s.chip.solverState k = 1 →
      UnitRef.solver k ∉ s.chip.pendingOff → s.chip.job (s.chip.slotOfSolver k) = none → s.chip.solver k = [] →
      ∃ t, exec (.solverState who k 0) s = .next t ∧ t.chip.solverState k = 0 ∧ UnitRef.solver k ∈ t.chip.flash.disabled)
  ∧ (∀ (s : State) (who : Client) (c : CoreId) (a : ArrId), Sys2Proof.Claims.serves s who → s.chip.arrayState c a = 1 →
      UnitRef.array c a ∉ s.chip.pendingOff → s.chip.job (s.chip.slotOfCore c) = none → s.chip.arrayIdle c a = true →
      s.chip.coreState c = 1 →
      ∃ t, exec (.arrayState who c a 0) s = .next t ∧ t.chip.arrayState c a = 0
        ∧ UnitRef.array c a ∈ t.chip.flash.disabled ∧ (t.chip.array c a).acc = [])
  ∧ (∀ (s : State) (u : UnitRef), s.calm = true → s.chip.testing = [(u, none)] → s.chip.unitState u = 0 →
      (∃ t, exec (.recoveryTestDone u true) s = .next t ∧ t.chip.unitState u = 1 ∧ t.chip.testing = []
        ∧ t.chip.out = [.answer 0 []])
      ∧ exec (.recoveryTestDone u false) s = .next (s.on
          { s.chip.fresh.recoveryRan u with testing := [], out := [.answer Code.stateConflict []] }))

/-! ## DAP -/

/-- A tagged frame f for this package that the one open session x takes over the management port: its tag verifies and its MSG_SEQ
is new (R420, R422). -/
def Sys2Proof.Claims.acceptable (s : State) (f : DapFrame) (x : Session) : Prop :=
  s.calm = true ∧ s.chip.reg 0x2300 4 = 3 ∧ s.chip.dap.sessions = [x] ∧ f.sessionId.toNat = x.sid ∧ x.isOpen = true
    ∧ x.sid < 2 ^ 32 ∧ s.chip.isTarget f = true ∧ frameFits f = true ∧ transportFits x.role .mgmt = true
    ∧ f.tag = tagOf x.keyIn f ∧ x.seqIn < f.msgSeq.toNat ∧ x.seqOut + 3 < 2 ^ 32 - 1 ∧ s.chip.testing = []

/-- The row i gets one RESPONSE to f over the management port: the next MSG_SEQ, the request's REQUEST_ID, the status code and a tag
of the session x; q holds of the chip and of the RESPONSE (R420, R422). -/
def Sys2Proof.Claims.responds (i : Instr) (s : State) (f : DapFrame) (x : Session) (code : Nat) (q : Chip → DapFrame → Prop) :
    Prop :=
  ∃ t g, exec i s = .next t ∧ t.chip.out = [.frame .mgmt g] ∧ g.msgType = 0x13 ∧ g.requestId = f.requestId
    ∧ g.status.toNat = code ∧ g.msgSeq = BitVec.ofNat 32 (x.seqOut + 1)
    ∧ g.tag = tagOf x.keyOut { g with tag := List.replicate 32 0 } ∧ t.chip.mem = s.chip.mem ∧ q t.chip g

/-- Requests of a session (R416, R417, R420, R422, R423, R426, R432), f being accepted and its REQUEST_ID new. A READ is answered
with INDEX, SUB and the segment of the value that it selects, a READ of a word with its TYPE, length and value, and a READ of what
does not exist or is write only with its code; no READ changes an object. A refused WRITE changes no object, an accepted one of a
setting in 0x4020 stores it, and one that enables a disabled unit waits for the recovery test. WRITE_MULTI applies both entries or
none and names the one that fails. A subscription begins at START_SEQ and ends; a wrong mask, a fifth subscription and an unknown
SUB_ID are refused. EVENT_ACK frees the records up to ACK_SEQ. CLOSE ends the session. A request seen before gets its kept response
with a new MSG_SEQ and nothing else; a frame whose tag fails is counted, and so is one whose MSG_SEQ is not new. -/
def Obligations.DapRequests : Prop :=
  ∀ (s : State) (f : DapFrame) (x : Session), Sys2Proof.Claims.acceptable s f x →
    (let answers (i : Instr) (code : Nat) (q : Chip → DapFrame → Prop) : Prop := Sys2Proof.Claims.responds i s f x code q
     let who : Client := ⟨x.role, .mgmt, BitVec.ofNat 16 x.node⟩
     let ix := field f.body 0 2
     let sub := field f.body 2 1
     let fresh : Prop := ∀ k ∈ x.kept, k.1 ≠ f.requestId
     (fresh → f.msgType = 0x10 →
        (let r := s.chip.fresh.readObject s.plat.lf ix sub (field f.body 4 8) (field f.body 12 2)
         answers (.dapRead .mgmt f) r.1 (fun t g => g.body.take 3 = f.body.take 3 ∧ g.body.drop 12 = r.2.2.2 ∧ t.regs = s.chip.regs)
         ∧ (Objects.lookup ix sub = none → r.1 = Code.noSuchObject ∧ r.2.2.2 = [])
         ∧ (∀ e, Objects.lookup ix sub = some e → e.acc = .wo → ¬(ix = 0x2300 ∧ sub = 6) →
            r.1 = Code.accessDenied ∧ r.2.2.2 = [])))
     ∧ (∀ e k, fresh → f.msgType = 0x10 → Objects.lookup ix sub = some e → e.acc ≠ .wo → e.ty.numeric = true →
        e.ty.size = some k → sub ≠ 0 → Chip.timed ix sub = false → ix ∉ [0x1000, 0x1001, 0x1002, 0x8300] →
        field f.body 4 8 = 0 → field f.body 12 2 = k →
        answers (.dapRead .mgmt f) 0 (fun t g => g.body = f.body.take 3 ++ leBytes 1 e.ty.code ++ leBytes 8 k
          ++ leBytes k (s.chip.reg ix sub) ∧ t.regs = s.chip.regs))
     ∧ (∀ w code, fresh → f.msgType = 0x11 → frameWrites f = some [w] → s.chip.fresh.writeCode who w = code → code ≠ 0 →
        answers (.dapWrite .mgmt f) code (fun t _ => t.regs = s.chip.regs))
     ∧ (∀ w e, fresh → f.msgType = 0x11 → frameWrites f = some [w] → w.ix = 0x4020 → (x.role = .host ∨ x.role = .service) →
        Objects.lookup w.ix w.sub = some e → e.acc = .rw → Chip.typeFits e w = true → s.chip.inRange e w = true →
        answers (.dapWrite .mgmt f) 0 (fun t _ => t.reg 0x4020 w.sub = w.num))
     ∧ (∀ w u, fresh → f.msgType = 0x11 → frameWrites f = some [w] → unitAt w.ix w.sub = some u →
        s.chip.fresh.writeCode who w = 0 → w.num = 1 → s.chip.unitState u = 0 →
        ∃ t, exec (.dapWrite .mgmt f) s = .next t ∧ t.chip.out = [] ∧ t.chip.regs = s.chip.regs
          ∧ t.chip.testing = [(u, some ⟨x.sid, who, f⟩)])
     ∧ (∀ w v e, fresh → f.msgType = 0x12 → frameWrites f = some [w, v] → w.ix = 0x4020 →
        (x.role = .host ∨ x.role = .service) →
        Objects.lookup w.ix w.sub = some e → e.acc = .rw → Chip.typeFits e w = true → s.chip.inRange e w = true →
        Objects.lookup v.ix v.sub = none →
        answers (.writeMulti .mgmt f) Code.noSuchObject (fun t g => t.regs = s.chip.regs ∧ g.body.drop 12 = [1]))
     ∧ (∀ w v e d, fresh → f.msgType = 0x12 → frameWrites f = some [w, v] → w.ix = 0x4020 → v.ix = 0x4020 → w.sub ≠ v.sub →
        (x.role = .host ∨ x.role = .service) →
        Objects.lookup w.ix w.sub = some e → e.acc = .rw → Chip.typeFits e w = true → s.chip.inRange e w = true →
        Objects.lookup v.ix v.sub = some d → d.acc = .rw → Chip.typeFits d v = true → s.chip.inRange d v = true →
        answers (.writeMulti .mgmt f) 0 (fun t _ => t.reg 0x4020 w.sub = w.num ∧ t.reg 0x4020 v.sub = v.num))
     ∧ (fresh → f.msgType = 0x20 →
        (let start := field f.body 8 8
         (field f.body 0 2 < 1024 → field f.body 3 1 ≤ 1 → x.subs = [] →
          answers (.subscribe .mgmt f) 0 (fun t g => g.body.drop 12 = [0] ∧ (t.session x.sid).map (·.subs) = some
            [⟨0, field f.body 0 2, field f.body 2 1, decide (field f.body 3 1 = 1),
              if start = 2 ^ 64 - 1 then s.chip.reg 0x8200 1 else max start (s.chip.reg 0x8200 2), [], 0⟩]))
         ∧ ((1024 ≤ field f.body 0 2 ∨ 1 < field f.body 3 1) →
          answers (.subscribe .mgmt f) Code.outOfRange (fun t _ => (t.session x.sid).map (·.subs) = some x.subs))
         ∧ (field f.body 0 2 < 1024 → field f.body 3 1 ≤ 1 → 4 ≤ x.subs.length →
          answers (.subscribe .mgmt f) Code.stateConflict (fun t _ => (t.session x.sid).map (·.subs) = some x.subs))))
     ∧ (fresh → f.msgType = 0x21 →
        ((∃ q ∈ x.subs, q.id = field f.body 0 1) →
          answers (.unsubscribe .mgmt f) 0 (fun t _ => (t.session x.sid).map (·.subs)
            = some (x.subs.filter (fun q => q.id ≠ field f.body 0 1))))
        ∧ ((∀ q ∈ x.subs, q.id ≠ field f.body 0 1) →
          answers (.unsubscribe .mgmt f) Code.outOfRange (fun t _ => (t.session x.sid).map (·.subs) = some x.subs)))
     ∧ (f.msgType = 0x23 →
        ∃ t, exec (.eventAck .mgmt f) s = .next t ∧ t.chip.out = [] ∧ (t.chip.session x.sid).map (·.subs)
          = some (x.subs.map (fun q => if q.id = field f.body 0 1 then
              { q with sent := q.sent.filter (fun n => decide (field f.body 8 8 < n)) } else q)))
     ∧ (f.msgType = 4 → exec (.close .mgmt f) s = .next (s.on { s.chip.fresh with dap := { s.chip.dap with sessions := [] } }))
     ∧ (∀ i k, x.kept.find? (fun k => k.1 = f.requestId) = some k →
        ((f.msgType = 0x10 ∧ i = Instr.dapRead .mgmt f) ∨ (f.msgType = 0x11 ∧ i = Instr.dapWrite .mgmt f ∧ (frameWrites f).isSome = true)
          ∨ (f.msgType = 0x12 ∧ i = Instr.writeMulti .mgmt f ∧ (frameWrites f).isSome = true)
          ∨ (f.msgType = 0x20 ∧ i = Instr.subscribe .mgmt f) ∨ (f.msgType = 0x21 ∧ i = Instr.unsubscribe .mgmt f)) →
        (let g := { k.2 with msgSeq := BitVec.ofNat 32 (x.seqOut + 1) }
         ∃ t, exec i s = .next t ∧ t.chip.out = [.frame .mgmt { g with tag := tagOf x.keyOut g }] ∧ t.chip.regs = s.chip.regs
          ∧ t.chip.mem = s.chip.mem ∧ (t.chip.session x.sid).map (·.subs) = some x.subs))
     ∧ (f.msgType = 0x10 → ∀ tag, tag.length = 32 → tag ≠ f.tag →
        exec (.dapRead .mgmt { f with tag := tag }) s = .next (s.on (s.chip.fresh.bump 0x8300 4 1)))
     ∧ (f.msgType = 0x10 → ∀ y, y = { x with seqIn := f.msgSeq.toNat } →
        exec (.dapRead .mgmt f) (s.on { s.chip with dap := { s.chip.dap with sessions := [y] } })
          = .next (s.on ({ s.chip.fresh with dap := { s.chip.dap with sessions := [y] } }.bump 0x8300 5 1))))

/-- Handshakes, events, time limits, rings and forwarding (R421, R423, R424, R425, R432, R476). An INIT whose key is enrolled for
its role opens a handshake and is answered by ACCEPT, and the first host key of an empty table is enrolled; an unknown key and a
33rd session are refused. CONFIRM opens the session or ends it. The time limits end a handshake and a session. EVENT sends the
next matching records in order, and EVENT_RESEND the unacknowledged ones again. A frame for another node goes on towards it or is
counted as undeliverable, from the host port only while the bridge is active. A frame in the ring is served as its row and its
slot freed; an empty slot changes nothing. MSI-X is raised while a slot of the other ring is valid. -/
def Obligations.DapSessions : Prop :=
  (∀ (s : State) (f : DapFrame) (r : Role), s.calm = true → s.chip.isTarget f = true → frameFits f = true → f.msgType = 1 →
      roleCode (field f.body 0 1) = some r → r ≠ .peer → field f.body 1 3 = 0 → f.sessionId = 0 →
      (let kid := (f.body.drop 4).take 32
       let key := s.chip.flash.keys.find? (fun k => k.keyId = kid && bit k.use (useBit r))
       let accepts (pk : List Byte) (keys : List KeyEntry) : Prop :=
         ∃ t g x, exec (.init .mgmt f) s = .next t ∧ t.chip.out = [.frame .mgmt g] ∧ g.msgType = 2 ∧ g.status = 0
          ∧ t.chip.dap.sessions = s.chip.dap.sessions ++ [x] ∧ x.isOpen = false ∧ x.sid = s.chip.dap.nextSid ∧ x.role = r
          ∧ x.clientKey = pk ∧ t.chip.flash = { s.chip.flash with keys := keys }
       let refuses (code : Nat) : Prop :=
         ∃ t g, exec (.init .mgmt f) s = .next t ∧ t.chip.out = [.frame .mgmt g] ∧ g.msgType = 2
          ∧ g.status.toNat = code ∧ g.body = [] ∧ t.chip.dap.sessions = s.chip.dap.sessions
          ∧ t.chip.flash = s.chip.flash ∧ t.chip.reg 0x8300 3 = (s.chip.reg 0x8300 3 + 1) % 2 ^ 64
       (∀ k, key = some k → s.chip.dap.sessions.length < 32 → accepts k.publicKey s.chip.flash.keys)
       ∧ (r = .host → s.chip.flash.keys = [] → s.chip.dap.sessions.length < 32 →
          accepts (Config.keyOf kid) [⟨kid, 0x1F, Config.keyOf kid⟩])
       ∧ (key = none → (s.chip.flash.keys ≠ [] ∨ r ≠ .host) → refuses Code.accessDenied)
       ∧ (key.isSome = true → 32 ≤ s.chip.dap.sessions.length → refuses Code.stateConflict)))
  ∧ (∀ (s : State) (f : DapFrame) (x : Session), s.calm = true → s.chip.isTarget f = true → frameFits f = true →
      f.msgType = 3 → s.chip.dap.sessions = [x] → f.sessionId.toNat = x.sid → x.isOpen = false →
      transportFits x.role .mgmt = true → f.tag = tagOf x.keyIn f → x.seqIn < f.msgSeq.toNat →
      ∃ t, exec (.confirm .mgmt f) s = .next t ∧ t.chip.flash = s.chip.flash ∧ t.chip.out = []
        ∧ (Config.verify x.clientKey (sha3_512 (x.transcript ++ x.signature)) f.body = true →
            t.chip.dap.sessions = [{ x with isOpen := true, seqIn := f.msgSeq.toNat, transport := .mgmt }])
        ∧ (Config.verify x.clientKey (sha3_512 (x.transcript ++ x.signature)) f.body = false → t.chip.dap.sessions = []))
  ∧ (∀ (s : State) (sid : U32) (x : Session), s.calm = true → s.chip.dap.sessions = [x] → x.sid = sid.toNat →
      (x.isOpen = true → exec (.sessionTimeout sid) s = .next (s.on
        { s.chip.fresh with dap := { s.chip.dap with sessions := [] } })
        ∧ exec (.handshakeTimeout sid) s = .next (s.on s.chip.fresh))
      ∧ (x.isOpen = false → exec (.handshakeTimeout sid) s = .next (s.on
        ({ s.chip.fresh with dap := { s.chip.dap with sessions := [] } }.bump 0x8300 3 1))
        ∧ exec (.sessionTimeout sid) s = .next (s.on s.chip.fresh)))
  ∧ (∀ (s : State) (sid : U32) (x : Session) (q : Subscription), s.calm = true → s.chip.dap.sessions = [x] →
      x.sid = sid.toNat → x.isOpen = true → x.transport = .mgmt → x.subs = [q] → x.seqOut + 3 < 2 ^ 32 - 1 →
      (let next := ((s.chip.log.filter (fun r => decide (q.next ≤ r.seq) && Chip.subMatches q r)).reverse).take
          (min 21 (256 - q.sent.length))
       let again := (s.chip.log.filter (fun r => q.sent.contains r.seq)).reverse
       (∀ l, next.getLast? = some l →
        ∃ t g, exec (.event sid q.id) s = .next t ∧ t.chip.out = [.frame .mgmt g] ∧ g.msgType = 0x22
          ∧ g.body = leBytes 1 q.id ++ leBytes 1 next.length ++ leBytes 4 q.lost ++ [0, 0] ++ next.flatMap Chip.logBytes
          ∧ (t.chip.session x.sid).map (·.subs)
              = some [{ q with next := l.seq + 1, sent := q.sent ++ next.map (·.seq), lost := 0 }])
       ∧ (next = [] → exec (.event sid q.id) s = .next (s.on s.chip.fresh))
       ∧ (again ≠ [] → again.length ≤ 21 →
        ∃ t g, exec (.eventResend sid q.id) s = .next t ∧ t.chip.out = [.frame .mgmt g] ∧ g.msgType = 0x22
          ∧ g.body = leBytes 1 q.id ++ leBytes 1 again.length ++ leBytes 4 0 ++ [0, 0] ++ again.flatMap Chip.logBytes
          ∧ (t.chip.session x.sid).map (·.subs) = some [q])))
  ∧ (∀ (s : State) (f : DapFrame), s.calm = true → s.chip.isTarget f = false →
      (let d := f.targetNode.toNat
       let onward (h : Chip) : Option Chip := h.route 4 0 s.chip.node d none true (.dap d s.chip.node f)
       let bridged : Chip := { s.chip.fresh with dap := { s.chip.dap with
         forwarded := s.chip.dap.forwarded.filter (fun e => e ≠ (d, f.sessionId.toNat)) ++ [(d, f.sessionId.toNat)] } }
       (∀ u, onward s.chip.fresh = some u →
        exec (.dapForward .mgmt f) s = .next (s.on (u.bump 0x8300 6 1))
        ∧ (∀ src : U16, src.toNat ≠ d → exec (.dapForward (.fabric src) f) s = .next (s.on (u.bump 0x8300 6 1))))
       ∧ (onward s.chip.fresh = none →
        exec (.dapForward .mgmt f) s = .next (s.on (s.chip.fresh.bump 0x8300 7 1)))
       ∧ (∀ u, s.chip.reg 0x4010 2 ≠ 0 → f.msgType ≠ 4 → onward bridged = some u →
        exec (.dapForward .hostPort f) s = .next (s.on (u.bump 0x8300 6 1)))
       ∧ (s.chip.reg 0x4010 2 = 0 →
        exec (.dapForward .hostPort f) s = .next (s.on (s.chip.fresh.bump 0x8300 7 1))
        ∧ (2 ≤ s.chip.reg 0x4010 3 → exec (.h2pPoll (some f)) s = .next (s.on
            ({ s.chip.fresh with dap := { s.chip.dap with h2p := (s.chip.dap.h2p + 1) % 4096 } }.bump 0x8300 7 1))))))
  ∧ (∀ (s : State) (f : DapFrame), s.calm = true → s.chip.isTarget f = true → 2 ≤ s.chip.reg 0x4010 3 → f.msgType = 0x10 →
      exec (.h2pPoll (some f)) s = exec (.dapRead .hostPort f)
        (s.on { s.chip with dap := { s.chip.dap with h2p := (s.chip.dap.h2p + 1) % 4096 } }))
  ∧ (∀ (s : State), s.calm = true →
      exec (.h2pPoll none) s = .next (s.on s.chip.fresh)
      ∧ (s.chip.dap.p2hValid = [] → exec .msixRaise s = .next (s.on s.chip.fresh))
      ∧ (s.chip.dap.p2hValid ≠ [] → 2 ≤ s.chip.reg 0x4010 3 → exec .msixRaise s = .next (s.on { s.chip.fresh with out := [.msix] })))

/-! ## Copy engines -/

/-- Nothing here stands in the way of a copy of local data: no line is poisoned, no guard holds a granule, no write is stalled, no
work waits for a queue, and no start waits for its initial copies. -/
def Sys2Proof.Claims.unguarded (s : Chip) : Prop :=
  s.poison = [] ∧ s.fab.heldReplies = []
    ∧ (∀ p ∈ s.engines, p.2.stalled = [] ∧ p.2.waiting = [] ∧ ∀ r ∈ p.2.service, r.granules = [])
    ∧ (∀ n x, s.job n = some x → x.seeding = false)

/-- The descriptor r in front of a queue has not started; its engine is in state 1, it has no channel and no guard, and all it
reads and writes lies in this package. -/
def Sys2Proof.Claims.moves (s : State) (e : EngineId) (q : EngineQueue) (r : CopyRun) (op : Byte) : Prop :=
  s.calm = true ∧ s.chip.copyFront e q = some r ∧ r.started = false ∧ r.asked = false ∧ r.toRead = [] ∧ r.toSend = []
    ∧ r.desc.opcode = op ∧ s.chip.engineState e = 1 ∧ r.desc.cvc = 0xFFFF ∧ CopyField.guard r.desc = false
    ∧ Sys2Proof.Claims.unguarded s.chip
    ∧ (∀ a ∈ CopyField.srcHulls r.desc ++ CopyField.dstHulls r.desc ++ CopyField.reads r.desc ++ CopyField.writes r.desc,
        s.chip.isRemote a.1 = false)

/-- Copy engines (R88, R89, R232, R235, R236, R239, R240). A service copy that passes its checks joins the service queue, and
Burist holds it while the queue is full. A descriptor in front of a queue moves its data: COPY of one row of bytes leaves its
source at the destination, FILL the pattern aligned to addresses, and a copy in this package writes the ranges of its destination
and, where it derives a coarse scale, that scale, and no other byte. COPY_COMPLETE after an end without error takes the descriptor
out of the queue, writes its record and signals its object. A guarded granule is copied within this package when it is taken. -/
def Obligations.CopyEngines : Prop :=
  (∀ (s : State) (e : EngineId) (slot : Byte) (d : CopyDesc), s.plat.running = true → s.chip.engineState e = 1 →
    (let r0 : CopyRun := { desc := d, slot := slot.toNat, from_ := none, step := 0, ordinal := 0, purpose := 0 }
     let x := s.chip.engine e
     (s.chip.serviceRoom e = false → exec (.serviceCopySubmit e slot d) s
        = .next (s.on (s.chip.fresh.setEngine e { x with waiting := x.waiting ++ [r0] })))
     ∧ (x.waiting = [] → s.chip.serviceRoom e = true → (CopyField.guard d = false ∨ s.chip.guardsHeld (e.val / 32) < 8) →
      s.chip.fresh.copyCode e slot.toNat true d = 0 →
      (d.opcode ≠ 2 ∨ d.cvc = 0xFFFF ∨ s.chip.jade = false ∨ SMap.wf none s.chip.jobs = true) →
      ∃ t r, exec (.serviceCopySubmit e slot d) s = .next t
        ∧ (t.chip.engine e).service = x.service ++ [r] ∧ (t.chip.engine e).job = x.job
        ∧ r.desc = d ∧ r.slot = slot.toNat ∧ r.from_ = none ∧ r.started = false
        ∧ r.granules = Chip.guardedGranules d
        ∧ t.chip.convUse = s.chip.convUse ++ (if d.opcode = 2 then [addrOff d.convAddr.toNat] else [])
        ∧ t.chip.mem = s.chip.mem ∧ t.chip.posted = s.chip.posted)))
  ∧ (∀ (s : State) (e : EngineId) (q : EngineQueue) (r : CopyRun),
    (let blk := addrOff r.desc.convAddr.toNat
     let block := s.chip.readMem blk 32
     let u := s.chip.engineUnit e
     let cv := Conv.ofBytes block
     let h := if r.desc.opcode = 2 ∧ cv.coarseMode = 1 then s.chip.fresh.setCoarseOut u blk (cv.coarseUsed FVal.zero) else s.chip.fresh
     let out := h.copyOutput e { r with block := block }
     let o := out.1
     let base := if r.desc.opcode = 2 ∧ cv.coarseMode = 2 then (h.setCoarseOut u blk out.2.2.2).mem else h.mem
     let moved (i : Instr) : Prop := ∃ t y, exec i s = .next t ∧ t.chip.copyFront e q = some y ∧ y.desc = r.desc
        ∧ y.started = true ∧ y.done = true ∧ y.status = r.status ∧ y.written = r.written + (o.map (fun w => w.2.length)).sum
        ∧ t.chip.mem = (o.filter (fun w => w.2 ≠ [])).foldl (fun m w => SMap.setRange 0 m (addrOff w.1) w.2) base
        ∧ (∀ a, (∀ w ∈ o, a < addrOff w.1 ∨ addrOff w.1 + w.2.length ≤ a) →
            (r.desc.opcode = 2 → a < blk + 16 ∨ blk + 20 ≤ a) → SMap.get 0 t.chip.mem a = SMap.get 0 s.chip.mem a)
        ∧ t.chip.tiles = s.chip.tiles ∧ t.chip.preds = s.chip.preds ∧ t.chip.posted = s.chip.posted
     let bytes (i : Instr) (bs : List Byte) : Prop := ∃ t, exec i s = .next t
        ∧ t.chip.readMem (addrOff r.desc.dst.toNat) bs.length = bs
     (Sys2Proof.Claims.moves s e q r 1 → moved (.ceCopy e q none)
        ∧ (r.desc.rows = 1 → r.desc.srcFormat = 0x08 → r.desc.dstFormat = 0x08 → CopyField.transpose r.desc = false →
            bytes (.ceCopy e q none) (s.chip.readMem (addrOff r.desc.src.toNat) r.desc.cols.toNat)))
     ∧ (Sys2Proof.Claims.moves s e q r 2 → moved (.convert e q none))
     ∧ (Sys2Proof.Claims.moves s e q r 3 → moved (.fill e q)
        ∧ (r.desc.rows = 1 → r.desc.dstFormat = 0x08 → CopyField.transpose r.desc = false →
            bytes (.fill e q) ((List.range r.desc.cols.toNat).map (fun i =>
              Chip.patternByte r.desc.src.toNat (addrOff r.desc.dst.toNat + i)))))))
  ∧ (∀ (s : State) (e : EngineId) (q : EngineQueue) (r : CopyRun), s.calm = true → s.chip.copyFront e q = some r →
    s.chip.copyDone e q r = true → Sys2Proof.Claims.unguarded s.chip → s.chip.engineState e = 1 →
    r.holds = false → r.status = 0 → r.guardStalls = 0 → r.purpose = 0 → r.desc.completionAddr ≠ 0 →
    r.desc.completionAddr.toNat % 32 = 0 → s.chip.checkCopy r.slot r.desc.completionAddr.toNat 32 true = 0 →
    (let c := addrOff r.desc.completionAddr.toNat
     let blk := addrOff r.desc.convAddr.toNat
     ∃ t, exec (.copyComplete e q) s = .next t
      ∧ Chip.copyQueue (t.chip.engine e) q = (Chip.copyQueue (s.chip.engine e) q).drop 1
      ∧ t.chip.readMem c 24 = leBytes 2 0 ++ [0, 0] ++ leBytes 4 0 ++ leBytes 8 r.desc.seq.toNat ++ leBytes 8 r.written
      ∧ (r.desc.opcode ≠ 2 → t.chip.readMem (c + 24) 4 = leBytes 4 0)
      ∧ (r.desc.opcode = 2 → blk ∉ t.chip.convUse)
      ∧ (∀ a, (a < c ∨ c + 32 ≤ a) → (r.desc.opcode = 2 → a < blk + 20 ∨ blk + 28 ≤ a) →
          SMap.get 0 t.chip.mem a = SMap.get 0 s.chip.mem a)
      ∧ (r.desc.arrivalObj = 0xFFFF → r.desc.signalObj = 0xFFFF → t.chip.posted = s.chip.posted)
      ∧ (r.desc.arrivalObj = 0xFFFF → Chip.namesObj r.desc.signalObj.toNat = true → t.chip.posted = s.chip.posted
          ++ [{ obj := objOfRef r.desc.signalObj.toNat, amount := 1, unit := BitVec.ofNat 32 (s.chip.engineUnit e), entry := none
                slot := Chip.copySlot r, after := s.chip.openWrites (s.chip.engineUnit e) }])))
  ∧ (∀ (s : State) (e : EngineId) (r : CopyRun) (g : Nat) (rest : List Nat), s.calm = true →
    s.chip.copyFront e .service = some r → r.started = true → r.granules = g :: rest → g ∉ rest → r.toRead = [] → r.toSend = [] →
    r.staged = [] → r.arrival = false → (s.chip.engine e).promoted = [] → s.chip.poison = [] → s.chip.fab.heldReplies = [] →
    (∀ p ∈ s.chip.engines, p.2.stalled = []) → s.chip.isRemote r.desc.dst.toNat = false →
    (let ps := Chip.granulePieces r.desc g
     (∀ w ∈ ps, ∀ p ∈ s.chip.engines, ∀ x ∈ p.2.service, ∀ h ∈ x.granules,
        65536 * h + 65536 ≤ addrOff w.1 ∨ addrOff w.1 + w.2.2 ≤ 65536 * h) →
     ∃ t y, exec (.granuleTaken e none) s = .next t ∧ t.chip.copyFront e .service = some y ∧ y.granules = rest
      ∧ y.written = r.written + (ps.map (fun w => w.2.2)).sum ∧ y.done = decide (rest = [])
      ∧ t.chip.mem = ps.foldl (fun m w => SMap.setRange 0 m (addrOff w.1) (s.chip.readMem w.2.1 w.2.2)) s.chip.mem
      ∧ (∀ a, (∀ w ∈ ps, a < addrOff w.1 ∨ addrOff w.1 + w.2.2 ≤ a) → SMap.get 0 t.chip.mem a = SMap.get 0 s.chip.mem a)))

/-! ## Memory in the background -/

/-- Memory in the background (R217, R219, R222 to R224, R226, R230, R317): the regions of an ended job are zeroed and freed; the
scrubber, while SCRUB_EN is set, reads the next line of its stack's regions, wraps at their end, counts the line, a corrected error
and a poisoned line, and an uncorrectable line is poisoned and logged; errors of SRAM are counted; a cluster enters and leaves
bypass; a cached remote line expires. Only the fill changes memory. -/
def Obligations.MemoryBackground : Prop :=
  (∀ (s : State) (slot : SlotId), s.plat.running = true →
    (let at_ (i : Nat) : Nat := s.chip.reg (0x5100 + 8 * slot.val + i) 1
     let size (i : Nat) : Nat := s.chip.reg (0x5100 + 8 * slot.val + i) 2
     ((s.chip.job slot).isSome = true → exec (.regionFill slot) s = .next (s.on s.chip.fresh))
     ∧ (s.chip.job slot = none → (∀ d, d < 4 → s.chip.enginesUp d ≠ []) →
       ∃ t, exec (.regionFill slot) s = .next t
        ∧ (∀ i, i < 8 → t.chip.reg (0x5100 + 8 * slot.val + i) 2 = 0)
        ∧ (∀ i a, i < 8 → at_ i ≤ a → a < at_ i + size i → SMap.get 0 t.chip.mem a = 0)
        ∧ (∀ i l, i < 8 → 64 * l < at_ i + size i → at_ i < 64 * l + 64 → size i ≠ 0 → SMap.get false t.chip.poison l = false)
        ∧ (∀ a, (∀ i, i < 8 → a < at_ i ∨ at_ i + size i ≤ a) → SMap.get 0 t.chip.mem a = SMap.get 0 s.chip.mem a)
        ∧ t.chip.objs = s.chip.objs ∧ t.chip.jobs = s.chip.jobs)))
  ∧ (∀ (s : State) (h : HbmId), s.plat.running = true →
    (let rs := s.chip.scrubbed (h.val / 3)
     let next := Chip.scrubNext h.val (SMap.get 0 s.chip.scrubAt h.val) rs
     let read (u : Chip) (l : Nat) : Chip := { u with scrubAt := SMap.set 0 u.scrubAt h.val (l + 1) }.bump 0x80BC (h.val + 1) 1
     (∀ ecc, (s.chip.reg 0x5010 1 = 0 ∨ (next = none ∧ Chip.scrubNext h.val 0 rs = none)) →
        exec (.scrubRead h ecc) s = .next (s.on s.chip.fresh))
     ∧ (∀ l, s.chip.reg 0x5010 1 ≠ 0 → next = none → Chip.scrubNext h.val 0 rs = some l →
        exec (.scrubRead h .clean) s = .next (s.on ((read (s.chip.fresh.countPass h.val) l).countBad (64 * l) 64)))
     ∧ (∀ l, s.chip.reg 0x5010 1 ≠ 0 → next = some l →
        exec (.scrubRead h .clean) s = .next (s.on ((read s.chip.fresh l).countBad (64 * l) 64))
        ∧ (64 * l < hbmEnd → s.chip.detectOnly l = false →
          ∃ t, exec (.scrubRead h .corrected) s = .next t ∧ t.chip.mem = s.chip.mem ∧ t.chip.poison = s.chip.poison
            ∧ SMap.get 0 t.chip.scrubAt h.val = l + 1
            ∧ SMap.get 0 t.chip.scrubCorrected (Chip.stackOfLine l) = SMap.get 0 s.chip.scrubCorrected (Chip.stackOfLine l) + 1)
        ∧ (SMap.get false s.chip.poison l = false → s.chip.reacts 4 = false →
          ∃ t, exec (.scrubRead h .uncorrectable) s = .next t ∧ t.chip.mem = s.chip.mem ∧ SMap.get false t.chip.poison l = true
            ∧ (∀ k, k ≠ l → SMap.get false t.chip.poison k = SMap.get false s.chip.poison k)
            ∧ (t.chip.log.head?.map (fun r => r.code)) = some Code.uncorrectable ∧ SMap.get 0 t.chip.scrubAt h.val = l + 1))))
  ∧ (∀ (s : State) (d : DieId) (k : ClusterId), s.calm = true →
    (let counts (i : Instr) (ix : Nat) : Prop := exec i s = .next (s.on (s.chip.fresh.bump ix (d.val + 1) 1))
     (∀ o, s.chip.reg 0x5010 1 = 0 → exec (.sramScrub d o) s = .next (s.on s.chip.fresh))
     ∧ (s.chip.reg 0x5010 1 ≠ 0 →
        exec (.sramScrub d (.memory .clean)) s = .next (s.on s.chip.fresh)
        ∧ counts (.sramScrub d (.memory .corrected)) 0x80D2 ∧ counts (.sramScrub d (.memory .cacheCorrected)) 0x80D2
        ∧ counts (.sramScrub d (.memory .cacheRefetched)) 0x80D3
        ∧ (k.val / 16 = d.val → counts (.sramScrub d (.window (.corrected k))) 0x80D2)
        ∧ (k.val / 16 ≠ d.val → exec (.sramScrub d (.window (.corrected k))) s = .next (s.on s.chip.fresh))
        ∧ (s.chip.reacts 4 = false → ∃ t, exec (.sramScrub d (.memory .uncorrectable)) s = .next t ∧ t.chip.mem = s.chip.mem
            ∧ t.chip.reg 0x80D3 (d.val + 1) = (s.chip.reg 0x80D3 (d.val + 1) + 1) % 2 ^ 64))))
  ∧ (∀ (s : State) (k : ClusterId), s.plat.running = true →
    (∃ t, exec (.bypassEnter k) s = .next t ∧ SMap.get false t.chip.bypass k.val = true ∧ t.chip.mem = s.chip.mem
        ∧ (∀ c, c ≠ k.val → SMap.get false t.chip.bypass c = SMap.get false s.chip.bypass c))
    ∧ (∃ t, exec (.bypassLeave k) s = .next t ∧ SMap.get false t.chip.bypass k.val = false ∧ t.chip.mem = s.chip.mem
        ∧ (∀ c, c ≠ k.val → SMap.get false t.chip.bypass c = SMap.get false s.chip.bypass c)))
  ∧ (∀ (s : State) (k : ClusterId) (line : U64), s.plat.running = true → line.toNat % 64 = 0 →
    (∀ x ∈ s.chip.fab.lines, x.2.1 % 64 = 0) →
    ∃ t, exec (.remoteLineExpiry k line) s = .next t ∧ t.chip.fab.lines
        = s.chip.fab.lines.filter (fun x => decide (¬(x.1 = k.val ∧ x.2.1 = line.toNat % 2 ^ 62)))
      ∧ t.chip.mem = s.chip.mem ∧ t.chip.regs = s.chip.regs ∧ t.chip.fab.requests.length = s.chip.fab.requests.length)

/-! ## Jobs -/

/-- The server accepts a command, the package is awake, and no admission waits for members. -/
def Sys2Proof.Claims.accepts (s : State) (who : Client) (cmd : Nat) (b : CommandBlock) : Prop :=
  s.calm = true ∧ s.chip.reg 0x2300 4 ≠ 0 ∧ s.chip.reg 0x2200 2 = 0 ∧ s.chip.admitting = false ∧ s.chip.commandCode who cmd b = 0

/-- The package as an accepted command other than STOP starts on it: QUEUE_DEPTH counted it, LAST_ACCEPTED names it (R427,
R428). -/
def Sys2Proof.Claims.begun (s : State) (q : Queued) : Chip :=
  ((s.chip.fresh.setQueue [q]).setReg 0x6000 3 q.block.commandId.toNat).setQueue []

/-- No unit drains, and no disable is pending. -/
def Sys2Proof.Claims.steady (s : Chip) : Prop := s.pendingOff = [] ∧ ∀ u : UnitRef, s.unitState u ≠ 2

/-- Every stream of the job's cores is stopped, or none is. -/
def Sys2Proof.Claims.streamsAre (s : Chip) (x : Job) (stopped : Bool) : Prop :=
  ∀ c ∈ jobCores x, ∀ st, st < 4 → (s.stream c st).stopped = stopped

/-- The commands by CMD (R427). -/
def Sys2Proof.Claims.commandRows (who : Client) (b : CommandBlock) (store : List Extent) : List (Nat × Instr) :=
  [(1, .load who b store), (2, .start who b store), (3, .pause who b), (4, .resume who b), (5, .checkpoint who b),
   (6, .stop who b), (7, .batchWindow who b)]

/-- The command object (R35, R400, R427 to R429): a refused command answers its code and changes nothing; an accepted one answers
OK, becomes LAST_ACCEPTED, and has its effect. A host's LOAD of a staged bundle admits it to a slot in JOB_STATE 1, waiting for the
other members where it has some, or shows why not; START loads, and runs the job of one member that has nothing to load; PAUSE stops
the streams in JOB_STATE 4, that of a coupled job waits for its boundary; RESUME lets the streams go; CHECKPOINT asks for the next
boundary, or stops the streams of a job without a policy at once where no boundary has to come; STOP ends the job, that of a running
coupled job at its boundary; BATCH_WINDOW sets the window. -/
def Obligations.JobCommands : Prop :=
  (∀ (s : State) (who : Client) (b : CommandBlock) (store : List Extent), s.calm = true → s.chip.reg 0x2300 4 ≠ 0 →
    ∀ e ∈ Sys2Proof.Claims.commandRows who b store, s.chip.commandCode who e.1 b ≠ 0 →
      exec e.2 s = .next (s.on { s.chip.fresh with out := [.answer (s.chip.commandCode who e.1 b) []] }))
  ∧ (∀ (s : State) (who : Client) (b : CommandBlock) (store : List Extent) (x : Job), b.slot.toNat < 8 →
    s.chip.job b.slot.toNat = some x →
    (let j := b.slot.toNat
     let id := b.commandId.toNat
     let runs (i : Instr) (p : Chip → Prop) : Prop := ∃ t, exec i s = .next t ∧ t.chip.out = [.answer 0 []]
        ∧ t.chip.cmds = [] ∧ t.chip.reg 0x6000 3 = id ∧ t.chip.mem = s.chip.mem ∧ p t.chip
     (Sys2Proof.Claims.accepts s who 2 b → b.cflags = 0 → x.restore = none →
        (Chip.shardCount x ≠ 0 → runs (.start who b store) (fun t => t.jobState j = 2
          ∧ (t.job j).map (·.shardsLeft) = some (List.range (Chip.shardCount x))))
        ∧ (Chip.shardCount x = 0 → x.training = none → x.controller = none → jobCoupled x = false → x.loading = false →
          x.memberStates.map (·.node) = [s.chip.node] → s.chip.actsAsAnchor j = true → s.chip.serviceRuns j 7 = false →
          (∀ c ∈ jobCores x, s.chip.coreState c ≠ 2) →
          runs (.start who b store) (fun t => t.jobState j = 3 ∧ t.reg 0x6001 (16 * j + 5) = 1
            ∧ t.reg 0x6000 4 = id ∧ Sys2Proof.Claims.streamsAre t x false)))
     ∧ (Sys2Proof.Claims.accepts s who 3 b →
        (jobCoupled x = false → runs (.pause who b) (fun t => t.jobState j = 4 ∧ t.reg 0x6000 4 = id
          ∧ t.reg 0x6001 (16 * j + 11) = id ∧ Sys2Proof.Claims.streamsAre t x true))
        ∧ (jobCoupled x = true → runs (.pause who b) (fun t => t.jobState j = 3
          ∧ t.job j = some { x with pauseReq := true, waits := x.waits ++ [(3, id)] })))
     ∧ (Sys2Proof.Claims.accepts s who 4 b → (∀ c ∈ jobCores x, s.chip.coreState c ≠ 2) →
        runs (.resume who b) (fun t => t.jobState j = 3 ∧ t.reg 0x6000 4 = id ∧ t.reg 0x6001 (16 * j + 11) = id
          ∧ Sys2Proof.Claims.streamsAre t x false))
     ∧ (Sys2Proof.Claims.accepts s who 5 b →
        (x.policy.isSome = true → runs (.checkpoint who b) (fun t => t.jobState j = s.chip.jobState j
          ∧ t.job j = some { x with ckptReq := true, waits := x.waits ++ [(5, id)] }))
        ∧ (x.policy = none → jobCoupled x = true → s.chip.jobState j = 3 → runs (.checkpoint who b) (fun t => t.jobState j = 3
          ∧ t.job j = some { x with ckptReq := true, waits := x.waits ++ [(5, id)] }))
        ∧ (x.policy = none → (jobCoupled x = false ∨ s.chip.jobState j ≠ 3) → x.ckpt = none →
          runs (.checkpoint who b) (fun t => t.jobState j = s.chip.jobState j
          ∧ t.reg 0x6100 (16 * j + 6) = 1 ∧ Sys2Proof.Claims.streamsAre t x true
          ∧ ((t.job j).bind (·.ckpt)).map (·.quiesced) = some true)))
     ∧ (Sys2Proof.Claims.accepts s who 6 b → x.loading = false → s.chip.jobState j ≠ 2 → b.cflags = 0 →
        (jobCoupled x = true → s.chip.jobState j = 3 → runs (.stop who b) (fun t => t.jobState j = 6
          ∧ (t.job j).map (·.stopReq) = some true))
        ∧ ((jobCoupled x = false ∨ s.chip.jobState j ∈ [1, 4, 5]) → Sys2Proof.Claims.steady s.chip → Sys2Proof.Claims.unguarded s.chip →
          runs (.stop who b) (fun t => t.jobState j = 7 ∧ t.job j = none ∧ t.reg 0x6000 4 = id)))
     ∧ (Sys2Proof.Claims.accepts s who 7 b → runs (.batchWindow who b) (fun t => t.jobState j = 3 ∧ t.reg 0x6000 4 = id
          ∧ t.job j = some { x with batcher := { x.batcher with window := b.arg0.toNat } }))))
  ∧ (∀ (s : State) (who : Client) (b : CommandBlock) (store : List Extent), Sys2Proof.Claims.accepts s who 1 b →
    b.arg0.toNat % 256 = 1 → who.role = .host →
    (let h := { Sys2Proof.Claims.begun s ⟨1, who, b, store⟩ with staging := { s.chip.staging with reading := true } }
     let v := SMap.getRange 0 s.chip.staging.data b.arg1.toNat b.arg2.toNat
     let id := b.commandId.toNat
     (∀ r, h.judge v .local_ = some r → r.code ≠ 0 → ∃ t, exec (.load who b store) s = .next t ∧ t.chip.out = [.answer 0 []]
        ∧ t.chip.jobs = s.chip.jobs ∧ t.chip.mem = s.chip.mem ∧ t.chip.reg 0x6000 4 = id
        ∧ t.chip.reg 0x6001 0x82 = 9 ∧ t.chip.reg 0x6001 0x83 = r.code % 2 ^ 64
        ∧ (t.chip.log.head?.map (fun e => e.code)) = some r.code)
     ∧ (∀ j rg, h.judge v .local_ = none → h.freeSlot = some j → h.placeRegions v = some rg → (Bundle.members v).length ≤ 1 →
        ∃ t x, exec (.load who b store) s = .next t ∧ t.chip.out = [.answer 0 []] ∧ t.chip.job j = some x
          ∧ x.jobId = BitVec.ofNat 64 (Bundle.jobId v) ∧ t.chip.jobState j = 1 ∧ t.chip.reg 0x6000 4 = id
          ∧ t.chip.reg 0x6001 0x82 = 8 ∧ t.chip.reg 0x6001 0x83 = 0 ∧ t.chip.reg 0x6001 0x86 = j
          ∧ Sys2Proof.Claims.streamsAre t.chip x true)
     ∧ (∀ j rg, h.judge v .local_ = none → h.freeSlot = some j → h.placeRegions v = some rg → 1 < (Bundle.members v).length →
        ∃ t x, exec (.load who b store) s = .next t ∧ t.chip.out = [.answer 0 []] ∧ t.chip.job j = some x
          ∧ x.jobId = BitVec.ofNat 64 (Bundle.jobId v) ∧ x.loading = true ∧ t.chip.jobState j = 1
          ∧ t.chip.reg 0x6001 0x82 = 8 ∧ t.chip.reg 0x6001 0x86 = j)))

/-- The rest of job control (R35, R304, R305, R400, R427, R455): the bundle of the boot image is submitted once, at BOOT_PHASE 3; a
step boundary counts the step, and a job asked there to pause, to stop or to be checkpointed does so; at a quorum evaluation a job
whose live set is quorate and unchanged goes on, one whose live set has changed takes the next epoch, one that is not quorate
freezes, and one whose epoch is stale ends. -/
def Obligations.JobControl : Prop :=
  (∀ (s : State), s.calm = true →
    ((s.chip.boot.bundle = none ∨ s.chip.boot.submitted = true ∨ s.chip.reg 0x2300 4 ≠ 3) →
      exec .bootBundleSubmit s = .next (s.on s.chip.fresh))
    ∧ (∀ v sh j rg, s.chip.boot.bundle = some v → s.chip.boot.submitted = false → s.chip.reg 0x2300 4 = 3 →
      { s.chip.fresh with boot := { s.chip.boot with submitted := true } }.spreadHbm v.length = some sh →
      (let h := { s.chip.fresh with boot := { s.chip.boot with submitted := true }
                                    staging := { s.chip.staging with share := sh } }
       h.judge v .local_ = none → h.freeSlot = some j → h.placeRegions v = some rg → (Bundle.members v).length ≤ 1 →
       ∃ t x, exec .bootBundleSubmit s = .next t ∧ t.chip.boot.submitted = true ∧ t.chip.job j = some x
        ∧ x.jobId = BitVec.ofNat 64 (Bundle.jobId v) ∧ t.chip.jobState j = 1 ∧ t.chip.reg 0x6001 0x82 = 8)))
  ∧ (∀ (s : State) (slot : SlotId) (x : Job) (o : Nat), s.calm = true → s.chip.job slot = some x →
    (if jobCoupled x then x.exchange.head? else jobStepObj x) = some o → s.chip.pendingOff = [] →
    (x.policy.isSome = true ∨ (s.chip.lostMembers x).1 = []) →
    (let n := (s.chip.reg 0x6001 (16 * slot.val + 4) + 1) % 2 ^ 64
     ((s.chip.obj o).value.toNat < n + 1 → exec (.stepBoundary slot) s = .next (s.on s.chip.fresh))
     ∧ ((s.chip.jobState slot = 3 ∨ s.chip.jobState slot = 6) → n + 1 ≤ (s.chip.obj o).value.toNat →
        (x.stopReq = false → x.ckptReq = false → x.pauseReq = false →
          exec (.stepBoundary slot) s = .next (s.on (s.chip.fresh.setStatus slot 4 n)))
        ∧ (x.stopReq = false → x.ckptReq = true → x.pauseReq = false → x.policy.isSome = true →
          exec (.stepBoundary slot) s = .next (s.on ((s.chip.fresh.setStatus slot 4 n).setJob slot
            (some { x with ckptReq := false, selected := some n }))))
        ∧ (x.stopReq = false → x.ckptReq = false → x.pauseReq = true →
          ∃ t, exec (.stepBoundary slot) s = .next t ∧ t.chip.reg 0x6001 (16 * slot.val + 4) = n
            ∧ t.chip.jobState slot = 4 ∧ t.chip.mem = s.chip.mem ∧ Sys2Proof.Claims.streamsAre t.chip x true)
        ∧ (x.stopReq = true → x.ckptReq = false → x.afterCommit = false → Sys2Proof.Claims.steady s.chip →
          Sys2Proof.Claims.unguarded s.chip →
          ∃ t, exec (.stepBoundary slot) s = .next t ∧ t.chip.reg 0x6001 (16 * slot.val + 4) = n
            ∧ t.chip.jobState slot = 7 ∧ t.chip.job slot = none ∧ t.chip.mem = s.chip.mem))))
  ∧ (∀ (s : State) (slot : SlotId) (epochs : List (Nat × U32)) (x : Job), s.calm = true → s.chip.job slot = some x →
    (∀ p ∈ s.chip.engines, ∀ r ∈ p.2.service, r.purpose ≠ 3) →
    s.chip.jobState slot ≠ 0 → s.chip.jobState slot ≠ 5 → (∀ k, x.ckpt = some k → k.phase ≠ 1 ∨ k.begun = true) →
    (let ms := x.memberStates.map (·.node)
     let own := s.chip.reg 0x6001 (16 * slot.val + 5)
     let heard := (s.chip.node, own) :: (epochs.map (fun e => (e.1, e.2.toNat))).filter (fun e =>
        e.1 ≠ s.chip.node && ms.contains e.1 && s.chip.reachable e.1)
     let live := ms.filter (fun n => heard.contains (n, own))
     let quorate : Prop := x.members.length < 2 * live.length ∨ (2 * live.length = x.members.length ∧ x.anchor ∈ live)
     ((∃ e ∈ heard, own < e.2) → Sys2Proof.Claims.steady s.chip → Sys2Proof.Claims.unguarded s.chip →
        ∃ t, exec (.quorumSettle slot epochs) s = .next t ∧ t.chip.jobState slot = 7 ∧ t.chip.job slot = none
        ∧ t.chip.reg 0x6001 (16 * slot.val + 3) = Code.partitionMinority ∧ t.chip.mem = s.chip.mem)
     ∧ ((∀ e ∈ heard, e.2 ≤ own) →
     (quorate → x.live ≠ [] → x.ckpt = none → ((∃ n ∈ live, n ∉ x.live) ∨ (∃ n ∈ x.live, n ∉ live)) →
        ∃ t, exec (.quorumSettle slot epochs) s = .next t ∧ (t.chip.job slot).map (·.live) = some live
        ∧ t.chip.reg 0x6001 (16 * slot.val + 5) = (own + 1) % 2 ^ 64 ∧ t.chip.mem = s.chip.mem)
     ∧ (quorate → x.live = live → ∃ t, exec (.quorumSettle slot epochs) s = .next t ∧ t.chip.fab.settled = true
        ∧ t.chip.jobState slot = s.chip.jobState slot ∧ t.chip.job slot = some x ∧ t.chip.mem = s.chip.mem
        ∧ t.chip.reg 0x6001 (16 * slot.val + 5) = own
        ∧ (x.anchor ∈ live → x.anchor < 2 ^ 64 → t.chip.reg 0x6001 (16 * slot.val + 6) = x.anchor))
     ∧ (¬ quorate → ∃ t, exec (.quorumSettle slot epochs) s = .next t ∧ t.chip.fab.settled = true
        ∧ t.chip.jobState slot = 5 ∧ t.chip.job slot = some { x with thawTo := s.chip.jobState slot }
        ∧ t.chip.reg 0x6001 (16 * slot.val + 3) = Code.partitionMinority ∧ Sys2Proof.Claims.streamsAre t.chip x true
        ∧ (t.chip.log.head?.map (fun r => r.code)) = some Code.partitionMinority ∧ t.chip.mem = s.chip.mem))))

/-- What follows for slot j when the start or the load of its job x loses member n (R392, R393, R406): a free spare takes the
member's index and is told to load, or the start ends with the job; job status shows the code, the member and the spare. -/
def Sys2Proof.Claims.loses (s t : Chip) (j : Nat) (x : Job) (n : Nat) : Prop :=
  let shows (sp : Nat) : Prop := t.reg 0x6001 (16 * j + 3) = (if x.reparented then Code.broadcastReparented else Code.peerUnreachable)
    ∧ t.reg 0x6001 (16 * j + 7) = n ∧ t.reg 0x6001 (16 * j + 8) = sp ∧ t.mem = s.mem
  (∀ sp rest, x.spareMode = 1 → s.freeSpares x = sp :: rest → sp < 2 ^ 16 → shows sp
    ∧ t.job j = some { x with memberStates := Chip.putSpare x.memberStates n sp, lost := x.lost ++ [n] })
  ∧ ((x.spareMode ≠ 1 ∨ s.freeSpares x = []) → Sys2Proof.Claims.steady s → Sys2Proof.Claims.unguarded s →
      shows 0xFFFF ∧ t.jobState j = 7 ∧ t.job j = none)

/-- Starts (R388 to R397). Chunks are staged and passed on to the children from the one each asked for; a child leaves its
parent for the alternate and says so; the anchor probes a suspect, and a member that does not answer, or is not READY in time, is
lost; READY marks a member, RUN runs the job from epoch 1; shards are asked for at the capped rate, written where their tensor
lies, and read again once when their digest differs. -/
def Obligations.Starts : Prop :=
  (∀ (s : State) (id : U64) (child : U16) (k : Nat) (c : Broadcast), s.calm = true → s.chip.castFor id = c →
    s.chip.slotOfJobId id = 0xFF → s.chip.job 0xFF = none → c.jobId = id → c.children = [] →
    (SMap.get [] c.chunks k = [] → exec (.attach child k id) s = .next (s.on
        (s.chip.fresh.setCast { c with children := [(child.toNat, k)] })))
    ∧ (SMap.get [] c.chunks k ≠ [] → SMap.get [] c.chunks (k + 1) = [] →
        ∃ t, exec (.attach child k id) s = .next t ∧ t.chip.castOf id = some { c with children := [(child.toNat, k + 1)] }
          ∧ t.chip.reg 0x6200 3 = (s.chip.reg 0x6200 3 + 1) % 2 ^ 64 ∧ t.chip.mem = s.chip.mem)
    ∧ (c.complete = false → c.parent < 65536 → exec (.waiting (BitVec.ofNat 16 c.parent) id) s
        = .next (s.on (s.chip.fresh.setCast c)))
    ∧ (∀ bs, c.complete = false → SMap.get [] c.chunks 0 = [] → k ≠ 0 → k < 262144 → bs ≠ [] → bs.length ≤ 0x100000 →
        exec (.chunkArrival id k bs) s = .next (s.on (s.chip.fresh.setCast { c with chunks := SMap.insert c.chunks k bs }))))
  ∧ (∀ (s : State) (id : U64) (c : Broadcast), s.calm = true → s.chip.castOf id = some c →
    (∀ child : U16, exec (.detach child id) s = .next (s.on (s.chip.fresh.setCast
        { c with children := c.children.filter (fun e => e.1 ≠ child.toNat) })))
    ∧ (s.chip.slotOfJobId id = 0xFF → c.complete = false → c.anchor ≠ s.chip.node → c.alt ≠ c.parent → c.alt ∉ c.left →
        s.chip.reachable c.alt = true → c.parent < 2 ^ 16 →
        ∃ t, exec (.gapTimeout id) s = .next t ∧ t.chip.castOf id = some { c with parent := c.alt, left := c.parent :: c.left }
          ∧ t.chip.reg 0x6200 4 = (s.chip.reg 0x6200 4 + 1) % 2 ^ 64 ∧ t.chip.reg 0x6200 5 = c.parent ∧ t.chip.mem = s.chip.mem))
  ∧ (∀ (s : State) (id : U64) (anchor : U16) (u : Chip), s.calm = true → anchor.toNat ≠ s.chip.node →
    s.chip.fresh.route 4 0 s.chip.node anchor.toNat none true (.note anchor.toNat (.probeReply id)) = some u →
    exec (.probe id anchor) s = .next (s.on u))
  ∧ (∀ (s : State) (id : U64) (x : Job) (n : U16) (m : MemberState), s.calm = true → s.chip.slotOfJobId id < 8 →
    s.chip.job (s.chip.slotOfJobId id) = some x → s.chip.actsAsAnchor (s.chip.slotOfJobId id) = true →
    x.memberStates.find? (fun m => m.node = n.toNat) = some m →
    (let j := s.chip.slotOfJobId id
     let marked (f : MemberState → MemberState) : List MemberState := x.memberStates.map (fun m => if m.node = n.toNat then f m else m)
     ((x.loading = true ∨ s.chip.jobState j = 2) → ∀ r : U16, ∃ t, exec (.suspect r n id) s = .next t
        ∧ t.chip.job j = some { x with reparented := true, memberStates := marked (fun m => { m with suspect := true }) }
        ∧ t.chip.mem = s.chip.mem)
     ∧ (m.suspect = true → n.toNat ≠ s.chip.node →
        ∃ t, exec (.probeTimeout id n) s = .next t ∧ Sys2Proof.Claims.loses s.chip t.chip j x n.toNat)
     ∧ ((∀ m ∈ x.memberStates, m.node = n.toNat → m.suspect = false) →
        exec (.probeTimeout id n) s = .next (s.on s.chip.fresh))
     ∧ ((x.loading = true ∨ s.chip.jobState j = 2) → Chip.awaited x = [n.toNat] → n.toNat ≠ s.chip.node →
        ∃ t, exec (.startTimeout id) s = .next t ∧ Sys2Proof.Claims.loses s.chip t.chip j x n.toNat)
     ∧ (x.loading = true → m.loaded = false → s.chip.jobState j = 1 →
        (let ms := marked (fun m => { m with loaded := true, suspect := false })
         ∃ t, exec (.ready id n 0) s = .next t ∧ t.chip.mem = s.chip.mem ∧ t.chip.jobState j = 1
          ∧ (ms.all (·.loaded) = false → t.chip.job j = some { x with memberStates := ms })
          ∧ (ms.all (·.loaded) = true → (t.chip.job j).map (·.loading) = some false
              ∧ (∀ cid, x.waits = [(1, cid)] → cid < 2 ^ 32 → t.chip.reg 0x6000 4 = cid))))
     ∧ (x.loading = false → s.chip.jobState j = 2 → m.loaded = true →
        (let ms := marked (fun m => { m with ready := true, suspect := false })
         ms.all (·.ready) = false →
         exec (.ready id n 0) s = .next (s.on (s.chip.fresh.setJob j (some { x with memberStates := ms })))))))
  ∧ (∀ (s : State) (id : U64) (x : Job), s.calm = true → s.chip.slotOfJobId id < 8 →
    s.chip.job (s.chip.slotOfJobId id) = some x → s.chip.actsAsAnchor (s.chip.slotOfJobId id) = false →
    s.chip.jobState (s.chip.slotOfJobId id) = 2 → (∃ m ∈ x.memberStates, m.node = s.chip.node ∧ m.ready = true) → x.restore = none →
    (∀ c ∈ jobCores x, s.chip.coreState c ≠ 2) →
    ∃ t, exec (.run id) s = .next t ∧ t.chip.jobState (s.chip.slotOfJobId id) = 3
      ∧ t.chip.reg 0x6001 (16 * s.chip.slotOfJobId id + 5) = 1
      ∧ (t.chip.job (s.chip.slotOfJobId id)).map (·.started) = some true ∧ Sys2Proof.Claims.streamsAre t.chip x false)
  ∧ (∀ (s : State) (slot : SlotId) (x : Job), s.calm = true → s.chip.job slot = some x → s.chip.jobState slot = 2 →
    (x.reading = false → x.shardsLeft ≠ [] → exec (.shardLoadStart slot) s = .next (s.on (s.chip.fresh.setJob slot
        (some { x with reading := true, asked := Chip.rateCap x }))))
    ∧ (x.reading = true → exec (.loadPacingWindow slot) s = .next (s.on (s.chip.fresh.setJob slot
        (some { x with asked := x.asked + Chip.rateCap x }))))
    ∧ (∀ n bs dg p e tn, x.reading = true → n ∈ x.shardsLeft → x.pacing = some p → p.shards[n]? = some e →
        x.tensors.find? (fun t => t.id = e.tensor) = some tn → bs.length = Bundle.tensorBytes tn →
        (Chip.rateCap x = 0 ∨ bs.length ≤ x.asked) →
        (let y := { x with asked := x.asked - bs.length, shardsLeft := x.shardsLeft.filter (fun i => i ≠ n)
                           retried := x.retried.filter (fun i => i ≠ n) }
         ((e.digests = 0 ∨ sha3_512 bs = dg) → y.shardsLeft ≠ [] → s.chip.poison = [] →
            exec (.shardReadDone slot n bs dg) s = .next (s.on { s.chip.fresh.setJob slot (some y) with
              mem := (tensorRanges tn bs).foldl (fun m r => SMap.setRange 0 m r.1 r.2) s.chip.mem }))
         ∧ (e.digests ≠ 0 → sha3_512 bs ≠ dg → n ∉ x.retried →
            exec (.shardReadDone slot n bs dg) s = .next (s.on (s.chip.fresh.setJob slot
              (some { x with retried := n :: x.retried, asked := x.asked - bs.length }))))
         ∧ (e.digests ≠ 0 → sha3_512 bs ≠ dg → n ∈ x.retried → s.chip.actsAsAnchor slot = false →
            exec (.shardReadDone slot n bs dg) s = .next (s.on (s.chip.fresh.sendNote 4 (s.chip.reg 0x6001 (16 * slot.val + 6))
              (.ready x.jobId Code.checkMismatch)))))))

/-- The controller of slot j after a step: entries in the states `es`, step n, DECISION_OBJECT signalled. -/
def Sys2Proof.Claims.decided (s t : Chip) (j : Nat) (r : Training) (n : Nat) (es : List Nat) : Prop :=
  (∃ c, (t.job j).bind (·.controller) = some c ∧ c.step = n ∧ c.sent = false ∧ c.totals = [] ∧ c.entries.map (·.state) = es)
  ∧ t.posted = s.posted ++ [{ obj := r.decisionObj, amount := 1, unit := BitVec.ofNat 32 s.buristUnit, entry := none
                              after := s.openWrites s.buristUnit }]
  ∧ t.reg 0x8020 (16 * j + 3) = (s.reg 0x8020 (16 * j + 3) + 1) % 2 ^ 64

/-- Checkpoints, training, coupling and the batcher (R114, R162, R163, R176, R367, R399, R400, R402, R405, R406). A part that
reaches its boundary opens its gates, at a step that a checkpoint in progress takes the place of with the skip counted; a quiesced
job goes on; write step 3 is followed by the commit, write step 4 commits the generation, and a refused write or the time limit
abandons the checkpoint. A member sends its totals, and the anchor keeps them; it withholds a step that is not finite or whose
totals do not come, and otherwise decides, which without CONTROL_EN leaves all states; the vector sets the entries' states; an
evaluation is judged once, becomes the reference when it passes its gate, and is counted when it does not; a transfer of the
coupler begins when its objects allow; a batch closes at 64 rows, or earlier when its window ends, and at no other time. -/
def Obligations.RunningJobs : Prop :=
  (∀ (s : State) (slot : SlotId) (part : Part) (x : Job), s.calm = true → s.chip.job slot = some x → s.chip.jobState slot = 3 →
    (let n := x.gates.getD (partIx part) 0
     (∀ pol, x.policy = some pol → s.chip.mustStop slot x = false → s.chip.partReached x part = true →
        (let gates : List Posted := (x.boundary.filter (fun b => (partCores x part).contains b.1)).map (fun b =>
           ({ obj := b.2.2, amount := 1, unit := BitVec.ofNat 32 s.chip.buristUnit, entry := none
              after := s.chip.openWrites s.chip.buristUnit } : Posted))
         let x1 := { x with gates := x.gates.set (partIx part) (n + 1) }
         let sel : Prop := (pol.interval ≠ 0 ∧ (n + 1) % pol.interval = 0) ∨ x.selected = some n
         (¬ sel → exec (.checkpointBoundary slot part) s = .next (s.on
            { s.chip.fresh.setJob slot (some x1) with posted := s.chip.posted ++ gates }))
         ∧ (∀ k, sel → x.skipStep ≠ some n → x.ckpt = some k → k.phase ≠ 0 →
            exec (.checkpointBoundary slot part) s = .next (s.on
              { (s.chip.fresh.setJob slot (some { x1 with skipStep := some n })).bump 0x6100 (16 * slot.val + 3) 1 with
                posted := s.chip.posted ++ gates }))))
     ∧ (∀ pol, x.policy = some pol → s.chip.mustStop slot x = false → s.chip.partReached x part = false →
        exec (.checkpointBoundary slot part) s = .next (s.on s.chip.fresh))
     ∧ (∀ k, x.policy = none → x.ckpt = some k → k.quiesced = true → s.chip.quiet slot x = true →
        (∀ c ∈ jobCores x, s.chip.coreState c ≠ 2) → x.afterCommit = false →
        ∃ t, exec (.checkpointBoundary slot .whole) s = .next t ∧ t.chip.reg 0x6100 (16 * slot.val + 6) = 0
          ∧ ((t.chip.job slot).map (·.ckpt)) = some none ∧ t.chip.mem = s.chip.mem ∧ Sys2Proof.Claims.streamsAre t.chip x false)))
  ∧ (∀ (s : State) (slot : SlotId) (x : Job) (k : CkptRun) (pol : CkptPolicy), s.calm = true → s.chip.job slot = some x →
    x.ckpt = some k → x.policy = some pol → x.afterCommit = false →
    (let abandoned (i : Instr) : Prop := ∃ t, exec i s = .next t ∧ ((t.chip.job slot).map (·.ckpt)) = some none
        ∧ t.chip.reg 0x6100 (16 * slot.val + 2) = (s.chip.reg 0x6100 (16 * slot.val + 2) + 1) % 2 ^ 64
        ∧ t.chip.reg 0x6100 (16 * slot.val + 6) = 0 ∧ t.chip.reg 0x6001 (16 * slot.val + 3) = Code.checkpointUncommitted
        ∧ (t.chip.job slot).map (·.nextGen) = some x.nextGen ∧ t.chip.mem = s.chip.mem
     (Sys2Proof.Claims.steady s.chip → Sys2Proof.Claims.unguarded s.chip → abandoned (.commitTimeout slot))
     ∧ (k.phase ≠ 0 → s.chip.mayStore slot = true → (k.phase ≠ 1 ∨ s.chip.actsAsAnchor slot = false ∨ k.begun = true) →
        (Sys2Proof.Claims.steady s.chip → Sys2Proof.Claims.unguarded s.chip → abandoned (.checkpointWriteStep slot false))
        ∧ (k.failed = 0 → s.chip.writesOpen slot = false →
          (k.phase = 3 → s.chip.actsAsAnchor slot = false → exec (.checkpointWriteStep slot true) s
              = .next (s.on (s.chip.fresh.setJob slot (some { x with ckpt := some { k with phase := 4 } }))))
          ∧ (k.phase = 4 → ∃ t, exec (.checkpointWriteStep slot true) s = .next t
              ∧ (t.chip.job slot).map (fun y => (y.ckpt, y.nextGen, y.ckptSeq)) = some (none, 1 - x.nextGen, x.ckptSeq + 1)
              ∧ t.chip.reg 0x6100 (16 * slot.val + 1) = (s.chip.reg 0x6100 (16 * slot.val + 1) + 1) % 2 ^ 64
              ∧ t.chip.reg 0x6100 (16 * slot.val + 4) = k.step % 2 ^ 64 ∧ t.chip.reg 0x6100 (16 * slot.val + 6) = 0
              ∧ t.chip.mem = s.chip.mem)))))
  ∧ (∀ (s : State) (slot : SlotId) (x : Job) (r : Training) (c : Controller), s.calm = true → s.chip.job slot = some x →
    x.training = some r → x.controller = some c → s.chip.trains slot = true → c.entries.length = r.entries.length →
    (let states := c.entries.map (·.state)
     (c.sent = false → s.chip.buristMet r.doneObj (Chip.trainingCores x * (c.step + 1)) = true → s.chip.actsAsAnchor slot = false →
        (let u := s.chip.fresh.memberTotals slot x r c
         ∃ t, exec (.trainingTotals slot) s = .next t ∧ t.chip.job slot = some { x with controller := some { c with sent := true } }
          ∧ t.chip.reg 0x8020 (16 * slot.val + 5) = (s.chip.reg 0x8020 (16 * slot.val + 5) + u.probes) % 2 ^ 64
          ∧ t.chip.reg 0x8020 (16 * slot.val + 6) = (s.chip.reg 0x8020 (16 * slot.val + 6) + u.discarded) % 2 ^ 64
          ∧ t.chip.mem = s.chip.mem))
     ∧ (c.sent = false → s.chip.buristMet r.doneObj (Chip.trainingCores x * (c.step + 1)) = true → s.chip.actsAsAnchor slot = true →
        s.chip.node ∈ Chip.activeMembers x →
        (let c1 := { c with sent := true
                            totals := c.totals.filter (fun u => u.node ≠ s.chip.node) ++ [s.chip.fresh.memberTotals slot x r c] }
         Chip.unreported x c1 ≠ [] →
         ∃ t, exec (.trainingTotals slot) s = .next t ∧ t.chip.job slot = some { x with controller := some c1 }))
     ∧ (∀ m : Totals, s.chip.actsAsAnchor slot = true → m.step = c.step → m.node ∈ Chip.activeMembers x →
        (let c1 := { c with totals := c.totals.filter (fun u => u.node ≠ m.node) ++ [m] }
         (Chip.unreported x c1 ≠ [] → exec (.memberTotals slot m) s
            = .next (s.on (s.chip.fresh.setJob slot (some { x with controller := some c1 }))))
         ∧ (Chip.unreported x c1 = [] → c1.totals.any (·.nonfinite) = true → c.withheldRun + 1 < r.nonfiniteLimit →
            ∃ t, exec (.memberTotals slot m) s = .next t
              ∧ Sys2Proof.Claims.decided s.chip t.chip slot r (c.step + 1) states
              ∧ t.chip.reg 0x8020 (16 * slot.val + 4) = (s.chip.reg 0x8020 (16 * slot.val + 4) + 1) % 2 ^ 64)
         ∧ (Chip.unreported x c1 = [] → c1.totals.any (·.nonfinite) = false → r.controlEn = false →
            ∃ t, exec (.memberTotals slot m) s = .next t
              ∧ Sys2Proof.Claims.decided s.chip t.chip slot r (c.step + 1) states
              ∧ t.chip.reg 0x8020 (16 * slot.val + 4) = s.chip.reg 0x8020 (16 * slot.val + 4))))
     ∧ (s.chip.actsAsAnchor slot = true → c.sent = true → Chip.unreported x c ≠ [] →
        ∃ t, exec (.decisionExpiry slot) s = .next t ∧ Sys2Proof.Claims.decided s.chip t.chip slot r (c.step + 1) states
          ∧ t.chip.reg 0x8020 (16 * slot.val + 4) = (s.chip.reg 0x8020 (16 * slot.val + 4) + 1) % 2 ^ 64)
     ∧ (∀ (withheld : Bool) (vec : List Byte), s.chip.actsAsAnchor slot = false → vec.length = c.entries.length →
        (∀ b ∈ vec, b.toNat < 3) →
        ∃ t, exec (.stateVector slot (c.step + 1) withheld vec) s = .next t
          ∧ Sys2Proof.Claims.decided s.chip t.chip slot r (c.step + 1) (vec.map (·.toNat))
          ∧ t.chip.reg 0x8020 (16 * slot.val + 4) = (s.chip.reg 0x8020 (16 * slot.val + 4) + (if withheld then 1 else 0)) % 2 ^ 64)
     ∧ (r.evalInterval ≠ 0 → c.step ≠ 0 → c.step % r.evalInterval = 0 → c.evaluated ≠ c.step →
        s.chip.poison = [] →
        (let off := ((x.tensors.find? (fun tn => tn.id = r.evalLoss)).bind (fun tn => tn.pieces.head?.map Prod.fst)).getD 0
         let code := leNat (s.chip.readMem off 4)
         let kept (t : State) (ref : Option U64) : Prop := ∃ d, (t.chip.job slot).bind (·.controller) = some d
            ∧ d.evaluated = c.step ∧ d.lossRef = ref ∧ d.entries = c.entries ∧ t.chip.mem = s.chip.mem
         (c.lossRef = none → ∃ t, exec (.evaluation slot) s = .next t ∧ kept t (some (BitVec.ofNat 64 code)))
         ∧ (∀ l, c.lossRef = some l →
            (let passes := (f32 code).isFinite && FVal.le (f32 code) (FVal.mul (f32 r.evalGate.toNat) (f32 l.toNat))
             (passes = true → ∃ t, exec (.evaluation slot) s = .next t ∧ kept t (some (BitVec.ofNat 64 code)))
             ∧ (passes = false → ∃ t, exec (.evaluation slot) s = .next t ∧ kept t (some l)
                ∧ t.chip.reg 0x8020 (16 * slot.val + 0x0B) = (s.chip.reg 0x8020 (16 * slot.val + 0x0B) + 1) % 2 ^ 64)))))))
  ∧ (∀ (s : State) (slot : SlotId) (x : Job), s.calm = true → s.chip.job slot = some x → s.chip.poison = [] →
    (let begins (i : Instr) (d : Job → Direction) (stack purpose arrived : Nat) : Prop :=
        s.chip.mayTransfer slot x (d x).next = true → (d x).engine = none → s.chip.transferEngines stack ≠ [] →
        ∃ t y e, exec i s = .next t ∧ t.chip.job slot = some y ∧ (d y).next = (d x).next + 1
          ∧ e ∈ s.chip.transferEngines stack
          ∧ (∀ a, a < (d x).block ∨ (d x).block + 32 ≤ a → SMap.get 0 t.chip.mem a = SMap.get 0 s.chip.mem a)
          ∧ (Sys2Proof.Claims.unguarded s.chip → (d y).engine ≠ none → (d y).engine = some e
              ∧ ∃ r, (t.chip.engine e).service = (s.chip.engine e).service ++ [r] ∧ r.purpose = purpose ∧ r.slot = slot.val
                ∧ r.desc.arrivalObj = BitVec.ofNat 16 (refOfObj arrived) ∧ r.desc.seq.toNat = (d x).next % 2 ^ 64)
     let p := x.forward.next % 2
     let q := x.ret.next % 2
     ((Chip.fieldTensor x p).isSome = true → (Chip.fieldTensor x (4 + p)).isSome = true →
        (∀ o ∈ Chip.forwardTargets x x.forward.next, s.chip.buristMet o.1 o.2 = true) →
        begins (.forwardTransfer slot) (·.forward) ((bindStacks x.lower.bundle).getD 0 0) 1 (x.exchange.getD 1 0))
     ∧ ((Chip.fieldTensor x (2 + q)).isSome = true → (Chip.fieldTensor x (6 + q)).isSome = true →
        (∀ o ∈ Chip.returnTargets x x.ret.next, s.chip.buristMet o.1 o.2 = true) →
        begins (.returnTransfer slot) (·.ret) ((bindStacks x.lower.bundle).getD 2 0) 2 (x.exchange.getD 4 0))
     ∧ (∀ rows expired, s.chip.jobState slot = 3 → (rows = 64 ∨ (expired = true ∧ 0 < rows ∧ rows < 64)) →
        exec (.inferenceBatchClose slot rows expired) s = .next (s.on (s.chip.fresh.setJob slot
          (some { x with batcher := { x.batcher with closed := x.batcher.closed + 1, rows := rows } }))))
     ∧ (∀ rows expired, ¬(s.chip.jobState slot = 3 ∧ (rows = 64 ∨ (expired = true ∧ 0 < rows ∧ rows < 64))) →
        exec (.inferenceBatchClose slot rows expired) s = .next (s.on s.chip.fresh))))

end
end

