-- ==== Sys2Proof/Laws/Sparse.lean ====
section
/-! SUPPORT. Laws of sparse maps: a read after a write, and that every operation keeps the canonical form. -/

namespace Sys2Proof.SMap

variable {α : Type}

/-! ## Reads -/

@[simp] theorem get_nil (d : α) (k : Nat) : get d [] k = d := rfl

/-- A key below every listed key reads as the default. -/
theorem get_of_lt (d : α) : ∀ (m : SMap α) (k : Nat), (∀ p ∈ m, k < p.1) → get d m k = d
  | [], _, _ => rfl
  | (j, v) :: t, k, h => by
    have hj : k < j := h (j, v) List.mem_cons_self
    have ht := get_of_lt d t k (fun p hp => h p (List.mem_cons_of_mem _ hp))
    simp [get, Nat.ne_of_gt hj, ht]

theorem get_of_not_mem (d : α) : ∀ (m : SMap α) (k : Nat), (∀ p ∈ m, p.1 ≠ k) → get d m k = d
  | [], _, _ => rfl
  | (j, v) :: t, k, h => by
    have hj : j ≠ k := h (j, v) List.mem_cons_self
    have ht := get_of_not_mem d t k (fun p hp => h p (List.mem_cons_of_mem _ hp))
    simp [get, hj, ht]

/-- Reading an appended list: the first list that has the key decides. -/
theorem get_append (d : α) : ∀ (m n : SMap α) (k : Nat),
    get d (m ++ n) k = if m.any (fun p => p.1 = k) then get d m k else get d n k
  | [], _, _ => by simp
  | (j, v) :: t, n, k => by
    by_cases h : j = k
    · simp [get, h]
    · simp only [List.cons_append, get, List.any_cons, h, decide_false, Bool.false_or]
      exact get_append d t n k

/-- Filtering by a test on keys leaves a kept key as it was. -/
theorem get_filter_key (d : α) (q : Nat → Bool) : ∀ (m : SMap α) (k : Nat), q k = true →
    get d (m.filter (fun p => q p.1)) k = get d m k
  | [], _, _ => rfl
  | (j, v) :: t, k, h => by
    by_cases hj : q j = true
    · simp [hj, get, get_filter_key d q t k h]
    · have : j ≠ k := by rintro rfl; exact hj h
      simp [hj, get, this, get_filter_key d q t k h]

theorem get_filter_key_false (d : α) (q : Nat → Bool) (m : SMap α) (k : Nat) (h : q k = false) :
    get d (m.filter (fun p => q p.1)) k = d := by
  apply get_of_not_mem
  intro p hp e
  have := (List.mem_filter.mp hp).2
  simp [e, h] at this

@[simp] theorem get_insert_self (d : α) : ∀ (m : SMap α) (k : Nat) (v : α), get d (m.insert k v) k = v
  | [], k, v => by simp [insert, get]
  | (j, w) :: t, k, v => by
    unfold insert
    split
    · simp [get]
    · split
      · simp [get]
      · next h1 h2 => simp [get, Ne.symm h2, get_insert_self d t k v]

theorem get_insert_of_ne (d : α) : ∀ (m : SMap α) (k : Nat) (v : α) (i : Nat), i ≠ k →
    get d (m.insert k v) i = get d m i
  | [], k, v, i, h => by simp [insert, get, Ne.symm h]
  | (j, w) :: t, k, v, i, h => by
    unfold insert
    split
    · simp [get, Ne.symm h]
    · split
      · next h2 => subst h2; simp [get, Ne.symm h]
      · simp [get, get_insert_of_ne d t k v i h]

/-! ## Numbered lists -/

theorem get_number (d : α) : ∀ (a : Nat) (vs : List α) (k : Nat), a ≤ k → get d (number a vs) k = vs.getD (k - a) d
  | a, [], k, _ => by simp [number]
  | a, v :: t, k, h => by
    by_cases e : a = k
    · subst e; simp [number, get]
    · have h1 : a + 1 ≤ k := by omega
      have h2 : k - a = (k - (a + 1)) + 1 := by omega
      simp [number, get, e, get_number d (a + 1) t k h1, h2]

theorem mem_number_bounds : ∀ (a : Nat) (vs : List α) (p : Nat × α), p ∈ number a vs → a ≤ p.1 ∧ p.1 < a + vs.length
  | a, [], p, h => by simp [number] at h
  | a, v :: t, p, h => by
    simp only [number, List.mem_cons] at h
    rcases h with rfl | h
    · simp
    · have := mem_number_bounds (a + 1) t p h
      simp only [List.length_cons]; omega

theorem number_keys_nodup : ∀ (a : Nat) (vs : List α), ((number a vs).map Prod.fst).Nodup
  | _, [] => by simp [number]
  | a, v :: t => by
    simp only [number, List.map_cons, List.nodup_cons, number_keys_nodup (a + 1) t, and_true]
    intro h
    obtain ⟨p, hp, e⟩ := List.mem_map.mp h
    have := (mem_number_bounds (a + 1) t p hp).1
    omega

theorem number_pairwise : ∀ (a : Nat) (vs : List α), (number a vs).Pairwise (fun p q => p.1 < q.1)
  | _, [] => by simp [number]
  | a, v :: t => by
    simp only [number, List.pairwise_cons, number_pairwise (a + 1) t, and_true]
    intro p hp
    have := (mem_number_bounds (a + 1) t p hp).1
    omega

@[simp] theorem length_getRange (d : α) (m : SMap α) (a n : Nat) : (getRange d m a n).length = n := by
  simp [getRange]

variable [DecidableEq α]

@[simp] theorem get_set_self (d : α) (m : SMap α) (k : Nat) (v : α) : get d (set d m k v) k = v := by
  unfold set
  split
  · next h => rw [h]; exact get_filter_key_false d (fun j => decide (j ≠ k)) m k (by simp)
  · simp

/-- Another key reads as before, whatever default each side takes. -/
theorem get_set_of_ne (e d : α) (m : SMap α) (k : Nat) (v : α) (i : Nat) (h : i ≠ k) :
    get e (set d m k v) i = get e m i := by
  unfold set
  split
  · exact get_filter_key e (fun j => decide (j ≠ k)) m i (by simp [h])
  · exact get_insert_of_ne e m k v i h

theorem get_set (d : α) (m : SMap α) (k : Nat) (v : α) (i : Nat) :
    get d (set d m k v) i = if i = k then v else get d m i := by
  split
  · next h => rw [h, get_set_self]
  · next h => exact get_set_of_ne d d m k v i h

/-! ## Runs of values -/

theorem get_filter_dflt (d : α) : ∀ (m : SMap α) (k : Nat), (m.map Prod.fst).Nodup →
    get d (m.filter (fun p => decide (p.2 ≠ d))) k = get d m k
  | [], _, _ => rfl
  | (j, v) :: t, k, h => by
    simp only [List.map_cons, List.nodup_cons] at h
    have ih := get_filter_dflt d t k h.2
    by_cases hv : v = d
    · subst hv
      by_cases e : j = k
      · subst e
        have h0 : get v t j = v := get_of_not_mem v t j (fun p hp e => h.1 (List.mem_map.mpr ⟨p, hp, e⟩))
        simp only [ne_eq, not_true_eq_false, decide_false, Bool.false_eq_true, not_false_eq_true,
          List.filter_cons_of_neg, get, if_true]
        simpa [h0] using ih
      · simpa [get, e] using ih
    · by_cases e : j = k
      · simp [hv, get, e]
      · simpa [hv, get, e] using ih

/-- A read after writing a run of values. -/
theorem get_setRange (d : α) (m : SMap α) (a : Nat) (vs : List α) (k : Nat) :
    get d (setRange d m a vs) k = if a ≤ k ∧ k < a + vs.length then vs.getD (k - a) d else get d m k := by
  unfold setRange
  have hlow : get d (m.filter (fun p => decide (p.1 < a))) k = if k < a then get d m k else d := by
    split
    · next h => exact get_filter_key d (fun j => decide (j < a)) m k (by simpa using h)
    · next h => exact get_filter_key_false d (fun j => decide (j < a)) m k (by simpa using h)
  have hhigh : get d (m.filter (fun p => decide (a + vs.length ≤ p.1))) k
      = if a + vs.length ≤ k then get d m k else d := by
    split
    · next h => exact get_filter_key d (fun j => decide (a + vs.length ≤ j)) m k (by simpa using h)
    · next h => exact get_filter_key_false d (fun j => decide (a + vs.length ≤ j)) m k (by simpa using h)
  have hmid : get d ((number a vs).filter (fun p => decide (p.2 ≠ d))) k
      = if a ≤ k ∧ k < a + vs.length then vs.getD (k - a) d else d := by
    rw [get_filter_dflt d _ k (number_keys_nodup a vs)]
    split
    · next h => exact get_number d a vs k h.1
    · next h =>
      apply get_of_not_mem
      intro p hp e
      have := mem_number_bounds a vs p hp
      omega
  have alow : (m.filter (fun p => decide (p.1 < a))).any (fun p => decide (p.1 = k)) = true → k < a := by
    intro h
    obtain ⟨p, hp, e⟩ := List.any_eq_true.mp h
    have h1 := (List.mem_filter.mp hp).2
    simp at h1 e; omega
  have amid : ((number a vs).filter (fun p => decide (p.2 ≠ d))).any (fun p => decide (p.1 = k)) = true →
      a ≤ k ∧ k < a + vs.length := by
    intro h
    obtain ⟨p, hp, e⟩ := List.any_eq_true.mp h
    have h1 := mem_number_bounds a vs p (List.mem_filter.mp hp).1
    simp at e; omega
  rw [get_append, List.any_append]
  by_cases h1 : (m.filter (fun p => decide (p.1 < a))).any (fun p => decide (p.1 = k)) = true
  · have hk := alow h1
    simp only [h1, Bool.true_or, if_true]
    rw [get_append, if_pos h1, hlow, if_pos hk, if_neg (by omega)]
  · by_cases h2 : ((number a vs).filter (fun p => decide (p.2 ≠ d))).any (fun p => decide (p.1 = k)) = true
    · have hk := amid h2
      simp only [h2, Bool.or_true, if_true]
      rw [get_append, if_neg h1, hmid, if_pos hk, if_pos hk]
    · have h1' : (m.filter (fun p => decide (p.1 < a))).any (fun p => decide (p.1 = k)) = false :=
        Bool.eq_false_iff.mpr h1
      have h2' : ((number a vs).filter (fun p => decide (p.2 ≠ d))).any (fun p => decide (p.1 = k)) = false :=
        Bool.eq_false_iff.mpr h2
      simp only [h1', h2', Bool.or_false, Bool.false_eq_true, if_false]
      rw [hhigh]
      by_cases hk : k < a
      · have : get d m k = d := by
          have := hlow
          rw [if_pos hk] at this
          rw [← this]
          apply get_of_not_mem
          intro p hp e
          have := List.any_eq_false.mp h1' p hp
          simp [e] at this
        rw [if_neg (by omega), if_neg (by omega), this]
      · by_cases hk2 : k < a + vs.length
        · rw [if_neg (by omega), if_pos ⟨by omega, hk2⟩]
          have := hmid
          rw [if_pos ⟨by omega, hk2⟩] at this
          rw [← this]
          symm
          apply get_of_not_mem
          intro p hp e
          have := List.any_eq_false.mp h2' p hp
          simp [e] at this
        · rw [if_pos (by omega), if_neg (by omega)]

/-- Reading back a run of values. -/
@[simp] theorem getRange_setRange_self (d : α) (m : SMap α) (a : Nat) (vs : List α) :
    getRange d (setRange d m a vs) a vs.length = vs := by
  unfold getRange
  apply List.ext_getElem
  · simp
  · intro i h1 h2
    have h3 : i < vs.length := by simpa using h1
    simp [get_setRange, h3]

/-- A run that does not meet the written run reads as before. -/
theorem getRange_setRange_apart (d : α) (m : SMap α) (a : Nat) (vs : List α) (b n : Nat)
    (h : b + n ≤ a ∨ a + vs.length ≤ b) : getRange d (setRange d m a vs) b n = getRange d m b n := by
  unfold getRange
  apply List.map_congr_left
  intro i hi
  have := List.mem_range.mp hi
  rw [get_setRange, if_neg (by omega)]

/-! ## The canonical form -/

theorem wf_cons {d : α} {j : Nat} {v : α} {t : SMap α} :
    wf d ((j, v) :: t) = true ↔ v ≠ d ∧ (∀ p ∈ t, j < p.1) ∧ wf d t = true := by
  simp [wf, and_assoc]

/-- The canonical form: rising keys, and no entry at the default. -/
theorem wf_iff (d : α) : ∀ (m : SMap α), wf d m = true ↔ m.Pairwise (fun p q => p.1 < q.1) ∧ ∀ p ∈ m, p.2 ≠ d
  | [] => by simp [wf]
  | (j, v) :: t => by
    rw [wf_cons, wf_iff d t]
    simp only [List.pairwise_cons, List.forall_mem_cons]
    constructor
    · rintro ⟨h1, h2, h3, h4⟩; exact ⟨⟨h2, h3⟩, h1, h4⟩
    · rintro ⟨⟨h2, h3⟩, h1, h4⟩; exact ⟨h1, h2, h3, h4⟩

theorem wf_filter (d : α) (m : SMap α) (q : Nat × α → Bool) (h : wf d m = true) : wf d (m.filter q) = true := by
  rw [wf_iff] at h ⊢
  exact ⟨h.1.filter q, fun p hp => h.2 p (List.mem_filter.mp hp).1⟩

theorem wf_insert (d : α) : ∀ (m : SMap α) (k : Nat) (v : α), wf d m = true → v ≠ d → wf d (m.insert k v) = true
  | [], k, v, _, hv => by simp [insert, wf, hv]
  | (j, w) :: t, k, v, h, hv => by
    obtain ⟨h1, h2, h3⟩ := wf_cons.mp h
    unfold insert
    split
    · next hk =>
      refine wf_cons.mpr ⟨hv, ?_, h⟩
      intro p hp
      rcases List.mem_cons.mp hp with rfl | hp
      · exact hk
      · exact Nat.lt_trans hk (h2 p hp)
    · split
      · next hk => subst hk; exact wf_cons.mpr ⟨hv, h2, h3⟩
      · next hk1 hk2 =>
        refine wf_cons.mpr ⟨h1, ?_, wf_insert d t k v h3 hv⟩
        intro p hp
        have : p ∈ t ∨ p = (k, v) := by
          clear h2 h3 h hv h1
          induction t with
          | nil => simp [insert] at hp; exact Or.inr hp
          | cons q t ih =>
            obtain ⟨i, u⟩ := q
            unfold insert at hp
            split at hp
            · rcases List.mem_cons.mp hp with h | h
              · exact Or.inr h
              · exact Or.inl h
            · split at hp
              · rcases List.mem_cons.mp hp with h | h
                · exact Or.inr h
                · exact Or.inl (List.mem_cons_of_mem _ h)
              · rcases List.mem_cons.mp hp with h | h
                · exact Or.inl (by rw [h]; exact List.mem_cons_self)
                · rcases ih h with h | h
                  · exact Or.inl (List.mem_cons_of_mem _ h)
                  · exact Or.inr h
        rcases this with hp | rfl
        · exact h2 p hp
        · simp only; omega

/-- Writing a value keeps the canonical form. -/
theorem wf_set (d : α) (m : SMap α) (k : Nat) (v : α) (h : wf d m = true) : wf d (set d m k v) = true := by
  unfold set
  split
  · exact wf_filter d m _ h
  · next hv => exact wf_insert d m k v h hv

/-- Writing a run of values keeps the canonical form. -/
theorem wf_setRange (d : α) (m : SMap α) (a : Nat) (vs : List α) (h : wf d m = true) : wf d (setRange d m a vs) = true := by
  rw [wf_iff] at h ⊢
  unfold setRange
  refine ⟨?_, ?_⟩
  · rw [List.pairwise_append, List.pairwise_append]
    refine ⟨⟨h.1.filter _, (number_pairwise a vs).filter _, ?_⟩, h.1.filter _, ?_⟩
    · intro p hp q hq
      have h1 := (List.mem_filter.mp hp).2
      have h2 := mem_number_bounds a vs q (List.mem_filter.mp hq).1
      simp at h1; omega
    · intro p hp q hq
      have h2 := (List.mem_filter.mp hq).2
      simp at h2
      rcases List.mem_append.mp hp with hp | hp
      · have h1 := (List.mem_filter.mp hp).2
        simp at h1; omega
      · have h1 := mem_number_bounds a vs p (List.mem_filter.mp hp).1
        omega
  · intro p hp
    rcases List.mem_append.mp hp with hp | hp
    · rcases List.mem_append.mp hp with hp | hp
      · exact h.2 p (List.mem_filter.mp hp).1
      · simpa using (List.mem_filter.mp hp).2
    · exact h.2 p (List.mem_filter.mp hp).1

/-- Two canonical maps with the same contents are the same data. -/
theorem ext_of_wf (d : α) : ∀ (m n : SMap α), wf d m = true → wf d n = true → (∀ k, get d m k = get d n k) → m = n
  | [], [], _, _, _ => rfl
  | [], (j, v) :: t, _, hn, h => by
    have := h j
    simp [get] at this
    exact absurd this.symm (wf_cons.mp hn).1
  | (j, v) :: t, [], hm, _, h => by
    have := h j
    simp [get] at this
    exact absurd this (wf_cons.mp hm).1
  | (j, v) :: t, (i, w) :: u, hm, hn, h => by
    obtain ⟨m1, m2, m3⟩ := wf_cons.mp hm
    obtain ⟨n1, n2, n3⟩ := wf_cons.mp hn
    have hji : j = i := by
      rcases Nat.lt_trichotomy j i with hl | he | hl
      · have := h j
        rw [get_of_lt d ((i, w) :: u) j] at this
        · simp [get] at this; exact absurd this m1
        · intro p hp
          rcases List.mem_cons.mp hp with rfl | hp
          · exact hl
          · exact Nat.lt_trans hl (n2 p hp)
      · exact he
      · have := h i
        rw [get_of_lt d ((j, v) :: t) i] at this
        · simp [get] at this; exact absurd this.symm n1
        · intro p hp
          rcases List.mem_cons.mp hp with rfl | hp
          · exact hl
          · exact Nat.lt_trans hl (m2 p hp)
    subst hji
    have hv : v = w := by simpa [get] using h j
    subst hv
    have : t = u := ext_of_wf d t u m3 n3 (fun k => by
      by_cases e : j = k
      · subst e; rw [get_of_lt d t j m2, get_of_lt d u j n2]
      · simpa [get, e] using h k)
    rw [this]

end Sys2Proof.SMap
end

