-- ==== Sys2Proof/Laws/State.lean ====
section
/-! SUPPORT. One lemma for each field under each named update of the package, so that no proof unfolds a record update; then
reads after writes. -/

namespace Sys2Proof.Machine

namespace Chip

/-! ## Fields under updates -/

/-! ### `setReg` changes `regs` alone -/

@[simp] theorem setReg_free (s : Chip) (ix sub v : Nat) : (s.setReg ix sub v).free = s.free := rfl
@[simp] theorem setReg_log (s : Chip) (ix sub v : Nat) : (s.setReg ix sub v).log = s.log := rfl
@[simp] theorem setReg_mem (s : Chip) (ix sub v : Nat) : (s.setReg ix sub v).mem = s.mem := rfl
@[simp] theorem setReg_poison (s : Chip) (ix sub v : Nat) : (s.setReg ix sub v).poison = s.poison := rfl
@[simp] theorem setReg_tiles (s : Chip) (ix sub v : Nat) : (s.setReg ix sub v).tiles = s.tiles := rfl
@[simp] theorem setReg_preds (s : Chip) (ix sub v : Nat) : (s.setReg ix sub v).preds = s.preds := rfl
@[simp] theorem setReg_streams (s : Chip) (ix sub v : Nat) : (s.setReg ix sub v).streams = s.streams := rfl
@[simp] theorem setReg_arrays (s : Chip) (ix sub v : Nat) : (s.setReg ix sub v).arrays = s.arrays := rfl
@[simp] theorem setReg_ves (s : Chip) (ix sub v : Nat) : (s.setReg ix sub v).ves = s.ves := rfl
@[simp] theorem setReg_solvers (s : Chip) (ix sub v : Nat) : (s.setReg ix sub v).solvers = s.solvers := rfl
@[simp] theorem setReg_engines (s : Chip) (ix sub v : Nat) : (s.setReg ix sub v).engines = s.engines := rfl
@[simp] theorem setReg_channels (s : Chip) (ix sub v : Nat) : (s.setReg ix sub v).channels = s.channels := rfl
@[simp] theorem setReg_prefetch (s : Chip) (ix sub v : Nat) : (s.setReg ix sub v).prefetch = s.prefetch := rfl
@[simp] theorem setReg_bypass (s : Chip) (ix sub v : Nat) : (s.setReg ix sub v).bypass = s.bypass := rfl
@[simp] theorem setReg_scrubAt (s : Chip) (ix sub v : Nat) : (s.setReg ix sub v).scrubAt = s.scrubAt := rfl
@[simp] theorem setReg_scrubPasses (s : Chip) (ix sub v : Nat) : (s.setReg ix sub v).scrubPasses = s.scrubPasses := rfl
@[simp] theorem setReg_scrubCorrected (s : Chip) (ix sub v : Nat) : (s.setReg ix sub v).scrubCorrected = s.scrubCorrected := rfl
@[simp] theorem setReg_objs (s : Chip) (ix sub v : Nat) : (s.setReg ix sub v).objs = s.objs := rfl
@[simp] theorem setReg_posted (s : Chip) (ix sub v : Nat) : (s.setReg ix sub v).posted = s.posted := rfl
@[simp] theorem setReg_registrations (s : Chip) (ix sub v : Nat) : (s.setReg ix sub v).registrations = s.registrations := rfl
@[simp] theorem setReg_wakes (s : Chip) (ix sub v : Nat) : (s.setReg ix sub v).wakes = s.wakes := rfl
@[simp] theorem setReg_cancels (s : Chip) (ix sub v : Nat) : (s.setReg ix sub v).cancels = s.cancels := rfl
@[simp] theorem setReg_buristWaits (s : Chip) (ix sub v : Nat) : (s.setReg ix sub v).buristWaits = s.buristWaits := rfl
@[simp] theorem setReg_convUse (s : Chip) (ix sub v : Nat) : (s.setReg ix sub v).convUse = s.convUse := rfl
@[simp] theorem setReg_firstError (s : Chip) (ix sub v : Nat) : (s.setReg ix sub v).firstError = s.firstError := rfl
@[simp] theorem setReg_jobs (s : Chip) (ix sub v : Nat) : (s.setReg ix sub v).jobs = s.jobs := rfl
@[simp] theorem setReg_fab (s : Chip) (ix sub v : Nat) : (s.setReg ix sub v).fab = s.fab := rfl
@[simp] theorem setReg_mon (s : Chip) (ix sub v : Nat) : (s.setReg ix sub v).mon = s.mon := rfl
@[simp] theorem setReg_flash (s : Chip) (ix sub v : Nat) : (s.setReg ix sub v).flash = s.flash := rfl
@[simp] theorem setReg_boot (s : Chip) (ix sub v : Nat) : (s.setReg ix sub v).boot = s.boot := rfl
@[simp] theorem setReg_staging (s : Chip) (ix sub v : Nat) : (s.setReg ix sub v).staging = s.staging := rfl
@[simp] theorem setReg_power (s : Chip) (ix sub v : Nat) : (s.setReg ix sub v).power = s.power := rfl
@[simp] theorem setReg_dap (s : Chip) (ix sub v : Nat) : (s.setReg ix sub v).dap = s.dap := rfl
@[simp] theorem setReg_casts (s : Chip) (ix sub v : Nat) : (s.setReg ix sub v).casts = s.casts := rfl
@[simp] theorem setReg_cmds (s : Chip) (ix sub v : Nat) : (s.setReg ix sub v).cmds = s.cmds := rfl
@[simp] theorem setReg_pendingOff (s : Chip) (ix sub v : Nat) : (s.setReg ix sub v).pendingOff = s.pendingOff := rfl
@[simp] theorem setReg_testing (s : Chip) (ix sub v : Nat) : (s.setReg ix sub v).testing = s.testing := rfl
@[simp] theorem setReg_dumping (s : Chip) (ix sub v : Nat) : (s.setReg ix sub v).dumping = s.dumping := rfl
@[simp] theorem setReg_dumped (s : Chip) (ix sub v : Nat) : (s.setReg ix sub v).dumped = s.dumped := rfl
@[simp] theorem setReg_dumpNext (s : Chip) (ix sub v : Nat) : (s.setReg ix sub v).dumpNext = s.dumpNext := rfl
@[simp] theorem setReg_out (s : Chip) (ix sub v : Nat) : (s.setReg ix sub v).out = s.out := rfl

/-! ### `setJob` changes `jobs` alone -/

@[simp] theorem setJob_free (s : Chip) (j : Nat) (x : Option Job) : (s.setJob j x).free = s.free := rfl
@[simp] theorem setJob_regs (s : Chip) (j : Nat) (x : Option Job) : (s.setJob j x).regs = s.regs := rfl
@[simp] theorem setJob_log (s : Chip) (j : Nat) (x : Option Job) : (s.setJob j x).log = s.log := rfl
@[simp] theorem setJob_mem (s : Chip) (j : Nat) (x : Option Job) : (s.setJob j x).mem = s.mem := rfl
@[simp] theorem setJob_poison (s : Chip) (j : Nat) (x : Option Job) : (s.setJob j x).poison = s.poison := rfl
@[simp] theorem setJob_tiles (s : Chip) (j : Nat) (x : Option Job) : (s.setJob j x).tiles = s.tiles := rfl
@[simp] theorem setJob_preds (s : Chip) (j : Nat) (x : Option Job) : (s.setJob j x).preds = s.preds := rfl
@[simp] theorem setJob_streams (s : Chip) (j : Nat) (x : Option Job) : (s.setJob j x).streams = s.streams := rfl
@[simp] theorem setJob_arrays (s : Chip) (j : Nat) (x : Option Job) : (s.setJob j x).arrays = s.arrays := rfl
@[simp] theorem setJob_ves (s : Chip) (j : Nat) (x : Option Job) : (s.setJob j x).ves = s.ves := rfl
@[simp] theorem setJob_solvers (s : Chip) (j : Nat) (x : Option Job) : (s.setJob j x).solvers = s.solvers := rfl
@[simp] theorem setJob_engines (s : Chip) (j : Nat) (x : Option Job) : (s.setJob j x).engines = s.engines := rfl
@[simp] theorem setJob_channels (s : Chip) (j : Nat) (x : Option Job) : (s.setJob j x).channels = s.channels := rfl
@[simp] theorem setJob_prefetch (s : Chip) (j : Nat) (x : Option Job) : (s.setJob j x).prefetch = s.prefetch := rfl
@[simp] theorem setJob_bypass (s : Chip) (j : Nat) (x : Option Job) : (s.setJob j x).bypass = s.bypass := rfl
@[simp] theorem setJob_scrubAt (s : Chip) (j : Nat) (x : Option Job) : (s.setJob j x).scrubAt = s.scrubAt := rfl
@[simp] theorem setJob_scrubPasses (s : Chip) (j : Nat) (x : Option Job) : (s.setJob j x).scrubPasses = s.scrubPasses := rfl
@[simp] theorem setJob_scrubCorrected (s : Chip) (j : Nat) (x : Option Job) : (s.setJob j x).scrubCorrected = s.scrubCorrected := rfl
@[simp] theorem setJob_objs (s : Chip) (j : Nat) (x : Option Job) : (s.setJob j x).objs = s.objs := rfl
@[simp] theorem setJob_posted (s : Chip) (j : Nat) (x : Option Job) : (s.setJob j x).posted = s.posted := rfl
@[simp] theorem setJob_registrations (s : Chip) (j : Nat) (x : Option Job) : (s.setJob j x).registrations = s.registrations := rfl
@[simp] theorem setJob_wakes (s : Chip) (j : Nat) (x : Option Job) : (s.setJob j x).wakes = s.wakes := rfl
@[simp] theorem setJob_cancels (s : Chip) (j : Nat) (x : Option Job) : (s.setJob j x).cancels = s.cancels := rfl
@[simp] theorem setJob_buristWaits (s : Chip) (j : Nat) (x : Option Job) : (s.setJob j x).buristWaits = s.buristWaits := rfl
@[simp] theorem setJob_convUse (s : Chip) (j : Nat) (x : Option Job) : (s.setJob j x).convUse = s.convUse := rfl
@[simp] theorem setJob_firstError (s : Chip) (j : Nat) (x : Option Job) : (s.setJob j x).firstError = s.firstError := rfl
@[simp] theorem setJob_fab (s : Chip) (j : Nat) (x : Option Job) : (s.setJob j x).fab = s.fab := rfl
@[simp] theorem setJob_mon (s : Chip) (j : Nat) (x : Option Job) : (s.setJob j x).mon = s.mon := rfl
@[simp] theorem setJob_flash (s : Chip) (j : Nat) (x : Option Job) : (s.setJob j x).flash = s.flash := rfl
@[simp] theorem setJob_boot (s : Chip) (j : Nat) (x : Option Job) : (s.setJob j x).boot = s.boot := rfl
@[simp] theorem setJob_staging (s : Chip) (j : Nat) (x : Option Job) : (s.setJob j x).staging = s.staging := rfl
@[simp] theorem setJob_power (s : Chip) (j : Nat) (x : Option Job) : (s.setJob j x).power = s.power := rfl
@[simp] theorem setJob_dap (s : Chip) (j : Nat) (x : Option Job) : (s.setJob j x).dap = s.dap := rfl
@[simp] theorem setJob_casts (s : Chip) (j : Nat) (x : Option Job) : (s.setJob j x).casts = s.casts := rfl
@[simp] theorem setJob_cmds (s : Chip) (j : Nat) (x : Option Job) : (s.setJob j x).cmds = s.cmds := rfl
@[simp] theorem setJob_pendingOff (s : Chip) (j : Nat) (x : Option Job) : (s.setJob j x).pendingOff = s.pendingOff := rfl
@[simp] theorem setJob_testing (s : Chip) (j : Nat) (x : Option Job) : (s.setJob j x).testing = s.testing := rfl
@[simp] theorem setJob_dumping (s : Chip) (j : Nat) (x : Option Job) : (s.setJob j x).dumping = s.dumping := rfl
@[simp] theorem setJob_dumped (s : Chip) (j : Nat) (x : Option Job) : (s.setJob j x).dumped = s.dumped := rfl
@[simp] theorem setJob_dumpNext (s : Chip) (j : Nat) (x : Option Job) : (s.setJob j x).dumpNext = s.dumpNext := rfl
@[simp] theorem setJob_out (s : Chip) (j : Nat) (x : Option Job) : (s.setJob j x).out = s.out := rfl

/-! ### `setStream` changes `streams` alone -/

@[simp] theorem setStream_free (s : Chip) (c st : Nat) (x : Stream) : (s.setStream c st x).free = s.free := rfl
@[simp] theorem setStream_regs (s : Chip) (c st : Nat) (x : Stream) : (s.setStream c st x).regs = s.regs := rfl
@[simp] theorem setStream_log (s : Chip) (c st : Nat) (x : Stream) : (s.setStream c st x).log = s.log := rfl
@[simp] theorem setStream_mem (s : Chip) (c st : Nat) (x : Stream) : (s.setStream c st x).mem = s.mem := rfl
@[simp] theorem setStream_poison (s : Chip) (c st : Nat) (x : Stream) : (s.setStream c st x).poison = s.poison := rfl
@[simp] theorem setStream_tiles (s : Chip) (c st : Nat) (x : Stream) : (s.setStream c st x).tiles = s.tiles := rfl
@[simp] theorem setStream_preds (s : Chip) (c st : Nat) (x : Stream) : (s.setStream c st x).preds = s.preds := rfl
@[simp] theorem setStream_arrays (s : Chip) (c st : Nat) (x : Stream) : (s.setStream c st x).arrays = s.arrays := rfl
@[simp] theorem setStream_ves (s : Chip) (c st : Nat) (x : Stream) : (s.setStream c st x).ves = s.ves := rfl
@[simp] theorem setStream_solvers (s : Chip) (c st : Nat) (x : Stream) : (s.setStream c st x).solvers = s.solvers := rfl
@[simp] theorem setStream_engines (s : Chip) (c st : Nat) (x : Stream) : (s.setStream c st x).engines = s.engines := rfl
@[simp] theorem setStream_channels (s : Chip) (c st : Nat) (x : Stream) : (s.setStream c st x).channels = s.channels := rfl
@[simp] theorem setStream_prefetch (s : Chip) (c st : Nat) (x : Stream) : (s.setStream c st x).prefetch = s.prefetch := rfl
@[simp] theorem setStream_bypass (s : Chip) (c st : Nat) (x : Stream) : (s.setStream c st x).bypass = s.bypass := rfl
@[simp] theorem setStream_scrubAt (s : Chip) (c st : Nat) (x : Stream) : (s.setStream c st x).scrubAt = s.scrubAt := rfl
@[simp] theorem setStream_scrubPasses (s : Chip) (c st : Nat) (x : Stream) : (s.setStream c st x).scrubPasses = s.scrubPasses := rfl
@[simp] theorem setStream_scrubCorrected (s : Chip) (c st : Nat) (x : Stream) : (s.setStream c st x).scrubCorrected = s.scrubCorrected := rfl
@[simp] theorem setStream_objs (s : Chip) (c st : Nat) (x : Stream) : (s.setStream c st x).objs = s.objs := rfl
@[simp] theorem setStream_posted (s : Chip) (c st : Nat) (x : Stream) : (s.setStream c st x).posted = s.posted := rfl
@[simp] theorem setStream_registrations (s : Chip) (c st : Nat) (x : Stream) : (s.setStream c st x).registrations = s.registrations := rfl
@[simp] theorem setStream_wakes (s : Chip) (c st : Nat) (x : Stream) : (s.setStream c st x).wakes = s.wakes := rfl
@[simp] theorem setStream_cancels (s : Chip) (c st : Nat) (x : Stream) : (s.setStream c st x).cancels = s.cancels := rfl
@[simp] theorem setStream_buristWaits (s : Chip) (c st : Nat) (x : Stream) : (s.setStream c st x).buristWaits = s.buristWaits := rfl
@[simp] theorem setStream_convUse (s : Chip) (c st : Nat) (x : Stream) : (s.setStream c st x).convUse = s.convUse := rfl
@[simp] theorem setStream_firstError (s : Chip) (c st : Nat) (x : Stream) : (s.setStream c st x).firstError = s.firstError := rfl
@[simp] theorem setStream_jobs (s : Chip) (c st : Nat) (x : Stream) : (s.setStream c st x).jobs = s.jobs := rfl
@[simp] theorem setStream_fab (s : Chip) (c st : Nat) (x : Stream) : (s.setStream c st x).fab = s.fab := rfl
@[simp] theorem setStream_mon (s : Chip) (c st : Nat) (x : Stream) : (s.setStream c st x).mon = s.mon := rfl
@[simp] theorem setStream_flash (s : Chip) (c st : Nat) (x : Stream) : (s.setStream c st x).flash = s.flash := rfl
@[simp] theorem setStream_boot (s : Chip) (c st : Nat) (x : Stream) : (s.setStream c st x).boot = s.boot := rfl
@[simp] theorem setStream_staging (s : Chip) (c st : Nat) (x : Stream) : (s.setStream c st x).staging = s.staging := rfl
@[simp] theorem setStream_power (s : Chip) (c st : Nat) (x : Stream) : (s.setStream c st x).power = s.power := rfl
@[simp] theorem setStream_dap (s : Chip) (c st : Nat) (x : Stream) : (s.setStream c st x).dap = s.dap := rfl
@[simp] theorem setStream_casts (s : Chip) (c st : Nat) (x : Stream) : (s.setStream c st x).casts = s.casts := rfl
@[simp] theorem setStream_cmds (s : Chip) (c st : Nat) (x : Stream) : (s.setStream c st x).cmds = s.cmds := rfl
@[simp] theorem setStream_pendingOff (s : Chip) (c st : Nat) (x : Stream) : (s.setStream c st x).pendingOff = s.pendingOff := rfl
@[simp] theorem setStream_testing (s : Chip) (c st : Nat) (x : Stream) : (s.setStream c st x).testing = s.testing := rfl
@[simp] theorem setStream_dumping (s : Chip) (c st : Nat) (x : Stream) : (s.setStream c st x).dumping = s.dumping := rfl
@[simp] theorem setStream_dumped (s : Chip) (c st : Nat) (x : Stream) : (s.setStream c st x).dumped = s.dumped := rfl
@[simp] theorem setStream_dumpNext (s : Chip) (c st : Nat) (x : Stream) : (s.setStream c st x).dumpNext = s.dumpNext := rfl
@[simp] theorem setStream_out (s : Chip) (c st : Nat) (x : Stream) : (s.setStream c st x).out = s.out := rfl

/-! ### `updStream` changes `streams` alone -/

@[simp] theorem updStream_free (s : Chip) (c st : Nat) (f : Stream → Stream) : (s.updStream c st f).free = s.free := rfl
@[simp] theorem updStream_regs (s : Chip) (c st : Nat) (f : Stream → Stream) : (s.updStream c st f).regs = s.regs := rfl
@[simp] theorem updStream_log (s : Chip) (c st : Nat) (f : Stream → Stream) : (s.updStream c st f).log = s.log := rfl
@[simp] theorem updStream_mem (s : Chip) (c st : Nat) (f : Stream → Stream) : (s.updStream c st f).mem = s.mem := rfl
@[simp] theorem updStream_poison (s : Chip) (c st : Nat) (f : Stream → Stream) : (s.updStream c st f).poison = s.poison := rfl
@[simp] theorem updStream_tiles (s : Chip) (c st : Nat) (f : Stream → Stream) : (s.updStream c st f).tiles = s.tiles := rfl
@[simp] theorem updStream_preds (s : Chip) (c st : Nat) (f : Stream → Stream) : (s.updStream c st f).preds = s.preds := rfl
@[simp] theorem updStream_arrays (s : Chip) (c st : Nat) (f : Stream → Stream) : (s.updStream c st f).arrays = s.arrays := rfl
@[simp] theorem updStream_ves (s : Chip) (c st : Nat) (f : Stream → Stream) : (s.updStream c st f).ves = s.ves := rfl
@[simp] theorem updStream_solvers (s : Chip) (c st : Nat) (f : Stream → Stream) : (s.updStream c st f).solvers = s.solvers := rfl
@[simp] theorem updStream_engines (s : Chip) (c st : Nat) (f : Stream → Stream) : (s.updStream c st f).engines = s.engines := rfl
@[simp] theorem updStream_channels (s : Chip) (c st : Nat) (f : Stream → Stream) : (s.updStream c st f).channels = s.channels := rfl
@[simp] theorem updStream_prefetch (s : Chip) (c st : Nat) (f : Stream → Stream) : (s.updStream c st f).prefetch = s.prefetch := rfl
@[simp] theorem updStream_bypass (s : Chip) (c st : Nat) (f : Stream → Stream) : (s.updStream c st f).bypass = s.bypass := rfl
@[simp] theorem updStream_scrubAt (s : Chip) (c st : Nat) (f : Stream → Stream) : (s.updStream c st f).scrubAt = s.scrubAt := rfl
@[simp] theorem updStream_scrubPasses (s : Chip) (c st : Nat) (f : Stream → Stream) : (s.updStream c st f).scrubPasses = s.scrubPasses := rfl
@[simp] theorem updStream_scrubCorrected (s : Chip) (c st : Nat) (f : Stream → Stream) : (s.updStream c st f).scrubCorrected = s.scrubCorrected := rfl
@[simp] theorem updStream_objs (s : Chip) (c st : Nat) (f : Stream → Stream) : (s.updStream c st f).objs = s.objs := rfl
@[simp] theorem updStream_posted (s : Chip) (c st : Nat) (f : Stream → Stream) : (s.updStream c st f).posted = s.posted := rfl
@[simp] theorem updStream_registrations (s : Chip) (c st : Nat) (f : Stream → Stream) : (s.updStream c st f).registrations = s.registrations := rfl
@[simp] theorem updStream_wakes (s : Chip) (c st : Nat) (f : Stream → Stream) : (s.updStream c st f).wakes = s.wakes := rfl
@[simp] theorem updStream_cancels (s : Chip) (c st : Nat) (f : Stream → Stream) : (s.updStream c st f).cancels = s.cancels := rfl
@[simp] theorem updStream_buristWaits (s : Chip) (c st : Nat) (f : Stream → Stream) : (s.updStream c st f).buristWaits = s.buristWaits := rfl
@[simp] theorem updStream_convUse (s : Chip) (c st : Nat) (f : Stream → Stream) : (s.updStream c st f).convUse = s.convUse := rfl
@[simp] theorem updStream_firstError (s : Chip) (c st : Nat) (f : Stream → Stream) : (s.updStream c st f).firstError = s.firstError := rfl
@[simp] theorem updStream_jobs (s : Chip) (c st : Nat) (f : Stream → Stream) : (s.updStream c st f).jobs = s.jobs := rfl
@[simp] theorem updStream_fab (s : Chip) (c st : Nat) (f : Stream → Stream) : (s.updStream c st f).fab = s.fab := rfl
@[simp] theorem updStream_mon (s : Chip) (c st : Nat) (f : Stream → Stream) : (s.updStream c st f).mon = s.mon := rfl
@[simp] theorem updStream_flash (s : Chip) (c st : Nat) (f : Stream → Stream) : (s.updStream c st f).flash = s.flash := rfl
@[simp] theorem updStream_boot (s : Chip) (c st : Nat) (f : Stream → Stream) : (s.updStream c st f).boot = s.boot := rfl
@[simp] theorem updStream_staging (s : Chip) (c st : Nat) (f : Stream → Stream) : (s.updStream c st f).staging = s.staging := rfl
@[simp] theorem updStream_power (s : Chip) (c st : Nat) (f : Stream → Stream) : (s.updStream c st f).power = s.power := rfl
@[simp] theorem updStream_dap (s : Chip) (c st : Nat) (f : Stream → Stream) : (s.updStream c st f).dap = s.dap := rfl
@[simp] theorem updStream_casts (s : Chip) (c st : Nat) (f : Stream → Stream) : (s.updStream c st f).casts = s.casts := rfl
@[simp] theorem updStream_cmds (s : Chip) (c st : Nat) (f : Stream → Stream) : (s.updStream c st f).cmds = s.cmds := rfl
@[simp] theorem updStream_pendingOff (s : Chip) (c st : Nat) (f : Stream → Stream) : (s.updStream c st f).pendingOff = s.pendingOff := rfl
@[simp] theorem updStream_testing (s : Chip) (c st : Nat) (f : Stream → Stream) : (s.updStream c st f).testing = s.testing := rfl
@[simp] theorem updStream_dumping (s : Chip) (c st : Nat) (f : Stream → Stream) : (s.updStream c st f).dumping = s.dumping := rfl
@[simp] theorem updStream_dumped (s : Chip) (c st : Nat) (f : Stream → Stream) : (s.updStream c st f).dumped = s.dumped := rfl
@[simp] theorem updStream_dumpNext (s : Chip) (c st : Nat) (f : Stream → Stream) : (s.updStream c st f).dumpNext = s.dumpNext := rfl
@[simp] theorem updStream_out (s : Chip) (c st : Nat) (f : Stream → Stream) : (s.updStream c st f).out = s.out := rfl

/-! ### `setObj` changes `objs` alone -/

@[simp] theorem setObj_free (s : Chip) (o : Nat) (x : Obj) : (s.setObj o x).free = s.free := rfl
@[simp] theorem setObj_regs (s : Chip) (o : Nat) (x : Obj) : (s.setObj o x).regs = s.regs := rfl
@[simp] theorem setObj_log (s : Chip) (o : Nat) (x : Obj) : (s.setObj o x).log = s.log := rfl
@[simp] theorem setObj_mem (s : Chip) (o : Nat) (x : Obj) : (s.setObj o x).mem = s.mem := rfl
@[simp] theorem setObj_poison (s : Chip) (o : Nat) (x : Obj) : (s.setObj o x).poison = s.poison := rfl
@[simp] theorem setObj_tiles (s : Chip) (o : Nat) (x : Obj) : (s.setObj o x).tiles = s.tiles := rfl
@[simp] theorem setObj_preds (s : Chip) (o : Nat) (x : Obj) : (s.setObj o x).preds = s.preds := rfl
@[simp] theorem setObj_streams (s : Chip) (o : Nat) (x : Obj) : (s.setObj o x).streams = s.streams := rfl
@[simp] theorem setObj_arrays (s : Chip) (o : Nat) (x : Obj) : (s.setObj o x).arrays = s.arrays := rfl
@[simp] theorem setObj_ves (s : Chip) (o : Nat) (x : Obj) : (s.setObj o x).ves = s.ves := rfl
@[simp] theorem setObj_solvers (s : Chip) (o : Nat) (x : Obj) : (s.setObj o x).solvers = s.solvers := rfl
@[simp] theorem setObj_engines (s : Chip) (o : Nat) (x : Obj) : (s.setObj o x).engines = s.engines := rfl
@[simp] theorem setObj_channels (s : Chip) (o : Nat) (x : Obj) : (s.setObj o x).channels = s.channels := rfl
@[simp] theorem setObj_prefetch (s : Chip) (o : Nat) (x : Obj) : (s.setObj o x).prefetch = s.prefetch := rfl
@[simp] theorem setObj_bypass (s : Chip) (o : Nat) (x : Obj) : (s.setObj o x).bypass = s.bypass := rfl
@[simp] theorem setObj_scrubAt (s : Chip) (o : Nat) (x : Obj) : (s.setObj o x).scrubAt = s.scrubAt := rfl
@[simp] theorem setObj_scrubPasses (s : Chip) (o : Nat) (x : Obj) : (s.setObj o x).scrubPasses = s.scrubPasses := rfl
@[simp] theorem setObj_scrubCorrected (s : Chip) (o : Nat) (x : Obj) : (s.setObj o x).scrubCorrected = s.scrubCorrected := rfl
@[simp] theorem setObj_posted (s : Chip) (o : Nat) (x : Obj) : (s.setObj o x).posted = s.posted := rfl
@[simp] theorem setObj_registrations (s : Chip) (o : Nat) (x : Obj) : (s.setObj o x).registrations = s.registrations := rfl
@[simp] theorem setObj_wakes (s : Chip) (o : Nat) (x : Obj) : (s.setObj o x).wakes = s.wakes := rfl
@[simp] theorem setObj_cancels (s : Chip) (o : Nat) (x : Obj) : (s.setObj o x).cancels = s.cancels := rfl
@[simp] theorem setObj_buristWaits (s : Chip) (o : Nat) (x : Obj) : (s.setObj o x).buristWaits = s.buristWaits := rfl
@[simp] theorem setObj_convUse (s : Chip) (o : Nat) (x : Obj) : (s.setObj o x).convUse = s.convUse := rfl
@[simp] theorem setObj_firstError (s : Chip) (o : Nat) (x : Obj) : (s.setObj o x).firstError = s.firstError := rfl
@[simp] theorem setObj_jobs (s : Chip) (o : Nat) (x : Obj) : (s.setObj o x).jobs = s.jobs := rfl
@[simp] theorem setObj_fab (s : Chip) (o : Nat) (x : Obj) : (s.setObj o x).fab = s.fab := rfl
@[simp] theorem setObj_mon (s : Chip) (o : Nat) (x : Obj) : (s.setObj o x).mon = s.mon := rfl
@[simp] theorem setObj_flash (s : Chip) (o : Nat) (x : Obj) : (s.setObj o x).flash = s.flash := rfl
@[simp] theorem setObj_boot (s : Chip) (o : Nat) (x : Obj) : (s.setObj o x).boot = s.boot := rfl
@[simp] theorem setObj_staging (s : Chip) (o : Nat) (x : Obj) : (s.setObj o x).staging = s.staging := rfl
@[simp] theorem setObj_power (s : Chip) (o : Nat) (x : Obj) : (s.setObj o x).power = s.power := rfl
@[simp] theorem setObj_dap (s : Chip) (o : Nat) (x : Obj) : (s.setObj o x).dap = s.dap := rfl
@[simp] theorem setObj_casts (s : Chip) (o : Nat) (x : Obj) : (s.setObj o x).casts = s.casts := rfl
@[simp] theorem setObj_cmds (s : Chip) (o : Nat) (x : Obj) : (s.setObj o x).cmds = s.cmds := rfl
@[simp] theorem setObj_pendingOff (s : Chip) (o : Nat) (x : Obj) : (s.setObj o x).pendingOff = s.pendingOff := rfl
@[simp] theorem setObj_testing (s : Chip) (o : Nat) (x : Obj) : (s.setObj o x).testing = s.testing := rfl
@[simp] theorem setObj_dumping (s : Chip) (o : Nat) (x : Obj) : (s.setObj o x).dumping = s.dumping := rfl
@[simp] theorem setObj_dumped (s : Chip) (o : Nat) (x : Obj) : (s.setObj o x).dumped = s.dumped := rfl
@[simp] theorem setObj_dumpNext (s : Chip) (o : Nat) (x : Obj) : (s.setObj o x).dumpNext = s.dumpNext := rfl
@[simp] theorem setObj_out (s : Chip) (o : Nat) (x : Obj) : (s.setObj o x).out = s.out := rfl

/-! ### `setEngine` changes `engines` alone -/

@[simp] theorem setEngine_free (s : Chip) (e : Nat) (x : Engine) : (s.setEngine e x).free = s.free := rfl
@[simp] theorem setEngine_regs (s : Chip) (e : Nat) (x : Engine) : (s.setEngine e x).regs = s.regs := rfl
@[simp] theorem setEngine_log (s : Chip) (e : Nat) (x : Engine) : (s.setEngine e x).log = s.log := rfl
@[simp] theorem setEngine_mem (s : Chip) (e : Nat) (x : Engine) : (s.setEngine e x).mem = s.mem := rfl
@[simp] theorem setEngine_poison (s : Chip) (e : Nat) (x : Engine) : (s.setEngine e x).poison = s.poison := rfl
@[simp] theorem setEngine_tiles (s : Chip) (e : Nat) (x : Engine) : (s.setEngine e x).tiles = s.tiles := rfl
@[simp] theorem setEngine_preds (s : Chip) (e : Nat) (x : Engine) : (s.setEngine e x).preds = s.preds := rfl
@[simp] theorem setEngine_streams (s : Chip) (e : Nat) (x : Engine) : (s.setEngine e x).streams = s.streams := rfl
@[simp] theorem setEngine_arrays (s : Chip) (e : Nat) (x : Engine) : (s.setEngine e x).arrays = s.arrays := rfl
@[simp] theorem setEngine_ves (s : Chip) (e : Nat) (x : Engine) : (s.setEngine e x).ves = s.ves := rfl
@[simp] theorem setEngine_solvers (s : Chip) (e : Nat) (x : Engine) : (s.setEngine e x).solvers = s.solvers := rfl
@[simp] theorem setEngine_channels (s : Chip) (e : Nat) (x : Engine) : (s.setEngine e x).channels = s.channels := rfl
@[simp] theorem setEngine_prefetch (s : Chip) (e : Nat) (x : Engine) : (s.setEngine e x).prefetch = s.prefetch := rfl
@[simp] theorem setEngine_bypass (s : Chip) (e : Nat) (x : Engine) : (s.setEngine e x).bypass = s.bypass := rfl
@[simp] theorem setEngine_scrubAt (s : Chip) (e : Nat) (x : Engine) : (s.setEngine e x).scrubAt = s.scrubAt := rfl
@[simp] theorem setEngine_scrubPasses (s : Chip) (e : Nat) (x : Engine) : (s.setEngine e x).scrubPasses = s.scrubPasses := rfl
@[simp] theorem setEngine_scrubCorrected (s : Chip) (e : Nat) (x : Engine) : (s.setEngine e x).scrubCorrected = s.scrubCorrected := rfl
@[simp] theorem setEngine_objs (s : Chip) (e : Nat) (x : Engine) : (s.setEngine e x).objs = s.objs := rfl
@[simp] theorem setEngine_posted (s : Chip) (e : Nat) (x : Engine) : (s.setEngine e x).posted = s.posted := rfl
@[simp] theorem setEngine_registrations (s : Chip) (e : Nat) (x : Engine) : (s.setEngine e x).registrations = s.registrations := rfl
@[simp] theorem setEngine_wakes (s : Chip) (e : Nat) (x : Engine) : (s.setEngine e x).wakes = s.wakes := rfl
@[simp] theorem setEngine_cancels (s : Chip) (e : Nat) (x : Engine) : (s.setEngine e x).cancels = s.cancels := rfl
@[simp] theorem setEngine_buristWaits (s : Chip) (e : Nat) (x : Engine) : (s.setEngine e x).buristWaits = s.buristWaits := rfl
@[simp] theorem setEngine_convUse (s : Chip) (e : Nat) (x : Engine) : (s.setEngine e x).convUse = s.convUse := rfl
@[simp] theorem setEngine_firstError (s : Chip) (e : Nat) (x : Engine) : (s.setEngine e x).firstError = s.firstError := rfl
@[simp] theorem setEngine_jobs (s : Chip) (e : Nat) (x : Engine) : (s.setEngine e x).jobs = s.jobs := rfl
@[simp] theorem setEngine_fab (s : Chip) (e : Nat) (x : Engine) : (s.setEngine e x).fab = s.fab := rfl
@[simp] theorem setEngine_mon (s : Chip) (e : Nat) (x : Engine) : (s.setEngine e x).mon = s.mon := rfl
@[simp] theorem setEngine_flash (s : Chip) (e : Nat) (x : Engine) : (s.setEngine e x).flash = s.flash := rfl
@[simp] theorem setEngine_boot (s : Chip) (e : Nat) (x : Engine) : (s.setEngine e x).boot = s.boot := rfl
@[simp] theorem setEngine_staging (s : Chip) (e : Nat) (x : Engine) : (s.setEngine e x).staging = s.staging := rfl
@[simp] theorem setEngine_power (s : Chip) (e : Nat) (x : Engine) : (s.setEngine e x).power = s.power := rfl
@[simp] theorem setEngine_dap (s : Chip) (e : Nat) (x : Engine) : (s.setEngine e x).dap = s.dap := rfl
@[simp] theorem setEngine_casts (s : Chip) (e : Nat) (x : Engine) : (s.setEngine e x).casts = s.casts := rfl
@[simp] theorem setEngine_cmds (s : Chip) (e : Nat) (x : Engine) : (s.setEngine e x).cmds = s.cmds := rfl
@[simp] theorem setEngine_pendingOff (s : Chip) (e : Nat) (x : Engine) : (s.setEngine e x).pendingOff = s.pendingOff := rfl
@[simp] theorem setEngine_testing (s : Chip) (e : Nat) (x : Engine) : (s.setEngine e x).testing = s.testing := rfl
@[simp] theorem setEngine_dumping (s : Chip) (e : Nat) (x : Engine) : (s.setEngine e x).dumping = s.dumping := rfl
@[simp] theorem setEngine_dumped (s : Chip) (e : Nat) (x : Engine) : (s.setEngine e x).dumped = s.dumped := rfl
@[simp] theorem setEngine_dumpNext (s : Chip) (e : Nat) (x : Engine) : (s.setEngine e x).dumpNext = s.dumpNext := rfl
@[simp] theorem setEngine_out (s : Chip) (e : Nat) (x : Engine) : (s.setEngine e x).out = s.out := rfl

/-! ### `setArray` changes `arrays` alone -/

@[simp] theorem setArray_free (s : Chip) (c a : Nat) (x : Arr) : (s.setArray c a x).free = s.free := rfl
@[simp] theorem setArray_regs (s : Chip) (c a : Nat) (x : Arr) : (s.setArray c a x).regs = s.regs := rfl
@[simp] theorem setArray_log (s : Chip) (c a : Nat) (x : Arr) : (s.setArray c a x).log = s.log := rfl
@[simp] theorem setArray_mem (s : Chip) (c a : Nat) (x : Arr) : (s.setArray c a x).mem = s.mem := rfl
@[simp] theorem setArray_poison (s : Chip) (c a : Nat) (x : Arr) : (s.setArray c a x).poison = s.poison := rfl
@[simp] theorem setArray_tiles (s : Chip) (c a : Nat) (x : Arr) : (s.setArray c a x).tiles = s.tiles := rfl
@[simp] theorem setArray_preds (s : Chip) (c a : Nat) (x : Arr) : (s.setArray c a x).preds = s.preds := rfl
@[simp] theorem setArray_streams (s : Chip) (c a : Nat) (x : Arr) : (s.setArray c a x).streams = s.streams := rfl
@[simp] theorem setArray_ves (s : Chip) (c a : Nat) (x : Arr) : (s.setArray c a x).ves = s.ves := rfl
@[simp] theorem setArray_solvers (s : Chip) (c a : Nat) (x : Arr) : (s.setArray c a x).solvers = s.solvers := rfl
@[simp] theorem setArray_engines (s : Chip) (c a : Nat) (x : Arr) : (s.setArray c a x).engines = s.engines := rfl
@[simp] theorem setArray_channels (s : Chip) (c a : Nat) (x : Arr) : (s.setArray c a x).channels = s.channels := rfl
@[simp] theorem setArray_prefetch (s : Chip) (c a : Nat) (x : Arr) : (s.setArray c a x).prefetch = s.prefetch := rfl
@[simp] theorem setArray_bypass (s : Chip) (c a : Nat) (x : Arr) : (s.setArray c a x).bypass = s.bypass := rfl
@[simp] theorem setArray_scrubAt (s : Chip) (c a : Nat) (x : Arr) : (s.setArray c a x).scrubAt = s.scrubAt := rfl
@[simp] theorem setArray_scrubPasses (s : Chip) (c a : Nat) (x : Arr) : (s.setArray c a x).scrubPasses = s.scrubPasses := rfl
@[simp] theorem setArray_scrubCorrected (s : Chip) (c a : Nat) (x : Arr) : (s.setArray c a x).scrubCorrected = s.scrubCorrected := rfl
@[simp] theorem setArray_objs (s : Chip) (c a : Nat) (x : Arr) : (s.setArray c a x).objs = s.objs := rfl
@[simp] theorem setArray_posted (s : Chip) (c a : Nat) (x : Arr) : (s.setArray c a x).posted = s.posted := rfl
@[simp] theorem setArray_registrations (s : Chip) (c a : Nat) (x : Arr) : (s.setArray c a x).registrations = s.registrations := rfl
@[simp] theorem setArray_wakes (s : Chip) (c a : Nat) (x : Arr) : (s.setArray c a x).wakes = s.wakes := rfl
@[simp] theorem setArray_cancels (s : Chip) (c a : Nat) (x : Arr) : (s.setArray c a x).cancels = s.cancels := rfl
@[simp] theorem setArray_buristWaits (s : Chip) (c a : Nat) (x : Arr) : (s.setArray c a x).buristWaits = s.buristWaits := rfl
@[simp] theorem setArray_convUse (s : Chip) (c a : Nat) (x : Arr) : (s.setArray c a x).convUse = s.convUse := rfl
@[simp] theorem setArray_firstError (s : Chip) (c a : Nat) (x : Arr) : (s.setArray c a x).firstError = s.firstError := rfl
@[simp] theorem setArray_jobs (s : Chip) (c a : Nat) (x : Arr) : (s.setArray c a x).jobs = s.jobs := rfl
@[simp] theorem setArray_fab (s : Chip) (c a : Nat) (x : Arr) : (s.setArray c a x).fab = s.fab := rfl
@[simp] theorem setArray_mon (s : Chip) (c a : Nat) (x : Arr) : (s.setArray c a x).mon = s.mon := rfl
@[simp] theorem setArray_flash (s : Chip) (c a : Nat) (x : Arr) : (s.setArray c a x).flash = s.flash := rfl
@[simp] theorem setArray_boot (s : Chip) (c a : Nat) (x : Arr) : (s.setArray c a x).boot = s.boot := rfl
@[simp] theorem setArray_staging (s : Chip) (c a : Nat) (x : Arr) : (s.setArray c a x).staging = s.staging := rfl
@[simp] theorem setArray_power (s : Chip) (c a : Nat) (x : Arr) : (s.setArray c a x).power = s.power := rfl
@[simp] theorem setArray_dap (s : Chip) (c a : Nat) (x : Arr) : (s.setArray c a x).dap = s.dap := rfl
@[simp] theorem setArray_casts (s : Chip) (c a : Nat) (x : Arr) : (s.setArray c a x).casts = s.casts := rfl
@[simp] theorem setArray_cmds (s : Chip) (c a : Nat) (x : Arr) : (s.setArray c a x).cmds = s.cmds := rfl
@[simp] theorem setArray_pendingOff (s : Chip) (c a : Nat) (x : Arr) : (s.setArray c a x).pendingOff = s.pendingOff := rfl
@[simp] theorem setArray_testing (s : Chip) (c a : Nat) (x : Arr) : (s.setArray c a x).testing = s.testing := rfl
@[simp] theorem setArray_dumping (s : Chip) (c a : Nat) (x : Arr) : (s.setArray c a x).dumping = s.dumping := rfl
@[simp] theorem setArray_dumped (s : Chip) (c a : Nat) (x : Arr) : (s.setArray c a x).dumped = s.dumped := rfl
@[simp] theorem setArray_dumpNext (s : Chip) (c a : Nat) (x : Arr) : (s.setArray c a x).dumpNext = s.dumpNext := rfl
@[simp] theorem setArray_out (s : Chip) (c a : Nat) (x : Arr) : (s.setArray c a x).out = s.out := rfl

/-! ### `setChan` changes `channels` alone -/

@[simp] theorem setChan_free (s : Chip) (n : Nat) (x : Chan) : (s.setChan n x).free = s.free := rfl
@[simp] theorem setChan_regs (s : Chip) (n : Nat) (x : Chan) : (s.setChan n x).regs = s.regs := rfl
@[simp] theorem setChan_log (s : Chip) (n : Nat) (x : Chan) : (s.setChan n x).log = s.log := rfl
@[simp] theorem setChan_mem (s : Chip) (n : Nat) (x : Chan) : (s.setChan n x).mem = s.mem := rfl
@[simp] theorem setChan_poison (s : Chip) (n : Nat) (x : Chan) : (s.setChan n x).poison = s.poison := rfl
@[simp] theorem setChan_tiles (s : Chip) (n : Nat) (x : Chan) : (s.setChan n x).tiles = s.tiles := rfl
@[simp] theorem setChan_preds (s : Chip) (n : Nat) (x : Chan) : (s.setChan n x).preds = s.preds := rfl
@[simp] theorem setChan_streams (s : Chip) (n : Nat) (x : Chan) : (s.setChan n x).streams = s.streams := rfl
@[simp] theorem setChan_arrays (s : Chip) (n : Nat) (x : Chan) : (s.setChan n x).arrays = s.arrays := rfl
@[simp] theorem setChan_ves (s : Chip) (n : Nat) (x : Chan) : (s.setChan n x).ves = s.ves := rfl
@[simp] theorem setChan_solvers (s : Chip) (n : Nat) (x : Chan) : (s.setChan n x).solvers = s.solvers := rfl
@[simp] theorem setChan_engines (s : Chip) (n : Nat) (x : Chan) : (s.setChan n x).engines = s.engines := rfl
@[simp] theorem setChan_prefetch (s : Chip) (n : Nat) (x : Chan) : (s.setChan n x).prefetch = s.prefetch := rfl
@[simp] theorem setChan_bypass (s : Chip) (n : Nat) (x : Chan) : (s.setChan n x).bypass = s.bypass := rfl
@[simp] theorem setChan_scrubAt (s : Chip) (n : Nat) (x : Chan) : (s.setChan n x).scrubAt = s.scrubAt := rfl
@[simp] theorem setChan_scrubPasses (s : Chip) (n : Nat) (x : Chan) : (s.setChan n x).scrubPasses = s.scrubPasses := rfl
@[simp] theorem setChan_scrubCorrected (s : Chip) (n : Nat) (x : Chan) : (s.setChan n x).scrubCorrected = s.scrubCorrected := rfl
@[simp] theorem setChan_objs (s : Chip) (n : Nat) (x : Chan) : (s.setChan n x).objs = s.objs := rfl
@[simp] theorem setChan_posted (s : Chip) (n : Nat) (x : Chan) : (s.setChan n x).posted = s.posted := rfl
@[simp] theorem setChan_registrations (s : Chip) (n : Nat) (x : Chan) : (s.setChan n x).registrations = s.registrations := rfl
@[simp] theorem setChan_wakes (s : Chip) (n : Nat) (x : Chan) : (s.setChan n x).wakes = s.wakes := rfl
@[simp] theorem setChan_cancels (s : Chip) (n : Nat) (x : Chan) : (s.setChan n x).cancels = s.cancels := rfl
@[simp] theorem setChan_buristWaits (s : Chip) (n : Nat) (x : Chan) : (s.setChan n x).buristWaits = s.buristWaits := rfl
@[simp] theorem setChan_convUse (s : Chip) (n : Nat) (x : Chan) : (s.setChan n x).convUse = s.convUse := rfl
@[simp] theorem setChan_firstError (s : Chip) (n : Nat) (x : Chan) : (s.setChan n x).firstError = s.firstError := rfl
@[simp] theorem setChan_jobs (s : Chip) (n : Nat) (x : Chan) : (s.setChan n x).jobs = s.jobs := rfl
@[simp] theorem setChan_fab (s : Chip) (n : Nat) (x : Chan) : (s.setChan n x).fab = s.fab := rfl
@[simp] theorem setChan_mon (s : Chip) (n : Nat) (x : Chan) : (s.setChan n x).mon = s.mon := rfl
@[simp] theorem setChan_flash (s : Chip) (n : Nat) (x : Chan) : (s.setChan n x).flash = s.flash := rfl
@[simp] theorem setChan_boot (s : Chip) (n : Nat) (x : Chan) : (s.setChan n x).boot = s.boot := rfl
@[simp] theorem setChan_staging (s : Chip) (n : Nat) (x : Chan) : (s.setChan n x).staging = s.staging := rfl
@[simp] theorem setChan_power (s : Chip) (n : Nat) (x : Chan) : (s.setChan n x).power = s.power := rfl
@[simp] theorem setChan_dap (s : Chip) (n : Nat) (x : Chan) : (s.setChan n x).dap = s.dap := rfl
@[simp] theorem setChan_casts (s : Chip) (n : Nat) (x : Chan) : (s.setChan n x).casts = s.casts := rfl
@[simp] theorem setChan_cmds (s : Chip) (n : Nat) (x : Chan) : (s.setChan n x).cmds = s.cmds := rfl
@[simp] theorem setChan_pendingOff (s : Chip) (n : Nat) (x : Chan) : (s.setChan n x).pendingOff = s.pendingOff := rfl
@[simp] theorem setChan_testing (s : Chip) (n : Nat) (x : Chan) : (s.setChan n x).testing = s.testing := rfl
@[simp] theorem setChan_dumping (s : Chip) (n : Nat) (x : Chan) : (s.setChan n x).dumping = s.dumping := rfl
@[simp] theorem setChan_dumped (s : Chip) (n : Nat) (x : Chan) : (s.setChan n x).dumped = s.dumped := rfl
@[simp] theorem setChan_dumpNext (s : Chip) (n : Nat) (x : Chan) : (s.setChan n x).dumpNext = s.dumpNext := rfl
@[simp] theorem setChan_out (s : Chip) (n : Nat) (x : Chan) : (s.setChan n x).out = s.out := rfl

/-! ### `setSolver` changes `solvers` alone -/

@[simp] theorem setSolver_free (s : Chip) (k : Nat) (x : List SolveRun) : (s.setSolver k x).free = s.free := rfl
@[simp] theorem setSolver_regs (s : Chip) (k : Nat) (x : List SolveRun) : (s.setSolver k x).regs = s.regs := rfl
@[simp] theorem setSolver_log (s : Chip) (k : Nat) (x : List SolveRun) : (s.setSolver k x).log = s.log := rfl
@[simp] theorem setSolver_mem (s : Chip) (k : Nat) (x : List SolveRun) : (s.setSolver k x).mem = s.mem := rfl
@[simp] theorem setSolver_poison (s : Chip) (k : Nat) (x : List SolveRun) : (s.setSolver k x).poison = s.poison := rfl
@[simp] theorem setSolver_tiles (s : Chip) (k : Nat) (x : List SolveRun) : (s.setSolver k x).tiles = s.tiles := rfl
@[simp] theorem setSolver_preds (s : Chip) (k : Nat) (x : List SolveRun) : (s.setSolver k x).preds = s.preds := rfl
@[simp] theorem setSolver_streams (s : Chip) (k : Nat) (x : List SolveRun) : (s.setSolver k x).streams = s.streams := rfl
@[simp] theorem setSolver_arrays (s : Chip) (k : Nat) (x : List SolveRun) : (s.setSolver k x).arrays = s.arrays := rfl
@[simp] theorem setSolver_ves (s : Chip) (k : Nat) (x : List SolveRun) : (s.setSolver k x).ves = s.ves := rfl
@[simp] theorem setSolver_engines (s : Chip) (k : Nat) (x : List SolveRun) : (s.setSolver k x).engines = s.engines := rfl
@[simp] theorem setSolver_channels (s : Chip) (k : Nat) (x : List SolveRun) : (s.setSolver k x).channels = s.channels := rfl
@[simp] theorem setSolver_prefetch (s : Chip) (k : Nat) (x : List SolveRun) : (s.setSolver k x).prefetch = s.prefetch := rfl
@[simp] theorem setSolver_bypass (s : Chip) (k : Nat) (x : List SolveRun) : (s.setSolver k x).bypass = s.bypass := rfl
@[simp] theorem setSolver_scrubAt (s : Chip) (k : Nat) (x : List SolveRun) : (s.setSolver k x).scrubAt = s.scrubAt := rfl
@[simp] theorem setSolver_scrubPasses (s : Chip) (k : Nat) (x : List SolveRun) : (s.setSolver k x).scrubPasses = s.scrubPasses := rfl
@[simp] theorem setSolver_scrubCorrected (s : Chip) (k : Nat) (x : List SolveRun) : (s.setSolver k x).scrubCorrected = s.scrubCorrected := rfl
@[simp] theorem setSolver_objs (s : Chip) (k : Nat) (x : List SolveRun) : (s.setSolver k x).objs = s.objs := rfl
@[simp] theorem setSolver_posted (s : Chip) (k : Nat) (x : List SolveRun) : (s.setSolver k x).posted = s.posted := rfl
@[simp] theorem setSolver_registrations (s : Chip) (k : Nat) (x : List SolveRun) : (s.setSolver k x).registrations = s.registrations := rfl
@[simp] theorem setSolver_wakes (s : Chip) (k : Nat) (x : List SolveRun) : (s.setSolver k x).wakes = s.wakes := rfl
@[simp] theorem setSolver_cancels (s : Chip) (k : Nat) (x : List SolveRun) : (s.setSolver k x).cancels = s.cancels := rfl
@[simp] theorem setSolver_buristWaits (s : Chip) (k : Nat) (x : List SolveRun) : (s.setSolver k x).buristWaits = s.buristWaits := rfl
@[simp] theorem setSolver_convUse (s : Chip) (k : Nat) (x : List SolveRun) : (s.setSolver k x).convUse = s.convUse := rfl
@[simp] theorem setSolver_firstError (s : Chip) (k : Nat) (x : List SolveRun) : (s.setSolver k x).firstError = s.firstError := rfl
@[simp] theorem setSolver_jobs (s : Chip) (k : Nat) (x : List SolveRun) : (s.setSolver k x).jobs = s.jobs := rfl
@[simp] theorem setSolver_fab (s : Chip) (k : Nat) (x : List SolveRun) : (s.setSolver k x).fab = s.fab := rfl
@[simp] theorem setSolver_mon (s : Chip) (k : Nat) (x : List SolveRun) : (s.setSolver k x).mon = s.mon := rfl
@[simp] theorem setSolver_flash (s : Chip) (k : Nat) (x : List SolveRun) : (s.setSolver k x).flash = s.flash := rfl
@[simp] theorem setSolver_boot (s : Chip) (k : Nat) (x : List SolveRun) : (s.setSolver k x).boot = s.boot := rfl
@[simp] theorem setSolver_staging (s : Chip) (k : Nat) (x : List SolveRun) : (s.setSolver k x).staging = s.staging := rfl
@[simp] theorem setSolver_power (s : Chip) (k : Nat) (x : List SolveRun) : (s.setSolver k x).power = s.power := rfl
@[simp] theorem setSolver_dap (s : Chip) (k : Nat) (x : List SolveRun) : (s.setSolver k x).dap = s.dap := rfl
@[simp] theorem setSolver_casts (s : Chip) (k : Nat) (x : List SolveRun) : (s.setSolver k x).casts = s.casts := rfl
@[simp] theorem setSolver_cmds (s : Chip) (k : Nat) (x : List SolveRun) : (s.setSolver k x).cmds = s.cmds := rfl
@[simp] theorem setSolver_pendingOff (s : Chip) (k : Nat) (x : List SolveRun) : (s.setSolver k x).pendingOff = s.pendingOff := rfl
@[simp] theorem setSolver_testing (s : Chip) (k : Nat) (x : List SolveRun) : (s.setSolver k x).testing = s.testing := rfl
@[simp] theorem setSolver_dumping (s : Chip) (k : Nat) (x : List SolveRun) : (s.setSolver k x).dumping = s.dumping := rfl
@[simp] theorem setSolver_dumped (s : Chip) (k : Nat) (x : List SolveRun) : (s.setSolver k x).dumped = s.dumped := rfl
@[simp] theorem setSolver_dumpNext (s : Chip) (k : Nat) (x : List SolveRun) : (s.setSolver k x).dumpNext = s.dumpNext := rfl
@[simp] theorem setSolver_out (s : Chip) (k : Nat) (x : List SolveRun) : (s.setSolver k x).out = s.out := rfl

/-! ### `setVe` changes `ves` alone -/

@[simp] theorem setVe_free (s : Chip) (c : Nat) (x : List VeRun) : (s.setVe c x).free = s.free := rfl
@[simp] theorem setVe_regs (s : Chip) (c : Nat) (x : List VeRun) : (s.setVe c x).regs = s.regs := rfl
@[simp] theorem setVe_log (s : Chip) (c : Nat) (x : List VeRun) : (s.setVe c x).log = s.log := rfl
@[simp] theorem setVe_mem (s : Chip) (c : Nat) (x : List VeRun) : (s.setVe c x).mem = s.mem := rfl
@[simp] theorem setVe_poison (s : Chip) (c : Nat) (x : List VeRun) : (s.setVe c x).poison = s.poison := rfl
@[simp] theorem setVe_tiles (s : Chip) (c : Nat) (x : List VeRun) : (s.setVe c x).tiles = s.tiles := rfl
@[simp] theorem setVe_preds (s : Chip) (c : Nat) (x : List VeRun) : (s.setVe c x).preds = s.preds := rfl
@[simp] theorem setVe_streams (s : Chip) (c : Nat) (x : List VeRun) : (s.setVe c x).streams = s.streams := rfl
@[simp] theorem setVe_arrays (s : Chip) (c : Nat) (x : List VeRun) : (s.setVe c x).arrays = s.arrays := rfl
@[simp] theorem setVe_solvers (s : Chip) (c : Nat) (x : List VeRun) : (s.setVe c x).solvers = s.solvers := rfl
@[simp] theorem setVe_engines (s : Chip) (c : Nat) (x : List VeRun) : (s.setVe c x).engines = s.engines := rfl
@[simp] theorem setVe_channels (s : Chip) (c : Nat) (x : List VeRun) : (s.setVe c x).channels = s.channels := rfl
@[simp] theorem setVe_prefetch (s : Chip) (c : Nat) (x : List VeRun) : (s.setVe c x).prefetch = s.prefetch := rfl
@[simp] theorem setVe_bypass (s : Chip) (c : Nat) (x : List VeRun) : (s.setVe c x).bypass = s.bypass := rfl
@[simp] theorem setVe_scrubAt (s : Chip) (c : Nat) (x : List VeRun) : (s.setVe c x).scrubAt = s.scrubAt := rfl
@[simp] theorem setVe_scrubPasses (s : Chip) (c : Nat) (x : List VeRun) : (s.setVe c x).scrubPasses = s.scrubPasses := rfl
@[simp] theorem setVe_scrubCorrected (s : Chip) (c : Nat) (x : List VeRun) : (s.setVe c x).scrubCorrected = s.scrubCorrected := rfl
@[simp] theorem setVe_objs (s : Chip) (c : Nat) (x : List VeRun) : (s.setVe c x).objs = s.objs := rfl
@[simp] theorem setVe_posted (s : Chip) (c : Nat) (x : List VeRun) : (s.setVe c x).posted = s.posted := rfl
@[simp] theorem setVe_registrations (s : Chip) (c : Nat) (x : List VeRun) : (s.setVe c x).registrations = s.registrations := rfl
@[simp] theorem setVe_wakes (s : Chip) (c : Nat) (x : List VeRun) : (s.setVe c x).wakes = s.wakes := rfl
@[simp] theorem setVe_cancels (s : Chip) (c : Nat) (x : List VeRun) : (s.setVe c x).cancels = s.cancels := rfl
@[simp] theorem setVe_buristWaits (s : Chip) (c : Nat) (x : List VeRun) : (s.setVe c x).buristWaits = s.buristWaits := rfl
@[simp] theorem setVe_convUse (s : Chip) (c : Nat) (x : List VeRun) : (s.setVe c x).convUse = s.convUse := rfl
@[simp] theorem setVe_firstError (s : Chip) (c : Nat) (x : List VeRun) : (s.setVe c x).firstError = s.firstError := rfl
@[simp] theorem setVe_jobs (s : Chip) (c : Nat) (x : List VeRun) : (s.setVe c x).jobs = s.jobs := rfl
@[simp] theorem setVe_fab (s : Chip) (c : Nat) (x : List VeRun) : (s.setVe c x).fab = s.fab := rfl
@[simp] theorem setVe_mon (s : Chip) (c : Nat) (x : List VeRun) : (s.setVe c x).mon = s.mon := rfl
@[simp] theorem setVe_flash (s : Chip) (c : Nat) (x : List VeRun) : (s.setVe c x).flash = s.flash := rfl
@[simp] theorem setVe_boot (s : Chip) (c : Nat) (x : List VeRun) : (s.setVe c x).boot = s.boot := rfl
@[simp] theorem setVe_staging (s : Chip) (c : Nat) (x : List VeRun) : (s.setVe c x).staging = s.staging := rfl
@[simp] theorem setVe_power (s : Chip) (c : Nat) (x : List VeRun) : (s.setVe c x).power = s.power := rfl
@[simp] theorem setVe_dap (s : Chip) (c : Nat) (x : List VeRun) : (s.setVe c x).dap = s.dap := rfl
@[simp] theorem setVe_casts (s : Chip) (c : Nat) (x : List VeRun) : (s.setVe c x).casts = s.casts := rfl
@[simp] theorem setVe_cmds (s : Chip) (c : Nat) (x : List VeRun) : (s.setVe c x).cmds = s.cmds := rfl
@[simp] theorem setVe_pendingOff (s : Chip) (c : Nat) (x : List VeRun) : (s.setVe c x).pendingOff = s.pendingOff := rfl
@[simp] theorem setVe_testing (s : Chip) (c : Nat) (x : List VeRun) : (s.setVe c x).testing = s.testing := rfl
@[simp] theorem setVe_dumping (s : Chip) (c : Nat) (x : List VeRun) : (s.setVe c x).dumping = s.dumping := rfl
@[simp] theorem setVe_dumped (s : Chip) (c : Nat) (x : List VeRun) : (s.setVe c x).dumped = s.dumped := rfl
@[simp] theorem setVe_dumpNext (s : Chip) (c : Nat) (x : List VeRun) : (s.setVe c x).dumpNext = s.dumpNext := rfl
@[simp] theorem setVe_out (s : Chip) (c : Nat) (x : List VeRun) : (s.setVe c x).out = s.out := rfl

/-! ### `post` changes `posted` alone -/

@[simp] theorem post_free (s : Chip) (o n u : Nat) : (s.post o n u).free = s.free := rfl
@[simp] theorem post_regs (s : Chip) (o n u : Nat) : (s.post o n u).regs = s.regs := rfl
@[simp] theorem post_log (s : Chip) (o n u : Nat) : (s.post o n u).log = s.log := rfl
@[simp] theorem post_mem (s : Chip) (o n u : Nat) : (s.post o n u).mem = s.mem := rfl
@[simp] theorem post_poison (s : Chip) (o n u : Nat) : (s.post o n u).poison = s.poison := rfl
@[simp] theorem post_tiles (s : Chip) (o n u : Nat) : (s.post o n u).tiles = s.tiles := rfl
@[simp] theorem post_preds (s : Chip) (o n u : Nat) : (s.post o n u).preds = s.preds := rfl
@[simp] theorem post_streams (s : Chip) (o n u : Nat) : (s.post o n u).streams = s.streams := rfl
@[simp] theorem post_arrays (s : Chip) (o n u : Nat) : (s.post o n u).arrays = s.arrays := rfl
@[simp] theorem post_ves (s : Chip) (o n u : Nat) : (s.post o n u).ves = s.ves := rfl
@[simp] theorem post_solvers (s : Chip) (o n u : Nat) : (s.post o n u).solvers = s.solvers := rfl
@[simp] theorem post_engines (s : Chip) (o n u : Nat) : (s.post o n u).engines = s.engines := rfl
@[simp] theorem post_channels (s : Chip) (o n u : Nat) : (s.post o n u).channels = s.channels := rfl
@[simp] theorem post_prefetch (s : Chip) (o n u : Nat) : (s.post o n u).prefetch = s.prefetch := rfl
@[simp] theorem post_bypass (s : Chip) (o n u : Nat) : (s.post o n u).bypass = s.bypass := rfl
@[simp] theorem post_scrubAt (s : Chip) (o n u : Nat) : (s.post o n u).scrubAt = s.scrubAt := rfl
@[simp] theorem post_scrubPasses (s : Chip) (o n u : Nat) : (s.post o n u).scrubPasses = s.scrubPasses := rfl
@[simp] theorem post_scrubCorrected (s : Chip) (o n u : Nat) : (s.post o n u).scrubCorrected = s.scrubCorrected := rfl
@[simp] theorem post_objs (s : Chip) (o n u : Nat) : (s.post o n u).objs = s.objs := rfl
@[simp] theorem post_registrations (s : Chip) (o n u : Nat) : (s.post o n u).registrations = s.registrations := rfl
@[simp] theorem post_wakes (s : Chip) (o n u : Nat) : (s.post o n u).wakes = s.wakes := rfl
@[simp] theorem post_cancels (s : Chip) (o n u : Nat) : (s.post o n u).cancels = s.cancels := rfl
@[simp] theorem post_buristWaits (s : Chip) (o n u : Nat) : (s.post o n u).buristWaits = s.buristWaits := rfl
@[simp] theorem post_convUse (s : Chip) (o n u : Nat) : (s.post o n u).convUse = s.convUse := rfl
@[simp] theorem post_firstError (s : Chip) (o n u : Nat) : (s.post o n u).firstError = s.firstError := rfl
@[simp] theorem post_jobs (s : Chip) (o n u : Nat) : (s.post o n u).jobs = s.jobs := rfl
@[simp] theorem post_fab (s : Chip) (o n u : Nat) : (s.post o n u).fab = s.fab := rfl
@[simp] theorem post_mon (s : Chip) (o n u : Nat) : (s.post o n u).mon = s.mon := rfl
@[simp] theorem post_flash (s : Chip) (o n u : Nat) : (s.post o n u).flash = s.flash := rfl
@[simp] theorem post_boot (s : Chip) (o n u : Nat) : (s.post o n u).boot = s.boot := rfl
@[simp] theorem post_staging (s : Chip) (o n u : Nat) : (s.post o n u).staging = s.staging := rfl
@[simp] theorem post_power (s : Chip) (o n u : Nat) : (s.post o n u).power = s.power := rfl
@[simp] theorem post_dap (s : Chip) (o n u : Nat) : (s.post o n u).dap = s.dap := rfl
@[simp] theorem post_casts (s : Chip) (o n u : Nat) : (s.post o n u).casts = s.casts := rfl
@[simp] theorem post_cmds (s : Chip) (o n u : Nat) : (s.post o n u).cmds = s.cmds := rfl
@[simp] theorem post_pendingOff (s : Chip) (o n u : Nat) : (s.post o n u).pendingOff = s.pendingOff := rfl
@[simp] theorem post_testing (s : Chip) (o n u : Nat) : (s.post o n u).testing = s.testing := rfl
@[simp] theorem post_dumping (s : Chip) (o n u : Nat) : (s.post o n u).dumping = s.dumping := rfl
@[simp] theorem post_dumped (s : Chip) (o n u : Nat) : (s.post o n u).dumped = s.dumped := rfl
@[simp] theorem post_dumpNext (s : Chip) (o n u : Nat) : (s.post o n u).dumpNext = s.dumpNext := rfl
@[simp] theorem post_out (s : Chip) (o n u : Nat) : (s.post o n u).out = s.out := rfl

/-! ### `emit` changes `out` alone -/

@[simp] theorem emit_free (s : Chip) (x : Out) : (s.emit x).free = s.free := rfl
@[simp] theorem emit_regs (s : Chip) (x : Out) : (s.emit x).regs = s.regs := rfl
@[simp] theorem emit_log (s : Chip) (x : Out) : (s.emit x).log = s.log := rfl
@[simp] theorem emit_mem (s : Chip) (x : Out) : (s.emit x).mem = s.mem := rfl
@[simp] theorem emit_poison (s : Chip) (x : Out) : (s.emit x).poison = s.poison := rfl
@[simp] theorem emit_tiles (s : Chip) (x : Out) : (s.emit x).tiles = s.tiles := rfl
@[simp] theorem emit_preds (s : Chip) (x : Out) : (s.emit x).preds = s.preds := rfl
@[simp] theorem emit_streams (s : Chip) (x : Out) : (s.emit x).streams = s.streams := rfl
@[simp] theorem emit_arrays (s : Chip) (x : Out) : (s.emit x).arrays = s.arrays := rfl
@[simp] theorem emit_ves (s : Chip) (x : Out) : (s.emit x).ves = s.ves := rfl
@[simp] theorem emit_solvers (s : Chip) (x : Out) : (s.emit x).solvers = s.solvers := rfl
@[simp] theorem emit_engines (s : Chip) (x : Out) : (s.emit x).engines = s.engines := rfl
@[simp] theorem emit_channels (s : Chip) (x : Out) : (s.emit x).channels = s.channels := rfl
@[simp] theorem emit_prefetch (s : Chip) (x : Out) : (s.emit x).prefetch = s.prefetch := rfl
@[simp] theorem emit_bypass (s : Chip) (x : Out) : (s.emit x).bypass = s.bypass := rfl
@[simp] theorem emit_scrubAt (s : Chip) (x : Out) : (s.emit x).scrubAt = s.scrubAt := rfl
@[simp] theorem emit_scrubPasses (s : Chip) (x : Out) : (s.emit x).scrubPasses = s.scrubPasses := rfl
@[simp] theorem emit_scrubCorrected (s : Chip) (x : Out) : (s.emit x).scrubCorrected = s.scrubCorrected := rfl
@[simp] theorem emit_objs (s : Chip) (x : Out) : (s.emit x).objs = s.objs := rfl
@[simp] theorem emit_posted (s : Chip) (x : Out) : (s.emit x).posted = s.posted := rfl
@[simp] theorem emit_registrations (s : Chip) (x : Out) : (s.emit x).registrations = s.registrations := rfl
@[simp] theorem emit_wakes (s : Chip) (x : Out) : (s.emit x).wakes = s.wakes := rfl
@[simp] theorem emit_cancels (s : Chip) (x : Out) : (s.emit x).cancels = s.cancels := rfl
@[simp] theorem emit_buristWaits (s : Chip) (x : Out) : (s.emit x).buristWaits = s.buristWaits := rfl
@[simp] theorem emit_convUse (s : Chip) (x : Out) : (s.emit x).convUse = s.convUse := rfl
@[simp] theorem emit_firstError (s : Chip) (x : Out) : (s.emit x).firstError = s.firstError := rfl
@[simp] theorem emit_jobs (s : Chip) (x : Out) : (s.emit x).jobs = s.jobs := rfl
@[simp] theorem emit_fab (s : Chip) (x : Out) : (s.emit x).fab = s.fab := rfl
@[simp] theorem emit_mon (s : Chip) (x : Out) : (s.emit x).mon = s.mon := rfl
@[simp] theorem emit_flash (s : Chip) (x : Out) : (s.emit x).flash = s.flash := rfl
@[simp] theorem emit_boot (s : Chip) (x : Out) : (s.emit x).boot = s.boot := rfl
@[simp] theorem emit_staging (s : Chip) (x : Out) : (s.emit x).staging = s.staging := rfl
@[simp] theorem emit_power (s : Chip) (x : Out) : (s.emit x).power = s.power := rfl
@[simp] theorem emit_dap (s : Chip) (x : Out) : (s.emit x).dap = s.dap := rfl
@[simp] theorem emit_casts (s : Chip) (x : Out) : (s.emit x).casts = s.casts := rfl
@[simp] theorem emit_cmds (s : Chip) (x : Out) : (s.emit x).cmds = s.cmds := rfl
@[simp] theorem emit_pendingOff (s : Chip) (x : Out) : (s.emit x).pendingOff = s.pendingOff := rfl
@[simp] theorem emit_testing (s : Chip) (x : Out) : (s.emit x).testing = s.testing := rfl
@[simp] theorem emit_dumping (s : Chip) (x : Out) : (s.emit x).dumping = s.dumping := rfl
@[simp] theorem emit_dumped (s : Chip) (x : Out) : (s.emit x).dumped = s.dumped := rfl
@[simp] theorem emit_dumpNext (s : Chip) (x : Out) : (s.emit x).dumpNext = s.dumpNext := rfl

/-! ### `writeTile` changes `tiles` alone -/

@[simp] theorem writeTile_free (s : Chip) (c b : Nat) (bs : List Byte) : (s.writeTile c b bs).free = s.free := rfl
@[simp] theorem writeTile_regs (s : Chip) (c b : Nat) (bs : List Byte) : (s.writeTile c b bs).regs = s.regs := rfl
@[simp] theorem writeTile_log (s : Chip) (c b : Nat) (bs : List Byte) : (s.writeTile c b bs).log = s.log := rfl
@[simp] theorem writeTile_mem (s : Chip) (c b : Nat) (bs : List Byte) : (s.writeTile c b bs).mem = s.mem := rfl
@[simp] theorem writeTile_poison (s : Chip) (c b : Nat) (bs : List Byte) : (s.writeTile c b bs).poison = s.poison := rfl
@[simp] theorem writeTile_preds (s : Chip) (c b : Nat) (bs : List Byte) : (s.writeTile c b bs).preds = s.preds := rfl
@[simp] theorem writeTile_streams (s : Chip) (c b : Nat) (bs : List Byte) : (s.writeTile c b bs).streams = s.streams := rfl
@[simp] theorem writeTile_arrays (s : Chip) (c b : Nat) (bs : List Byte) : (s.writeTile c b bs).arrays = s.arrays := rfl
@[simp] theorem writeTile_ves (s : Chip) (c b : Nat) (bs : List Byte) : (s.writeTile c b bs).ves = s.ves := rfl
@[simp] theorem writeTile_solvers (s : Chip) (c b : Nat) (bs : List Byte) : (s.writeTile c b bs).solvers = s.solvers := rfl
@[simp] theorem writeTile_engines (s : Chip) (c b : Nat) (bs : List Byte) : (s.writeTile c b bs).engines = s.engines := rfl
@[simp] theorem writeTile_channels (s : Chip) (c b : Nat) (bs : List Byte) : (s.writeTile c b bs).channels = s.channels := rfl
@[simp] theorem writeTile_prefetch (s : Chip) (c b : Nat) (bs : List Byte) : (s.writeTile c b bs).prefetch = s.prefetch := rfl
@[simp] theorem writeTile_bypass (s : Chip) (c b : Nat) (bs : List Byte) : (s.writeTile c b bs).bypass = s.bypass := rfl
@[simp] theorem writeTile_scrubAt (s : Chip) (c b : Nat) (bs : List Byte) : (s.writeTile c b bs).scrubAt = s.scrubAt := rfl
@[simp] theorem writeTile_scrubPasses (s : Chip) (c b : Nat) (bs : List Byte) : (s.writeTile c b bs).scrubPasses = s.scrubPasses := rfl
@[simp] theorem writeTile_scrubCorrected (s : Chip) (c b : Nat) (bs : List Byte) : (s.writeTile c b bs).scrubCorrected = s.scrubCorrected := rfl
@[simp] theorem writeTile_objs (s : Chip) (c b : Nat) (bs : List Byte) : (s.writeTile c b bs).objs = s.objs := rfl
@[simp] theorem writeTile_posted (s : Chip) (c b : Nat) (bs : List Byte) : (s.writeTile c b bs).posted = s.posted := rfl
@[simp] theorem writeTile_registrations (s : Chip) (c b : Nat) (bs : List Byte) : (s.writeTile c b bs).registrations = s.registrations := rfl
@[simp] theorem writeTile_wakes (s : Chip) (c b : Nat) (bs : List Byte) : (s.writeTile c b bs).wakes = s.wakes := rfl
@[simp] theorem writeTile_cancels (s : Chip) (c b : Nat) (bs : List Byte) : (s.writeTile c b bs).cancels = s.cancels := rfl
@[simp] theorem writeTile_buristWaits (s : Chip) (c b : Nat) (bs : List Byte) : (s.writeTile c b bs).buristWaits = s.buristWaits := rfl
@[simp] theorem writeTile_convUse (s : Chip) (c b : Nat) (bs : List Byte) : (s.writeTile c b bs).convUse = s.convUse := rfl
@[simp] theorem writeTile_firstError (s : Chip) (c b : Nat) (bs : List Byte) : (s.writeTile c b bs).firstError = s.firstError := rfl
@[simp] theorem writeTile_jobs (s : Chip) (c b : Nat) (bs : List Byte) : (s.writeTile c b bs).jobs = s.jobs := rfl
@[simp] theorem writeTile_fab (s : Chip) (c b : Nat) (bs : List Byte) : (s.writeTile c b bs).fab = s.fab := rfl
@[simp] theorem writeTile_mon (s : Chip) (c b : Nat) (bs : List Byte) : (s.writeTile c b bs).mon = s.mon := rfl
@[simp] theorem writeTile_flash (s : Chip) (c b : Nat) (bs : List Byte) : (s.writeTile c b bs).flash = s.flash := rfl
@[simp] theorem writeTile_boot (s : Chip) (c b : Nat) (bs : List Byte) : (s.writeTile c b bs).boot = s.boot := rfl
@[simp] theorem writeTile_staging (s : Chip) (c b : Nat) (bs : List Byte) : (s.writeTile c b bs).staging = s.staging := rfl
@[simp] theorem writeTile_power (s : Chip) (c b : Nat) (bs : List Byte) : (s.writeTile c b bs).power = s.power := rfl
@[simp] theorem writeTile_dap (s : Chip) (c b : Nat) (bs : List Byte) : (s.writeTile c b bs).dap = s.dap := rfl
@[simp] theorem writeTile_casts (s : Chip) (c b : Nat) (bs : List Byte) : (s.writeTile c b bs).casts = s.casts := rfl
@[simp] theorem writeTile_cmds (s : Chip) (c b : Nat) (bs : List Byte) : (s.writeTile c b bs).cmds = s.cmds := rfl
@[simp] theorem writeTile_pendingOff (s : Chip) (c b : Nat) (bs : List Byte) : (s.writeTile c b bs).pendingOff = s.pendingOff := rfl
@[simp] theorem writeTile_testing (s : Chip) (c b : Nat) (bs : List Byte) : (s.writeTile c b bs).testing = s.testing := rfl
@[simp] theorem writeTile_dumping (s : Chip) (c b : Nat) (bs : List Byte) : (s.writeTile c b bs).dumping = s.dumping := rfl
@[simp] theorem writeTile_dumped (s : Chip) (c b : Nat) (bs : List Byte) : (s.writeTile c b bs).dumped = s.dumped := rfl
@[simp] theorem writeTile_dumpNext (s : Chip) (c b : Nat) (bs : List Byte) : (s.writeTile c b bs).dumpNext = s.dumpNext := rfl
@[simp] theorem writeTile_out (s : Chip) (c b : Nat) (bs : List Byte) : (s.writeTile c b bs).out = s.out := rfl

/-! ### `useConv` changes `convUse` alone -/

@[simp] theorem useConv_free (s : Chip) (o : Nat) : (s.useConv o).free = s.free := rfl
@[simp] theorem useConv_regs (s : Chip) (o : Nat) : (s.useConv o).regs = s.regs := rfl
@[simp] theorem useConv_log (s : Chip) (o : Nat) : (s.useConv o).log = s.log := rfl
@[simp] theorem useConv_mem (s : Chip) (o : Nat) : (s.useConv o).mem = s.mem := rfl
@[simp] theorem useConv_poison (s : Chip) (o : Nat) : (s.useConv o).poison = s.poison := rfl
@[simp] theorem useConv_tiles (s : Chip) (o : Nat) : (s.useConv o).tiles = s.tiles := rfl
@[simp] theorem useConv_preds (s : Chip) (o : Nat) : (s.useConv o).preds = s.preds := rfl
@[simp] theorem useConv_streams (s : Chip) (o : Nat) : (s.useConv o).streams = s.streams := rfl
@[simp] theorem useConv_arrays (s : Chip) (o : Nat) : (s.useConv o).arrays = s.arrays := rfl
@[simp] theorem useConv_ves (s : Chip) (o : Nat) : (s.useConv o).ves = s.ves := rfl
@[simp] theorem useConv_solvers (s : Chip) (o : Nat) : (s.useConv o).solvers = s.solvers := rfl
@[simp] theorem useConv_engines (s : Chip) (o : Nat) : (s.useConv o).engines = s.engines := rfl
@[simp] theorem useConv_channels (s : Chip) (o : Nat) : (s.useConv o).channels = s.channels := rfl
@[simp] theorem useConv_prefetch (s : Chip) (o : Nat) : (s.useConv o).prefetch = s.prefetch := rfl
@[simp] theorem useConv_bypass (s : Chip) (o : Nat) : (s.useConv o).bypass = s.bypass := rfl
@[simp] theorem useConv_scrubAt (s : Chip) (o : Nat) : (s.useConv o).scrubAt = s.scrubAt := rfl
@[simp] theorem useConv_scrubPasses (s : Chip) (o : Nat) : (s.useConv o).scrubPasses = s.scrubPasses := rfl
@[simp] theorem useConv_scrubCorrected (s : Chip) (o : Nat) : (s.useConv o).scrubCorrected = s.scrubCorrected := rfl
@[simp] theorem useConv_objs (s : Chip) (o : Nat) : (s.useConv o).objs = s.objs := rfl
@[simp] theorem useConv_posted (s : Chip) (o : Nat) : (s.useConv o).posted = s.posted := rfl
@[simp] theorem useConv_registrations (s : Chip) (o : Nat) : (s.useConv o).registrations = s.registrations := rfl
@[simp] theorem useConv_wakes (s : Chip) (o : Nat) : (s.useConv o).wakes = s.wakes := rfl
@[simp] theorem useConv_cancels (s : Chip) (o : Nat) : (s.useConv o).cancels = s.cancels := rfl
@[simp] theorem useConv_buristWaits (s : Chip) (o : Nat) : (s.useConv o).buristWaits = s.buristWaits := rfl
@[simp] theorem useConv_firstError (s : Chip) (o : Nat) : (s.useConv o).firstError = s.firstError := rfl
@[simp] theorem useConv_jobs (s : Chip) (o : Nat) : (s.useConv o).jobs = s.jobs := rfl
@[simp] theorem useConv_fab (s : Chip) (o : Nat) : (s.useConv o).fab = s.fab := rfl
@[simp] theorem useConv_mon (s : Chip) (o : Nat) : (s.useConv o).mon = s.mon := rfl
@[simp] theorem useConv_flash (s : Chip) (o : Nat) : (s.useConv o).flash = s.flash := rfl
@[simp] theorem useConv_boot (s : Chip) (o : Nat) : (s.useConv o).boot = s.boot := rfl
@[simp] theorem useConv_staging (s : Chip) (o : Nat) : (s.useConv o).staging = s.staging := rfl
@[simp] theorem useConv_power (s : Chip) (o : Nat) : (s.useConv o).power = s.power := rfl
@[simp] theorem useConv_dap (s : Chip) (o : Nat) : (s.useConv o).dap = s.dap := rfl
@[simp] theorem useConv_casts (s : Chip) (o : Nat) : (s.useConv o).casts = s.casts := rfl
@[simp] theorem useConv_cmds (s : Chip) (o : Nat) : (s.useConv o).cmds = s.cmds := rfl
@[simp] theorem useConv_pendingOff (s : Chip) (o : Nat) : (s.useConv o).pendingOff = s.pendingOff := rfl
@[simp] theorem useConv_testing (s : Chip) (o : Nat) : (s.useConv o).testing = s.testing := rfl
@[simp] theorem useConv_dumping (s : Chip) (o : Nat) : (s.useConv o).dumping = s.dumping := rfl
@[simp] theorem useConv_dumped (s : Chip) (o : Nat) : (s.useConv o).dumped = s.dumped := rfl
@[simp] theorem useConv_dumpNext (s : Chip) (o : Nat) : (s.useConv o).dumpNext = s.dumpNext := rfl
@[simp] theorem useConv_out (s : Chip) (o : Nat) : (s.useConv o).out = s.out := rfl

/-! ### `freeConv` changes `convUse` alone -/

@[simp] theorem freeConv_free (s : Chip) (o : Nat) : (s.freeConv o).free = s.free := rfl
@[simp] theorem freeConv_regs (s : Chip) (o : Nat) : (s.freeConv o).regs = s.regs := rfl
@[simp] theorem freeConv_log (s : Chip) (o : Nat) : (s.freeConv o).log = s.log := rfl
@[simp] theorem freeConv_mem (s : Chip) (o : Nat) : (s.freeConv o).mem = s.mem := rfl
@[simp] theorem freeConv_poison (s : Chip) (o : Nat) : (s.freeConv o).poison = s.poison := rfl
@[simp] theorem freeConv_tiles (s : Chip) (o : Nat) : (s.freeConv o).tiles = s.tiles := rfl
@[simp] theorem freeConv_preds (s : Chip) (o : Nat) : (s.freeConv o).preds = s.preds := rfl
@[simp] theorem freeConv_streams (s : Chip) (o : Nat) : (s.freeConv o).streams = s.streams := rfl
@[simp] theorem freeConv_arrays (s : Chip) (o : Nat) : (s.freeConv o).arrays = s.arrays := rfl
@[simp] theorem freeConv_ves (s : Chip) (o : Nat) : (s.freeConv o).ves = s.ves := rfl
@[simp] theorem freeConv_solvers (s : Chip) (o : Nat) : (s.freeConv o).solvers = s.solvers := rfl
@[simp] theorem freeConv_engines (s : Chip) (o : Nat) : (s.freeConv o).engines = s.engines := rfl
@[simp] theorem freeConv_channels (s : Chip) (o : Nat) : (s.freeConv o).channels = s.channels := rfl
@[simp] theorem freeConv_prefetch (s : Chip) (o : Nat) : (s.freeConv o).prefetch = s.prefetch := rfl
@[simp] theorem freeConv_bypass (s : Chip) (o : Nat) : (s.freeConv o).bypass = s.bypass := rfl
@[simp] theorem freeConv_scrubAt (s : Chip) (o : Nat) : (s.freeConv o).scrubAt = s.scrubAt := rfl
@[simp] theorem freeConv_scrubPasses (s : Chip) (o : Nat) : (s.freeConv o).scrubPasses = s.scrubPasses := rfl
@[simp] theorem freeConv_scrubCorrected (s : Chip) (o : Nat) : (s.freeConv o).scrubCorrected = s.scrubCorrected := rfl
@[simp] theorem freeConv_objs (s : Chip) (o : Nat) : (s.freeConv o).objs = s.objs := rfl
@[simp] theorem freeConv_posted (s : Chip) (o : Nat) : (s.freeConv o).posted = s.posted := rfl
@[simp] theorem freeConv_registrations (s : Chip) (o : Nat) : (s.freeConv o).registrations = s.registrations := rfl
@[simp] theorem freeConv_wakes (s : Chip) (o : Nat) : (s.freeConv o).wakes = s.wakes := rfl
@[simp] theorem freeConv_cancels (s : Chip) (o : Nat) : (s.freeConv o).cancels = s.cancels := rfl
@[simp] theorem freeConv_buristWaits (s : Chip) (o : Nat) : (s.freeConv o).buristWaits = s.buristWaits := rfl
@[simp] theorem freeConv_firstError (s : Chip) (o : Nat) : (s.freeConv o).firstError = s.firstError := rfl
@[simp] theorem freeConv_jobs (s : Chip) (o : Nat) : (s.freeConv o).jobs = s.jobs := rfl
@[simp] theorem freeConv_fab (s : Chip) (o : Nat) : (s.freeConv o).fab = s.fab := rfl
@[simp] theorem freeConv_mon (s : Chip) (o : Nat) : (s.freeConv o).mon = s.mon := rfl
@[simp] theorem freeConv_flash (s : Chip) (o : Nat) : (s.freeConv o).flash = s.flash := rfl
@[simp] theorem freeConv_boot (s : Chip) (o : Nat) : (s.freeConv o).boot = s.boot := rfl
@[simp] theorem freeConv_staging (s : Chip) (o : Nat) : (s.freeConv o).staging = s.staging := rfl
@[simp] theorem freeConv_power (s : Chip) (o : Nat) : (s.freeConv o).power = s.power := rfl
@[simp] theorem freeConv_dap (s : Chip) (o : Nat) : (s.freeConv o).dap = s.dap := rfl
@[simp] theorem freeConv_casts (s : Chip) (o : Nat) : (s.freeConv o).casts = s.casts := rfl
@[simp] theorem freeConv_cmds (s : Chip) (o : Nat) : (s.freeConv o).cmds = s.cmds := rfl
@[simp] theorem freeConv_pendingOff (s : Chip) (o : Nat) : (s.freeConv o).pendingOff = s.pendingOff := rfl
@[simp] theorem freeConv_testing (s : Chip) (o : Nat) : (s.freeConv o).testing = s.testing := rfl
@[simp] theorem freeConv_dumping (s : Chip) (o : Nat) : (s.freeConv o).dumping = s.dumping := rfl
@[simp] theorem freeConv_dumped (s : Chip) (o : Nat) : (s.freeConv o).dumped = s.dumped := rfl
@[simp] theorem freeConv_dumpNext (s : Chip) (o : Nat) : (s.freeConv o).dumpNext = s.dumpNext := rfl
@[simp] theorem freeConv_out (s : Chip) (o : Nat) : (s.freeConv o).out = s.out := rfl

/-! ### `fresh` -/

@[simp] theorem fresh_regs (s : Chip) : s.fresh.regs = s.regs := rfl
@[simp] theorem fresh_log (s : Chip) : s.fresh.log = s.log := rfl
@[simp] theorem fresh_mem (s : Chip) : s.fresh.mem = s.mem := rfl
@[simp] theorem fresh_poison (s : Chip) : s.fresh.poison = s.poison := rfl
@[simp] theorem fresh_tiles (s : Chip) : s.fresh.tiles = s.tiles := rfl
@[simp] theorem fresh_preds (s : Chip) : s.fresh.preds = s.preds := rfl
@[simp] theorem fresh_streams (s : Chip) : s.fresh.streams = s.streams := rfl
@[simp] theorem fresh_arrays (s : Chip) : s.fresh.arrays = s.arrays := rfl
@[simp] theorem fresh_ves (s : Chip) : s.fresh.ves = s.ves := rfl
@[simp] theorem fresh_solvers (s : Chip) : s.fresh.solvers = s.solvers := rfl
@[simp] theorem fresh_engines (s : Chip) : s.fresh.engines = s.engines := rfl
@[simp] theorem fresh_channels (s : Chip) : s.fresh.channels = s.channels := rfl
@[simp] theorem fresh_prefetch (s : Chip) : s.fresh.prefetch = s.prefetch := rfl
@[simp] theorem fresh_bypass (s : Chip) : s.fresh.bypass = s.bypass := rfl
@[simp] theorem fresh_scrubAt (s : Chip) : s.fresh.scrubAt = s.scrubAt := rfl
@[simp] theorem fresh_scrubPasses (s : Chip) : s.fresh.scrubPasses = s.scrubPasses := rfl
@[simp] theorem fresh_scrubCorrected (s : Chip) : s.fresh.scrubCorrected = s.scrubCorrected := rfl
@[simp] theorem fresh_objs (s : Chip) : s.fresh.objs = s.objs := rfl
@[simp] theorem fresh_posted (s : Chip) : s.fresh.posted = s.posted := rfl
@[simp] theorem fresh_registrations (s : Chip) : s.fresh.registrations = s.registrations := rfl
@[simp] theorem fresh_wakes (s : Chip) : s.fresh.wakes = s.wakes := rfl
@[simp] theorem fresh_cancels (s : Chip) : s.fresh.cancels = s.cancels := rfl
@[simp] theorem fresh_buristWaits (s : Chip) : s.fresh.buristWaits = s.buristWaits := rfl
@[simp] theorem fresh_convUse (s : Chip) : s.fresh.convUse = s.convUse := rfl
@[simp] theorem fresh_firstError (s : Chip) : s.fresh.firstError = s.firstError := rfl
@[simp] theorem fresh_jobs (s : Chip) : s.fresh.jobs = s.jobs := rfl
@[simp] theorem fresh_fab (s : Chip) : s.fresh.fab = s.fab := rfl
@[simp] theorem fresh_mon (s : Chip) : s.fresh.mon = s.mon := rfl
@[simp] theorem fresh_flash (s : Chip) : s.fresh.flash = s.flash := rfl
@[simp] theorem fresh_boot (s : Chip) : s.fresh.boot = s.boot := rfl
@[simp] theorem fresh_staging (s : Chip) : s.fresh.staging = s.staging := rfl
@[simp] theorem fresh_power (s : Chip) : s.fresh.power = s.power := rfl
@[simp] theorem fresh_dap (s : Chip) : s.fresh.dap = s.dap := rfl
@[simp] theorem fresh_casts (s : Chip) : s.fresh.casts = s.casts := rfl
@[simp] theorem fresh_cmds (s : Chip) : s.fresh.cmds = s.cmds := rfl
@[simp] theorem fresh_pendingOff (s : Chip) : s.fresh.pendingOff = s.pendingOff := rfl
@[simp] theorem fresh_testing (s : Chip) : s.fresh.testing = s.testing := rfl
@[simp] theorem fresh_dumping (s : Chip) : s.fresh.dumping = s.dumping := rfl
@[simp] theorem fresh_dumped (s : Chip) : s.fresh.dumped = s.dumped := rfl
@[simp] theorem fresh_dumpNext (s : Chip) : s.fresh.dumpNext = s.dumpNext := rfl
@[simp] theorem fresh_free (s : Chip) : s.fresh.free = s.free + 1 := rfl
@[simp] theorem fresh_out (s : Chip) : s.fresh.out = [] := rfl

/-! ## Reads after writes -/

@[simp] theorem reg_setReg_self (s : Chip) (ix sub v : Nat) : (s.setReg ix sub v).reg ix sub = v % 2 ^ 64 := by
  simp [reg, setReg]

theorem reg_setReg_of_ne (s : Chip) (ix sub v i j : Nat) (h : Objects.key i j ≠ Objects.key ix sub) :
    (s.setReg ix sub v).reg i j = s.reg i j := by
  simp [reg, setReg, SMap.get_set_of_ne _ _ _ _ _ _ h]

theorem reg_setReg (s : Chip) (ix sub v i j : Nat) :
    (s.setReg ix sub v).reg i j = if Objects.key i j = Objects.key ix sub then v % 2 ^ 64 else s.reg i j := by
  split
  · next h => simp [reg, setReg, h]
  · next h => exact reg_setReg_of_ne s ix sub v i j h

theorem reg_lt (s : Chip) (ix sub : Nat) : s.reg ix sub < 2 ^ 64 := BitVec.isLt _

@[simp] theorem job_setJob_self (s : Chip) (j : Nat) (x : Option Job) : (s.setJob j x).job j = x := by simp [job, setJob]

theorem job_setJob_of_ne (s : Chip) (j i : Nat) (x : Option Job) (h : i ≠ j) : (s.setJob j x).job i = s.job i := by
  simp [job, setJob, SMap.get_set_of_ne _ _ _ _ _ _ h]

@[simp] theorem stream_setStream_self (s : Chip) (c st : Nat) (x : Stream) : (s.setStream c st x).stream c st = x := by
  simp [stream, setStream]

theorem stream_setStream_of_ne (s : Chip) (c st d u : Nat) (x : Stream) (h : 4 * d + u ≠ 4 * c + st) :
    (s.setStream c st x).stream d u = s.stream d u := by
  simp [stream, setStream, SMap.get_set_of_ne _ _ _ _ _ _ h]

@[simp] theorem stream_updStream_self (s : Chip) (c st : Nat) (f : Stream → Stream) :
    (s.updStream c st f).stream c st = f (s.stream c st) := by
  simp [updStream]

theorem stream_updStream_of_ne (s : Chip) (c st d u : Nat) (f : Stream → Stream) (h : 4 * d + u ≠ 4 * c + st) :
    (s.updStream c st f).stream d u = s.stream d u := stream_setStream_of_ne s c st d u _ h

@[simp] theorem obj_setObj_self (s : Chip) (o : Nat) (x : Obj) : (s.setObj o x).obj o = x := by simp [obj, setObj]

theorem obj_setObj_of_ne (s : Chip) (o p : Nat) (x : Obj) (h : p ≠ o) : (s.setObj o x).obj p = s.obj p := by
  simp [obj, setObj, SMap.get_set_of_ne _ _ _ _ _ _ h]

@[simp] theorem engine_setEngine_self (s : Chip) (e : Nat) (x : Engine) : (s.setEngine e x).engine e = x := by
  simp [engine, setEngine]

@[simp] theorem array_setArray_self (s : Chip) (c a : Nat) (x : Arr) : (s.setArray c a x).array c a = x := by
  simp [array, setArray]

@[simp] theorem ve_setVe_self (s : Chip) (c : Nat) (x : List VeRun) : (s.setVe c x).ve c = x := by simp [ve, setVe]

@[simp] theorem solver_setSolver_self (s : Chip) (k : Nat) (x : List SolveRun) : (s.setSolver k x).solver k = x := by
  simp [solver, setSolver]

@[simp] theorem chan_setChan_self (s : Chip) (n : Nat) (x : Chan) : (s.setChan n x).chan n = x := by simp [chan, setChan]

/-- p0 reads as all ones whatever is written to it (R128). -/
@[simp] theorem pred_zero (s : Chip) (c : Nat) : s.pred c 0 = BitVec.allOnes 256 := rfl

theorem pred_setPred_self (s : Chip) (c p : Nat) (v : BitVec 256) (h : p ≠ 0) : (s.setPred c p v).pred c p = v := by
  simp [pred, setPred, h]

@[simp] theorem readTile_writeTile_self (s : Chip) (c b : Nat) (bs : List Byte) :
    (s.writeTile c b bs).readTile c b bs.length = bs := by
  simp [readTile, writeTile]

end Chip

@[simp] theorem State.on_chip (s : State) (h : Chip) : (s.on h).chip = h := rfl
@[simp] theorem State.on_plat (s : State) (h : Chip) : (s.on h).plat = s.plat := rfl
@[simp] theorem State.on_pending (s : State) (h : Chip) : (s.on h).pending = s.pending := rfl

end Sys2Proof.Machine
end

