-- ==== Sys2Proof/Laws/Ops.lean ====
section
/-! SUPPORT. What each shared operation can do, said once: the wrappers of the commands, the pumping of streams, the command
queue, and memory. -/

namespace Sys2Proof.Machine

/-! ## Wrappers -/

/-- A package held in reset does not change. -/
theorem onChip_held (f : Chip → Chip) (s : State) (h : s.plat.running = false) : onChip f s = .next s := by
  simp [onChip, h]

/-- A running package makes the command's change with fresh free values. -/
theorem onChip_running (f : Chip → Chip) (s : State) (h : s.plat.running = true) :
    onChip f s = .next (s.on (f s.chip.fresh)) := by
  simp [onChip, h, State.on, Chip.fresh]

theorem onLinks_running (f : Chip → Chip) (s : State) (h : s.plat.running = true) :
    onLinks f s = .next (s.on (s.chip.fresh.afterLinks (f s.chip.fresh))) := onChip_running _ s h

theorem onJobs_running (f : Chip → Chip) (s : State) (h : s.plat.running = true) :
    onJobs f s = .next (s.on (f s.chip.fresh).settleQueue) := onChip_running _ s h

theorem onServer_running (f : Bool → Chip → Chip) (s : State) (h : s.plat.running = true) :
    onServer f s = .next (s.on (s.chip.fresh.afterLinks (f s.plat.lf s.chip.fresh)).settleQueue) := onChip_running _ s h

theorem State.calm_running {s : State} (h : s.calm = true) : s.plat.running = true := by
  simp only [State.calm, Bool.and_eq_true] at h; exact h.1

theorem State.calm_chip {s : State} (h : s.calm = true) : s.chip.calm = true := by
  simp only [State.calm, Bool.and_eq_true] at h; exact h.2

namespace Chip

/-! ## A calm package -/

/-- Every stream a calm package lists holds no entry. -/
theorem calm_entries {s : Chip} (h : s.calm = true) : ∀ e ∈ s.streams, e.2.held = [] := by
  simp only [calm, Bool.and_eq_true, List.all_eq_true] at h
  intro e he
  simpa using h.1.1 e he

theorem calm_cmds {s : Chip} (h : s.calm = true) : s.cmds = [] := by
  simp only [calm, Bool.and_eq_true] at h
  simpa using h.1.2

theorem calm_undelivered {s : Chip} (h : s.calm = true) : s.fab.undelivered = [] := by
  simp only [calm, Bool.and_eq_true] at h
  simpa using h.2

/-- What every listed value satisfies and the default satisfies, every key's value satisfies. -/
theorem smap_forall {α : Type} (d : α) (P : α → Prop) (hd : P d) : ∀ (m : SMap α) (k : Nat), (∀ e ∈ m, P e.2) →
    P (SMap.get d m k)
  | [], _, _ => hd
  | (j, v) :: t, k, h => by
    unfold SMap.get
    split
    · exact h (j, v) List.mem_cons_self
    · exact smap_forall d P hd t k (fun e he => h e (List.mem_cons_of_mem _ he))

theorem calm_held {s : Chip} (h : s.calm = true) (c st : Nat) : (s.stream c st).held = [] :=
  smap_forall (α := Stream) {} (fun y => y.held = []) rfl s.streams (4 * c + st) (calm_entries h)

@[simp] theorem fresh_calm (s : Chip) : s.fresh.calm = s.calm := rfl

/-! ## Pumping -/

/-- A stream without entries issues nothing. -/
theorem pump_of_held_nil (s : Chip) (c st : Nat) (h : (s.stream c st).held = []) : s.pump c st = s := by
  simp [pump, h, pumpN]

/-- No request ends where none waits to. -/
theorem dropLost_of_nil (n : Nat) (s : Chip) (h : s.fab.undelivered = []) : dropLost n s = s := by
  cases n <;> simp [dropLost, h]

/-- A package whose streams hold no entries, with no request about to end, issues nothing. -/
theorem pumpAll_of_entries (s : Chip) (h : ∀ e ∈ s.streams, e.2.held = []) (hu : s.fab.undelivered = []) : s.pumpAll = s := by
  have : s.streams.filter (fun e => !e.2.held.isEmpty) = [] := by
    rw [List.filter_eq_nil_iff]
    intro e he
    simp [h e he]
  simp [pumpAll, dropLost_of_nil _ s hu, this]

theorem pumpAll_of_calm (s : Chip) (h : s.calm = true) : s.pumpAll = s := pumpAll_of_entries s (calm_entries h) (calm_undelivered h)

/-- A core that is not draining and whose streams hold no entries settles as it is. -/
theorem settle_of_held_nil (s : Chip) (c : CoreId) (h : ∀ st, st < 4 → (s.stream c st).held = []) (hc : s.coreState c ≠ 2) :
    s.settle c = s := by
  simp [settle, pump_of_held_nil s c _ (h 0 (by omega)), pump_of_held_nil s c _ (h 1 (by omega)),
    pump_of_held_nil s c _ (h 2 (by omega)), pump_of_held_nil s c _ (h 3 (by omega)), settleCore, hc]

theorem settle_of_calm (s : Chip) (c : CoreId) (h : s.calm = true) (hc : s.coreState c ≠ 2) : s.settle c = s :=
  settle_of_held_nil s c (fun _ _ => calm_held h _ _) hc

theorem settleCore_of_ne (s : Chip) (c : CoreId) (hc : s.coreState c ≠ 2) : s.settleCore c = s := by simp [settleCore, hc]

/-! ## The command queue and the link-state database -/

theorem settleQueue_of_nil (s : Chip) (h : s.cmds = []) : s.settleQueue = s := by
  simp [settleQueue, runQueue, h, takeOut]

theorem settleQueue_of_calm (s : Chip) (h : s.calm = true) : s.settleQueue = s := settleQueue_of_nil s (calm_cmds h)

theorem afterLinks_of_eq (s t : Chip) (h : t.fab.lsdb = s.fab.lsdb) : s.afterLinks t = t := by simp [afterLinks, h]

/-! ## Memory -/

/-- A write past all guards keeps memory's canonical form. -/
theorem storeRaw_memWf (s : Chip) (off : Nat) (bs : List Byte) (h : s.memWf = true) : (s.storeRaw off bs).2.memWf = true := by
  have keepSet : ∀ (ls : List Nat) (t : Chip), (ls.foldl (fun s l => s.setPoison l false) t).mem = t.mem := by
    intro ls
    induction ls with
    | nil => intro t; rfl
    | cons l ls ih =>
      intro t
      rw [List.foldl_cons, ih]
      unfold setPoison
      split
      · rfl
      · simp only; split <;> rfl
  have keepOld : ∀ (f : Nat → List Byte) (ls : List Nat) (t : Chip), SMap.wf 0 t.mem = true →
      SMap.wf 0 (ls.foldl (fun (t : Chip) l => { t with mem := SMap.setRange 0 t.mem (64 * l) (f l) }) t).mem = true := by
    intro f ls
    induction ls with
    | nil => intro t h; exact h
    | cons l ls ih =>
      intro t h
      rw [List.foldl_cons]
      exact ih _ (SMap.wf_setRange 0 t.mem _ _ h)
  unfold storeRaw
  split
  · simp only
    refine keepOld _ _ _ ?_
    simp only [keepSet]
    exact SMap.wf_setRange 0 s.mem _ _ h
  · exact SMap.wf_setRange 0 s.mem _ _ h

/-- A part of a write that stalls changes no memory. -/
@[simp] theorem stallAt_mem (s : Chip) (e g : Nat) (w : StalledWrite) : (s.stallAt e g w).mem = s.mem := rfl

@[simp] theorem countStall_mem (s : Chip) (gs : List Nat) (e : Nat) : (s.countStall gs e).mem = s.mem := rfl

theorem storePart_memWf (us : List Nat) (m : Option Msg) (a : Nat × Chip) (p : Nat × List Byte) (h : a.2.memWf = true) :
    (storePart us m a p).2.memWf = true := by
  unfold storePart
  split
  · exact h
  · exact storeRaw_memWf _ _ _ h

/-- A write on behalf of units keeps memory's canonical form, whatever part of it stalls. -/
theorem storeFor_memWf (s : Chip) (us : List Nat) (off : Nat) (bs : List Byte) (m : Option Msg) (h : s.memWf = true) :
    (s.storeFor us off bs m).2.memWf = true := by
  have counts : ∀ (gs es : List Nat) (t : Chip), (es.foldl (fun (t : Chip) e => t.countStall gs e) t).mem = t.mem := by
    intro gs es
    induction es with
    | nil => intro t; rfl
    | cons e es ih => intro t; rw [List.foldl_cons, ih]; rfl
  have parts : ∀ (ps : List (Nat × List Byte)) (a : Nat × Chip), a.2.memWf = true →
      (ps.foldl (storePart us m) a).2.memWf = true := by
    intro ps
    induction ps with
    | nil => intro a h; exact h
    | cons p ps ih => intro a h; rw [List.foldl_cons]; exact ih _ (storePart_memWf us m a p h)
  unfold storeFor
  split
  · exact h
  · split
    · exact storeRaw_memWf s off bs h
    · refine parts _ _ ?_
      simp only [memWf, counts]
      exact h

/-- A write by a unit keeps memory's canonical form. -/
theorem store_memWf (s : Chip) (u off : Nat) (bs : List Byte) (h : s.memWf = true) : (s.store u off bs).2.memWf = true :=
  storeFor_memWf s [u] off bs none h

theorem put_memWf (s : Chip) (u off : Nat) (bs : List Byte) (h : s.memWf = true) : (s.put u off bs).memWf = true :=
  store_memWf s u off bs h

/-- A write behind the unit's earlier writes keeps it too. -/
theorem putAfter_memWf (s : Chip) (u off : Nat) (bs : List Byte) (h : s.memWf = true) : (s.putAfter u off bs).memWf = true := by
  unfold putAfter
  split
  · exact h
  · exact put_memWf s u off bs h

theorem spoil_memWf (s : Chip) (u off n : Nat) (h : s.memWf = true) : (s.spoil u off n).memWf = true := by
  have parts : ∀ (ps : List (Nat × List Byte)) (t : Chip), t.memWf = true →
      (ps.foldl (fun (t : Chip) p =>
        if (t.guardAt p.1 p.2.length).isSome then t else { t with mem := SMap.setRange 0 t.mem p.1 p.2 }) t).memWf = true := by
    intro ps
    induction ps with
    | nil => intro t h; exact h
    | cons p ps ih =>
      intro t h
      rw [List.foldl_cons]
      refine ih _ ?_
      split
      · exact h
      · exact SMap.wf_setRange 0 t.mem _ _ h
  exact parts _ s h

/-- Without poison and guards a write puts its bytes, and nothing else. -/
theorem store_plain (s : Chip) (u off : Nat) (bs : List Byte) (hn : bs ≠ []) (hp : s.poison = [])
    (hg : s.guardAt off bs.length = none) :
    s.store u off bs = (0, { s with mem := SMap.setRange 0 s.mem off bs }) := by
  have : bs.isEmpty = false := by simpa using hn
  simp [store, storeFor, storeRaw, poisoned, hp, hg, this]

end Chip

end Sys2Proof.Machine
end

