-- ==== Sys2Proof/Laws/Dispatch.lean ====
section
/-! SUPPORT. Each arm of `exec` as an equation, and what the arms can do at all. -/

namespace Sys2Proof.Machine

@[simp] theorem exec_load who b store (s : State) : exec (.load who b store) s = execLoad who b store s := rfl
@[simp] theorem exec_start who b store (s : State) : exec (.start who b store) s = execStart who b store s := rfl
@[simp] theorem exec_pause who b (s : State) : exec (.pause who b) s = execPause who b s := rfl
@[simp] theorem exec_resume who b (s : State) : exec (.resume who b) s = execResume who b s := rfl
@[simp] theorem exec_checkpoint who b (s : State) : exec (.checkpoint who b) s = execCheckpoint who b s := rfl
@[simp] theorem exec_stop who b (s : State) : exec (.stop who b) s = execStop who b s := rfl
@[simp] theorem exec_batchWindow who b (s : State) : exec (.batchWindow who b) s = execBatchWindow who b s := rfl
@[simp] theorem exec_bootBundleSubmit (s : State) : exec (.bootBundleSubmit) s = execBootBundleSubmit s := rfl
@[simp] theorem exec_stepBoundary slot (s : State) : exec (.stepBoundary slot) s = execStepBoundary slot s := rfl
@[simp] theorem exec_g3Compat who v (s : State) : exec (.g3Compat who v) s = execG3Compat who v s := rfl
@[simp] theorem exec_jadeMode who v (s : State) : exec (.jadeMode who v) s = execJadeMode who v s := rfl
@[simp] theorem exec_nodeNumber who v (s : State) : exec (.nodeNumber who v) s = execNodeNumber who v s := rfl
@[simp] theorem exec_portEnable who p v (s : State) : exec (.portEnable who p v) s = execPortEnable who p v s := rfl
@[simp] theorem exec_arrayState who c a v (s : State) : exec (.arrayState who c a v) s = execArrayState who c a v s := rfl
@[simp] theorem exec_coreState who c v (s : State) : exec (.coreState who c v) s = execCoreState who c v s := rfl
@[simp] theorem exec_solverState who k v (s : State) : exec (.solverState who k v) s = execSolverState who k v s := rfl
@[simp] theorem exec_engineState who e v (s : State) : exec (.engineState who e v) s = execEngineState who e v s := rfl
@[simp] theorem exec_channelState who n v (s : State) : exec (.channelState who n v) s = execChannelState who n v s := rfl
@[simp] theorem exec_recoveryTestDone u pass (s : State) : exec (.recoveryTestDone u pass) s = execRecoveryTestDone u pass s := rfl
@[simp] theorem exec_stageSize who v (s : State) : exec (.stageSize who v) s = execStageSize who v s := rfl
@[simp] theorem exec_stageData who offset bytes (s : State) : exec (.stageData who offset bytes) s = execStageData who offset bytes s := rfl
@[simp] theorem exec_dumpTrigger who v (s : State) : exec (.dumpTrigger who v) s = execDumpTrigger who v s := rfl
@[simp] theorem exec_dumpComplete (s : State) : exec (.dumpComplete) s = execDumpComplete s := rfl
@[simp] theorem exec_sleepRequest who v (s : State) : exec (.sleepRequest who v) s = execSleepRequest who v s := rfl
@[simp] theorem exec_bootCommit who v (s : State) : exec (.bootCommit who v) s = execBootCommit who v s := rfl
@[simp] theorem exec_bootCommitTimeout (s : State) : exec (.bootCommitTimeout) s = execBootCommitTimeout s := rfl
@[simp] theorem exec_partitionEnable who v (s : State) : exec (.partitionEnable who v) s = execPartitionEnable who v s := rfl
@[simp] theorem exec_safeClear who v (s : State) : exec (.safeClear who v) s = execSafeClear who v s := rfl
@[simp] theorem exec_keyEnroll who bytes (s : State) : exec (.keyEnroll who bytes) s = execKeyEnroll who bytes s := rfl
@[simp] theorem exec_keyRevoke who bytes (s : State) : exec (.keyRevoke who bytes) s = execKeyRevoke who bytes s := rfl
@[simp] theorem exec_signingPolicy who v (s : State) : exec (.signingPolicy who v) s = execSigningPolicy who v s := rfl
@[simp] theorem exec_rollbackAdvance who v (s : State) : exec (.rollbackAdvance who v) s = execRollbackAdvance who v s := rfl
@[simp] theorem exec_nonce who bytes (s : State) : exec (.nonce who bytes) s = execNonce who bytes s := rfl
@[simp] theorem exec_wdObject who slot field v (s : State) : exec (.wdObject who slot field v) s = execWdObject who slot field v s := rfl
@[simp] theorem exec_dictionaryWrite who index sub ty offset bytes (s : State) : exec (.dictionaryWrite who index sub ty offset bytes) s = execDictionaryWrite who index sub ty offset bytes s := rfl
@[simp] theorem exec_init t f (s : State) : exec (.init t f) s = execInit t f s := rfl
@[simp] theorem exec_confirm t f (s : State) : exec (.confirm t f) s = execConfirm t f s := rfl
@[simp] theorem exec_close t f (s : State) : exec (.close t f) s = execClose t f s := rfl
@[simp] theorem exec_handshakeTimeout sid (s : State) : exec (.handshakeTimeout sid) s = execHandshakeTimeout sid s := rfl
@[simp] theorem exec_sessionTimeout sid (s : State) : exec (.sessionTimeout sid) s = execSessionTimeout sid s := rfl
@[simp] theorem exec_dapRead t f (s : State) : exec (.dapRead t f) s = execDapRead t f s := rfl
@[simp] theorem exec_dapWrite t f (s : State) : exec (.dapWrite t f) s = execDapWrite t f s := rfl
@[simp] theorem exec_writeMulti t f (s : State) : exec (.writeMulti t f) s = execWriteMulti t f s := rfl
@[simp] theorem exec_subscribe t f (s : State) : exec (.subscribe t f) s = execSubscribe t f s := rfl
@[simp] theorem exec_unsubscribe t f (s : State) : exec (.unsubscribe t f) s = execUnsubscribe t f s := rfl
@[simp] theorem exec_eventAck t f (s : State) : exec (.eventAck t f) s = execEventAck t f s := rfl
@[simp] theorem exec_event sid subId (s : State) : exec (.event sid subId) s = execEvent sid subId s := rfl
@[simp] theorem exec_eventResend sid subId (s : State) : exec (.eventResend sid subId) s = execEventResend sid subId s := rfl
@[simp] theorem exec_dapForward t f (s : State) : exec (.dapForward t f) s = execDapForward t f s := rfl
@[simp] theorem exec_h2pPoll slot (s : State) : exec (.h2pPoll slot) s = execH2pPoll slot s := rfl
@[simp] theorem exec_msixRaise (s : State) : exec (.msixRaise) s = execMsixRaise s := rfl
@[simp] theorem exec_wload c a tag x (s : State) : exec (.wload c a tag x) s = execWload c a tag x s := rfl
@[simp] theorem exec_stream c a tag x (s : State) : exec (.stream c a tag x) s = execStream c a tag x s := rfl
@[simp] theorem exec_drain c a tag x (s : State) : exec (.drain c a tag x) s = execDrain c a tag x s := rfl
@[simp] theorem exec_wloadComplete c a parity line (s : State) : exec (.wloadComplete c a parity line) s = execWloadComplete c a parity s line := rfl
@[simp] theorem exec_streamComplete c a parity line (s : State) : exec (.streamComplete c a parity line) s = execStreamComplete c a parity s line := rfl
@[simp] theorem exec_drainComplete c a parity line (s : State) : exec (.drainComplete c a parity line) s = execDrainComplete c a parity s line := rfl
@[simp] theorem exec_selftestDue c a (s : State) : exec (.selftestDue c a) s = execSelftestDue c a s := rfl
@[simp] theorem exec_selftestPass c a parity (s : State) : exec (.selftestPass c a parity) s = execSelftestPass c a parity s := rfl
@[simp] theorem exec_selftestPassEnd c a signature (s : State) : exec (.selftestPassEnd c a signature) s = execSelftestPassEnd c a signature s := rfl
@[simp] theorem exec_arrayDrainBound c a (s : State) : exec (.arrayDrainBound c a) s = execArrayDrainBound c a s := rfl
@[simp] theorem exec_arrayDrainEnd c a (s : State) : exec (.arrayDrainEnd c a) s = execArrayDrainEnd c a s := rfl
@[simp] theorem exec_vld c tag x (s : State) : exec (.vld c tag x) s = execVld c tag x s := rfl
@[simp] theorem exec_vst c tag x (s : State) : exec (.vst c tag x) s = execVst c tag x s := rfl
@[simp] theorem exec_mov c tag x (s : State) : exec (.mov c tag x) s = execMov c tag x s := rfl
@[simp] theorem exec_bcast c tag x (s : State) : exec (.bcast c tag x) s = execBcast c tag x s := rfl
@[simp] theorem exec_add c tag x (s : State) : exec (.add c tag x) s = execAdd c tag x s := rfl
@[simp] theorem exec_sub c tag x (s : State) : exec (.sub c tag x) s = execSub c tag x s := rfl
@[simp] theorem exec_mul c tag x (s : State) : exec (.mul c tag x) s = execMul c tag x s := rfl
@[simp] theorem exec_fma c tag x (s : State) : exec (.fma c tag x) s = execFma c tag x s := rfl
@[simp] theorem exec_min c tag x (s : State) : exec (.min c tag x) s = execMin c tag x s := rfl
@[simp] theorem exec_max c tag x (s : State) : exec (.max c tag x) s = execMax c tag x s := rfl
@[simp] theorem exec_abs c tag x (s : State) : exec (.abs c tag x) s = execAbs c tag x s := rfl
@[simp] theorem exec_neg c tag x (s : State) : exec (.neg c tag x) s = execNeg c tag x s := rfl
@[simp] theorem exec_and c tag x (s : State) : exec (.and c tag x) s = execAnd c tag x s := rfl
@[simp] theorem exec_or c tag x (s : State) : exec (.or c tag x) s = execOr c tag x s := rfl
@[simp] theorem exec_xor c tag x (s : State) : exec (.xor c tag x) s = execXor c tag x s := rfl
@[simp] theorem exec_shl c tag x (s : State) : exec (.shl c tag x) s = execShl c tag x s := rfl
@[simp] theorem exec_shr c tag x (s : State) : exec (.shr c tag x) s = execShr c tag x s := rfl
@[simp] theorem exec_rcp c tag x (s : State) : exec (.rcp c tag x) s = execRcp c tag x s := rfl
@[simp] theorem exec_rsqrt c tag x (s : State) : exec (.rsqrt c tag x) s = execRsqrt c tag x s := rfl
@[simp] theorem exec_sqrt c tag x (s : State) : exec (.sqrt c tag x) s = execSqrt c tag x s := rfl
@[simp] theorem exec_exp2 c tag x (s : State) : exec (.exp2 c tag x) s = execExp2 c tag x s := rfl
@[simp] theorem exec_log2 c tag x (s : State) : exec (.log2 c tag x) s = execLog2 c tag x s := rfl
@[simp] theorem exec_tanh c tag x (s : State) : exec (.tanh c tag x) s = execTanh c tag x s := rfl
@[simp] theorem exec_sigmoid c tag x (s : State) : exec (.sigmoid c tag x) s = execSigmoid c tag x s := rfl
@[simp] theorem exec_silu c tag x (s : State) : exec (.silu c tag x) s = execSilu c tag x s := rfl
@[simp] theorem exec_gelu c tag x (s : State) : exec (.gelu c tag x) s = execGelu c tag x s := rfl
@[simp] theorem exec_cmp c tag x (s : State) : exec (.cmp c tag x) s = execCmp c tag x s := rfl
@[simp] theorem exec_sel c tag x (s : State) : exec (.sel c tag x) s = execSel c tag x s := rfl
@[simp] theorem exec_cmpp c tag x (s : State) : exec (.cmpp c tag x) s = execCmpp c tag x s := rfl
@[simp] theorem exec_pfirst c tag x (s : State) : exec (.pfirst c tag x) s = execPfirst c tag x s := rfl
@[simp] theorem exec_plogic c tag x (s : State) : exec (.plogic c tag x) s = execPlogic c tag x s := rfl
@[simp] theorem exec_cvt c tag x (s : State) : exec (.cvt c tag x) s = execCvt c tag x s := rfl
@[simp] theorem exec_cvtb c tag x (s : State) : exec (.cvtb c tag x) s = execCvtb c tag x s := rfl
@[simp] theorem exec_dcvb c tag x (s : State) : exec (.dcvb c tag x) s = execDcvb c tag x s := rfl
@[simp] theorem exec_red c tag x (s : State) : exec (.red c tag x) s = execRed c tag x s := rfl
@[simp] theorem exec_xpose c tag x (s : State) : exec (.xpose c tag x) s = execXpose c tag x s := rfl
@[simp] theorem exec_tperm c tag x (s : State) : exec (.tperm c tag x) s = execTperm c tag x s := rfl
@[simp] theorem exec_cmpr c tag x (s : State) : exec (.cmpr c tag x) s = execCmpr c tag x s := rfl
@[simp] theorem exec_expd c tag x (s : State) : exec (.expd c tag x) s = execExpd c tag x s := rfl
@[simp] theorem exec_rand c tag x (s : State) : exec (.rand c tag x) s = execRand c tag x s := rfl
@[simp] theorem exec_veComplete c parity line (s : State) : exec (.veComplete c parity line) s = execVeComplete c parity s line := rfl
@[simp] theorem exec_veDrainBound c (s : State) : exec (.veDrainBound c) s = execVeDrainBound c s := rfl
@[simp] theorem exec_solve c tag x (s : State) : exec (.solve c tag x) s = execSolve c tag x s := rfl
@[simp] theorem exec_copy c tag x (s : State) : exec (.copy c tag x) s = execCopy c tag x s := rfl
@[simp] theorem exec_prefetch c tag x (s : State) : exec (.prefetch c tag x) s = execPrefetch c tag x s := rfl
@[simp] theorem exec_rload c tag x (s : State) : exec (.rload c tag x) s = execRload c tag x s := rfl
@[simp] theorem exec_rstore c tag x (s : State) : exec (.rstore c tag x) s = execRstore c tag x s := rfl
@[simp] theorem exec_ratomic c tag x (s : State) : exec (.ratomic c tag x) s = execRatomic c tag x s := rfl
@[simp] theorem exec_coll c tag x (s : State) : exec (.coll c tag x) s = execColl c tag x s := rfl
@[simp] theorem exec_cverify c tag x (s : State) : exec (.cverify c tag x) s = execCverify c tag x s := rfl
@[simp] theorem exec_channelAcquire n (s : State) : exec (.channelAcquire n) s = execChannelAcquire n s := rfl
@[simp] theorem exec_cverifyComplete n line (s : State) : exec (.cverifyComplete n line) s = execCverifyComplete n s line := rfl
@[simp] theorem exec_wait c st tag x (s : State) : exec (.wait c st tag x) s = execWait c st tag x s := rfl
@[simp] theorem exec_signal c st tag x (s : State) : exec (.signal c st tag x) s = execSignal c st tag x s := rfl
@[simp] theorem exec_fence c st tag x (s : State) : exec (.fence c st tag x) s = execFence c st tag x s := rfl
@[simp] theorem exec_fenceComplete c st (s : State) : exec (.fenceComplete c st) s = execFenceComplete c st s := rfl
@[simp] theorem exec_watchRegistration w obj target (s : State) : exec (.watchRegistration w obj target) s = execWatchRegistration w obj target s := rfl
@[simp] theorem exec_signalAdd obj amount unit (s : State) : exec (.signalAdd obj amount unit) s = execSignalAdd obj amount unit s := rfl
@[simp] theorem exec_wake w (s : State) : exec (.wake w) s = execWake w s := rfl
@[simp] theorem exec_waitExpiry w (s : State) : exec (.waitExpiry w) s = execWaitExpiry w s := rfl
@[simp] theorem exec_cancel w (s : State) : exec (.cancel w) s = execCancel w s := rfl
@[simp] theorem exec_set obj value (s : State) : exec (.set obj value) s = execSet obj value s := rfl
@[simp] theorem exec_descriptorStart k line (s : State) : exec (.descriptorStart k line) s = execDescriptorStart k s line := rfl
@[simp] theorem exec_solverAssemblyDone k window (s : State) : exec (.solverAssemblyDone k window) s = execSolverAssemblyDone k window s := rfl
@[simp] theorem exec_solverFactorDone k window (s : State) : exec (.solverFactorDone k window) s = execSolverFactorDone k window s := rfl
@[simp] theorem exec_solverIteration k window (s : State) : exec (.solverIteration k window) s = execSolverIteration k window s := rfl
@[simp] theorem exec_solverRefactDone k window (s : State) : exec (.solverRefactDone k window) s = execSolverRefactDone k window s := rfl
@[simp] theorem exec_solverDelivery k pairDiffers window (s : State) : exec (.solverDelivery k pairDiffers window) s = execSolverDelivery k pairDiffers s window := rfl
@[simp] theorem exec_deadline k seq pairBehind pairDiffers (s : State) : exec (.deadline k seq pairBehind pairDiffers) s = execDeadline k seq s pairBehind pairDiffers := rfl
@[simp] theorem exec_solverDrainBound k (s : State) : exec (.solverDrainBound k) s = execSolverDrainBound k s := rfl
@[simp] theorem exec_solverDrainEnd k (s : State) : exec (.solverDrainEnd k) s = execSolverDrainEnd k s := rfl
@[simp] theorem exec_serviceCopySubmit e slot d (s : State) : exec (.serviceCopySubmit e slot d) s = execServiceCopySubmit e slot d s := rfl
@[simp] theorem exec_ceCopy e q line (s : State) : exec (.ceCopy e q line) s = execCeCopy e q line s := rfl
@[simp] theorem exec_convert e q line (s : State) : exec (.convert e q line) s = execConvert e q line s := rfl
@[simp] theorem exec_fill e q (s : State) : exec (.fill e q) s = execFill e q s := rfl
@[simp] theorem exec_copyComplete e q (s : State) : exec (.copyComplete e q) s = execCopyComplete e q s := rfl
@[simp] theorem exec_granuleTaken e line (s : State) : exec (.granuleTaken e line) s = execGranuleTaken e s line := rfl
@[simp] theorem exec_ceDrainBound e (s : State) : exec (.ceDrainBound e) s = execCeDrainBound e s := rfl
@[simp] theorem exec_regionFill slot (s : State) : exec (.regionFill slot) s = execRegionFill slot s := rfl
@[simp] theorem exec_scrubRead h ecc (s : State) : exec (.scrubRead h ecc) s = execScrubRead h ecc s := rfl
@[simp] theorem exec_sramScrub d found (s : State) : exec (.sramScrub d found) s = execSramScrub d found s := rfl
@[simp] theorem exec_bypassEnter k (s : State) : exec (.bypassEnter k) s = execBypassEnter k s := rfl
@[simp] theorem exec_bypassLeave k (s : State) : exec (.bypassLeave k) s = execBypassLeave k s := rfl
@[simp] theorem exec_remoteLineExpiry k line (s : State) : exec (.remoteLineExpiry k line) s = execRemoteLineExpiry k line s := rfl
@[simp] theorem exec_peerDetect p (s : State) : exec (.peerDetect p) s = execPeerDetect p s := rfl
@[simp] theorem exec_laneTrainingDone p lanes peerGletor3 peerLanes (s : State) : exec (.laneTrainingDone p lanes peerGletor3 peerLanes) s = execLaneTrainingDone p lanes peerGletor3 s peerLanes := rfl
@[simp] theorem exec_trainingTimeout p (s : State) : exec (.trainingTimeout p) s = execTrainingTimeout p s := rfl
@[simp] theorem exec_ident p h x (s : State) : exec (.ident p h x) s = execIdent p h x s := rfl
@[simp] theorem exec_nak p h expected (s : State) : exec (.nak p h expected) s = execNak p h expected s := rfl
@[simp] theorem exec_audit p h entries (s : State) : exec (.audit p h entries) s = execAudit p h entries s := rfl
@[simp] theorem exec_auditFail p h entry (s : State) : exec (.auditFail p h entry) s = execAuditFail p h entry s := rfl
@[simp] theorem exec_resync p h next free (s : State) : exec (.resync p h next free) s = execResync p h next free s := rfl
@[simp] theorem exec_power p h v (s : State) : exec (.power p h v) s = execPower p h v s := rfl
@[simp] theorem exec_dataFlit p f (s : State) : exec (.dataFlit p f) s = execDataFlit p f s := rfl
@[simp] theorem exec_idleFlit p f (s : State) : exec (.idleFlit p f) s = execIdleFlit p f s := rfl
@[simp] theorem exec_flitSlot p (s : State) : exec (.flitSlot p) s = execFlitSlot p s := rfl
@[simp] theorem exec_ackTimer p (s : State) : exec (.ackTimer p) s = execAckTimer p s := rfl
@[simp] theorem exec_auditDue p (s : State) : exec (.auditDue p) s = execAuditDue p s := rfl
@[simp] theorem exec_retrain p cause (s : State) : exec (.retrain p cause) s = execRetrain p cause s := rfl
@[simp] theorem exec_retrainTimeout p (s : State) : exec (.retrainTimeout p) s = execRetrainTimeout p s := rfl
@[simp] theorem exec_portDrainTimeout p (s : State) : exec (.portDrainTimeout p) s = execPortDrainTimeout p s := rfl
@[simp] theorem exec_lsdbUpdate p rec cert (s : State) : exec (.lsdbUpdate p rec cert) s = execLsdbUpdate p rec cert s := rfl
@[simp] theorem exec_routingRewrite (s : State) : exec (.routingRewrite) s = execRoutingRewrite s := rfl
@[simp] theorem exec_quorumSettle slot epochs (s : State) : exec (.quorumSettle slot epochs) s = execQuorumSettle slot epochs s := rfl
@[simp] theorem exec_refclkLoss r input (s : State) : exec (.refclkLoss r input) s = execRefclkLoss r input s := rfl
@[simp] theorem exec_hostLinkTraining rate64 width (s : State) : exec (.hostLinkTraining rate64 width) s = execHostLinkTraining rate64 width s := rfl
@[simp] theorem exec_perstN level (s : State) : exec (.perstN level) s = execPerstN level s := rfl
@[simp] theorem exec_read at_ m ecc (s : State) : exec (.read at_ m ecc) s = execRead at_ m ecc s := rfl
@[simp] theorem exec_write at_ m ecc (s : State) : exec (.write at_ m ecc) s = execWrite at_ m ecc s := rfl
@[simp] theorem exec_atomic at_ m ecc (s : State) : exec (.atomic at_ m ecc) s = execAtomic at_ m ecc s := rfl
@[simp] theorem exec_remoteSignal at_ m (s : State) : exec (.remoteSignal at_ m) s = execRemoteSignal at_ m s := rfl
@[simp] theorem exec_response at_ m (s : State) : exec (.response at_ m) s = execResponse at_ m s := rfl
@[simp] theorem exec_retry at_ m (s : State) : exec (.retry at_ m) s = execRetry at_ m s := rfl
@[simp] theorem exec_rate at_ m (s : State) : exec (.rate at_ m) s = execRate at_ m s := rfl
@[simp] theorem exec_batch at_ dest src msgs (s : State) : exec (.batch at_ dest src msgs) s = execBatch at_ dest src msgs s := rfl
@[simp] theorem exec_bulkWrite at_ m (s : State) : exec (.bulkWrite at_ m) s = execBulkWrite at_ m s := rfl
@[simp] theorem exec_bulkRead at_ m ecc (s : State) : exec (.bulkRead at_ m ecc) s = execBulkRead at_ m s ecc := rfl
@[simp] theorem exec_requestTimeout unit dest flow seq (s : State) : exec (.requestTimeout unit dest flow seq) s = execRequestTimeout unit dest flow seq s := rfl
@[simp] theorem exec_sequenceEntryExpiry r unit (s : State) : exec (.sequenceEntryExpiry r unit) s = execSequenceEntryExpiry r unit s := rfl
@[simp] theorem exec_coalesceWindow r line (s : State) : exec (.coalesceWindow r line) s = execCoalesceWindow r line s := rfl
@[simp] theorem exec_hotWindow r (s : State) : exec (.hotWindow r) s = execHotWindow r s := rfl
@[simp] theorem exec_rateInterval dest line (s : State) : exec (.rateInterval dest line) s = execRateInterval dest line s := rfl
@[simp] theorem exec_rateHold dest line (s : State) : exec (.rateHold dest line) s = execRateHold dest line s := rfl
@[simp] theorem exec_eaveWindow r dest (s : State) : exec (.eaveWindow r dest) s = execEaveWindow r dest s := rfl
@[simp] theorem exec_collectiveStart at_ m (s : State) : exec (.collectiveStart at_ m) s = execCollectiveStart at_ m s := rfl
@[simp] theorem exec_go at_ m (s : State) : exec (.go at_ m) s = execGo at_ m s := rfl
@[simp] theorem exec_lease at_ m (s : State) : exec (.lease at_ m) s = execLease at_ m s := rfl
@[simp] theorem exec_leaseReply at_ m (s : State) : exec (.leaseReply at_ m) s = execLeaseReply at_ m s := rfl
@[simp] theorem exec_release at_ m (s : State) : exec (.release at_ m) s = execRelease at_ m s := rfl
@[simp] theorem exec_grant at_ m (s : State) : exec (.grant at_ m) s = execGrant at_ m s := rfl
@[simp] theorem exec_data at_ m (s : State) : exec (.data at_ m) s = execData at_ m s := rfl
@[simp] theorem exec_result at_ m (s : State) : exec (.result at_ m) s = execResult at_ m s := rfl
@[simp] theorem exec_abort at_ m (s : State) : exec (.abort at_ m) s = execAbort at_ m s := rfl
@[simp] theorem exec_leaseIdle r jobId comm seq (s : State) : exec (.leaseIdle r jobId comm seq) s = execLeaseIdle r jobId comm seq s := rfl
@[simp] theorem exec_attach child resume jobId (s : State) : exec (.attach child resume jobId) s = execAttach child resume jobId s := rfl
@[simp] theorem exec_detach child jobId (s : State) : exec (.detach child jobId) s = execDetach child jobId s := rfl
@[simp] theorem exec_suspect reporter node jobId (s : State) : exec (.suspect reporter node jobId) s = execSuspect reporter node jobId s := rfl
@[simp] theorem exec_waiting parent jobId (s : State) : exec (.waiting parent jobId) s = execWaiting parent jobId s := rfl
@[simp] theorem exec_chunkArrival jobId k bytes (s : State) : exec (.chunkArrival jobId k bytes) s = execChunkArrival jobId k bytes s := rfl
@[simp] theorem exec_gapTimeout jobId (s : State) : exec (.gapTimeout jobId) s = execGapTimeout jobId s := rfl
@[simp] theorem exec_probe jobId anchor (s : State) : exec (.probe jobId anchor) s = execProbe jobId anchor s := rfl
@[simp] theorem exec_probeTimeout jobId node (s : State) : exec (.probeTimeout jobId node) s = execProbeTimeout jobId node s := rfl
@[simp] theorem exec_startTimeout jobId (s : State) : exec (.startTimeout jobId) s = execStartTimeout jobId s := rfl
@[simp] theorem exec_ready jobId node status (s : State) : exec (.ready jobId node status) s = execReady jobId node status s := rfl
@[simp] theorem exec_run jobId (s : State) : exec (.run jobId) s = execRun jobId s := rfl
@[simp] theorem exec_shardLoadStart slot (s : State) : exec (.shardLoadStart slot) s = execShardLoadStart slot s := rfl
@[simp] theorem exec_shardReadDone slot shard bytes digest (s : State) : exec (.shardReadDone slot shard bytes digest) s = execShardReadDone slot shard bytes digest s := rfl
@[simp] theorem exec_checkpointBoundary slot part (s : State) : exec (.checkpointBoundary slot part) s = execCheckpointBoundary slot part s := rfl
@[simp] theorem exec_checkpointWriteStep slot ok (s : State) : exec (.checkpointWriteStep slot ok) s = execCheckpointWriteStep slot ok s := rfl
@[simp] theorem exec_commitTimeout slot (s : State) : exec (.commitTimeout slot) s = execCommitTimeout slot s := rfl
@[simp] theorem exec_trainingTotals slot (s : State) : exec (.trainingTotals slot) s = execTrainingTotals slot s := rfl
@[simp] theorem exec_memberTotals slot t (s : State) : exec (.memberTotals slot t) s = execMemberTotals slot t s := rfl
@[simp] theorem exec_decisionExpiry slot (s : State) : exec (.decisionExpiry slot) s = execDecisionExpiry slot s := rfl
@[simp] theorem exec_stateVector slot step withheld vec (s : State) : exec (.stateVector slot step withheld vec) s = execStateVector slot step withheld vec s := rfl
@[simp] theorem exec_evaluation slot (s : State) : exec (.evaluation slot) s = execEvaluation slot s := rfl
@[simp] theorem exec_forwardTransfer slot (s : State) : exec (.forwardTransfer slot) s = execForwardTransfer slot s := rfl
@[simp] theorem exec_returnTransfer slot (s : State) : exec (.returnTransfer slot) s = execReturnTransfer slot s := rfl
@[simp] theorem exec_inferenceBatchClose slot rows windowExpired (s : State) : exec (.inferenceBatchClose slot rows windowExpired) s = execInferenceBatchClose slot rows windowExpired s := rfl
@[simp] theorem exec_pgInHigh (s : State) : exec (.pgInHigh) s = execPgInHigh s := rfl
@[simp] theorem exec_railUp (s : State) : exec (.railUp) s = execRailUp s := rfl
@[simp] theorem exec_inputOutOfRange vin (s : State) : exec (.inputOutOfRange vin) s = execInputOutOfRange vin s := rfl
@[simp] theorem exec_powerDown cause vin (s : State) : exec (.powerDown cause vin) s = execPowerDown cause vin s := rfl
@[simp] theorem exec_pkgResetNAssert (s : State) : exec (.pkgResetNAssert) s = execPkgResetNAssert s := rfl
@[simp] theorem exec_resetRelease x (s : State) : exec (.resetRelease x) s = execResetRelease x s := rfl
@[simp] theorem exec_sensorReading r (s : State) : exec (.sensorReading r) s = execSensorReading r s := rfl
@[simp] theorem exec_stepDecision d averageOver (s : State) : exec (.stepDecision d averageOver) s = execStepDecision d averageOver s := rfl
@[simp] theorem exec_clusterPowerRamp (s : State) : exec (.clusterPowerRamp) s = execClusterPowerRamp s := rfl
@[simp] theorem exec_bringupTestDone bit failed usable (s : State) : exec (.bringupTestDone bit failed usable) s = execBringupTestDone bit failed usable s := rfl
@[simp] theorem exec_sleepEntryDone (s : State) : exec (.sleepEntryDone) s = execSleepEntryDone s := rfl
@[simp] theorem exec_wakeDone cycles (s : State) : exec (.wakeDone cycles) s = execWakeDone cycles s := rfl
@[simp] theorem exec_lockstepMismatch pair (s : State) : exec (.lockstepMismatch pair) s = execLockstepMismatch pair s := rfl
@[simp] theorem exec_pairRestartDone pair (s : State) : exec (.pairRestartDone pair) s = execPairRestartDone pair s := rfl
@[simp] theorem exec_pairHeartbeat missed (s : State) : exec (.pairHeartbeat missed) s = execPairHeartbeat missed s := rfl
@[simp] theorem exec_buristHeartbeat (s : State) : exec (.buristHeartbeat) s = execBuristHeartbeat s := rfl
@[simp] theorem exec_buristHeartbeatTimeout (s : State) : exec (.buristHeartbeatTimeout) s = execBuristHeartbeatTimeout s := rfl
@[simp] theorem exec_watchdogSample slot (s : State) : exec (.watchdogSample slot) s = execWatchdogSample slot s := rfl
@[simp] theorem exec_clockMonitor fault reference (s : State) : exec (.clockMonitor fault reference) s = execClockMonitor fault reference s := rfl
@[simp] theorem exec_heartbeatSend (s : State) : exec (.heartbeatSend) s = execHeartbeatSend s := rfl
@[simp] theorem exec_heartbeat at_ m (s : State) : exec (.heartbeat at_ m) s = execHeartbeat at_ m s := rfl
@[simp] theorem exec_safeNotice at_ m (s : State) : exec (.safeNotice at_ m) s = execSafeNotice at_ m s := rfl
@[simp] theorem exec_memberSilence slot node (s : State) : exec (.memberSilence slot node) s = execMemberSilence slot node s := rfl
@[simp] theorem exec_cpDrainBound c (s : State) : exec (.cpDrainBound c) s = execCpDrainBound c s := rfl
@[simp] theorem exec_channelDrainBound n (s : State) : exec (.channelDrainBound n) s = execChannelDrainBound n s := rfl
@[simp] theorem exec_hostLinkDown (s : State) : exec (.hostLinkDown) s = execHostLinkDown s := rfl
@[simp] theorem exec_loadPacingWindow slot (s : State) : exec (.loadPacingWindow slot) s = execLoadPacingWindow slot s := rfl
@[simp] theorem exec_tapInstruction x (s : State) : exec (.tapInstruction x) s = execTapInstruction x s := rfl

theorem execLoad_shape who b store (s : State) : ∃ g, execLoad who b store s = onChip g s := by unfold execLoad onJobs; exact ⟨_, rfl⟩
theorem execStart_shape who b store (s : State) : ∃ g, execStart who b store s = onChip g s := by unfold execStart onJobs; exact ⟨_, rfl⟩
theorem execPause_shape who b (s : State) : ∃ g, execPause who b s = onChip g s := by unfold execPause onJobs; exact ⟨_, rfl⟩
theorem execResume_shape who b (s : State) : ∃ g, execResume who b s = onChip g s := by unfold execResume onJobs; exact ⟨_, rfl⟩
theorem execCheckpoint_shape who b (s : State) : ∃ g, execCheckpoint who b s = onChip g s := by unfold execCheckpoint onJobs; exact ⟨_, rfl⟩
theorem execStop_shape who b (s : State) : ∃ g, execStop who b s = onChip g s := by unfold execStop onJobs; exact ⟨_, rfl⟩
theorem execBatchWindow_shape who b (s : State) : ∃ g, execBatchWindow who b s = onChip g s := by unfold execBatchWindow onJobs; exact ⟨_, rfl⟩
theorem execBootBundleSubmit_shape (s : State) : ∃ g, execBootBundleSubmit s = onChip g s := by unfold execBootBundleSubmit onJobs; exact ⟨_, rfl⟩
theorem execStepBoundary_shape slot (s : State) : ∃ g, execStepBoundary slot s = onChip g s := by unfold execStepBoundary onJobs; exact ⟨_, rfl⟩
theorem execG3Compat_shape who v (s : State) : ∃ g, execG3Compat who v s = onChip g s := by unfold execG3Compat onServer; exact ⟨_, rfl⟩
theorem execJadeMode_shape who v (s : State) : ∃ g, execJadeMode who v s = onChip g s := by unfold execJadeMode onServer; exact ⟨_, rfl⟩
theorem execNodeNumber_shape who v (s : State) : ∃ g, execNodeNumber who v s = onChip g s := by unfold execNodeNumber onServer; exact ⟨_, rfl⟩
theorem execPortEnable_shape who p v (s : State) : ∃ g, execPortEnable who p v s = onChip g s := by unfold execPortEnable onServer; exact ⟨_, rfl⟩
theorem execArrayState_shape who c a v (s : State) : ∃ g, execArrayState who c a v s = onChip g s := by unfold execArrayState onServer; exact ⟨_, rfl⟩
theorem execCoreState_shape who c v (s : State) : ∃ g, execCoreState who c v s = onChip g s := by unfold execCoreState onServer; exact ⟨_, rfl⟩
theorem execSolverState_shape who k v (s : State) : ∃ g, execSolverState who k v s = onChip g s := by unfold execSolverState onServer; exact ⟨_, rfl⟩
theorem execEngineState_shape who e v (s : State) : ∃ g, execEngineState who e v s = onChip g s := by unfold execEngineState onServer; exact ⟨_, rfl⟩
theorem execChannelState_shape who n v (s : State) : ∃ g, execChannelState who n v s = onChip g s := by unfold execChannelState onServer; exact ⟨_, rfl⟩
theorem execRecoveryTestDone_shape u pass (s : State) : ∃ g, execRecoveryTestDone u pass s = onChip g s := by unfold execRecoveryTestDone onServer; exact ⟨_, rfl⟩
theorem execStageSize_shape who v (s : State) : ∃ g, execStageSize who v s = onChip g s := by unfold execStageSize onServer; exact ⟨_, rfl⟩
theorem execStageData_shape who offset bytes (s : State) : ∃ g, execStageData who offset bytes s = onChip g s := by unfold execStageData onServer; exact ⟨_, rfl⟩
theorem execDumpTrigger_shape who v (s : State) : ∃ g, execDumpTrigger who v s = onChip g s := by unfold execDumpTrigger onServer; exact ⟨_, rfl⟩
theorem execDumpComplete_shape (s : State) : ∃ g, execDumpComplete s = onChip g s := by unfold execDumpComplete onServer; exact ⟨_, rfl⟩
theorem execSleepRequest_shape who v (s : State) : ∃ g, execSleepRequest who v s = onChip g s := by unfold execSleepRequest onServer; exact ⟨_, rfl⟩
theorem execBootCommit_shape who v (s : State) : ∃ g, execBootCommit who v s = onChip g s := by unfold execBootCommit onServer; exact ⟨_, rfl⟩
theorem execBootCommitTimeout_shape (s : State) : ∃ g, execBootCommitTimeout s = onChip g s := ⟨_, rfl⟩
theorem execPartitionEnable_shape who v (s : State) : ∃ g, execPartitionEnable who v s = onChip g s := by unfold execPartitionEnable onServer; exact ⟨_, rfl⟩
theorem execSafeClear_shape who v (s : State) : ∃ g, execSafeClear who v s = onChip g s := by unfold execSafeClear onServer; exact ⟨_, rfl⟩
theorem execKeyEnroll_shape who bytes (s : State) : ∃ g, execKeyEnroll who bytes s = onChip g s := by unfold execKeyEnroll onServer; exact ⟨_, rfl⟩
theorem execKeyRevoke_shape who bytes (s : State) : ∃ g, execKeyRevoke who bytes s = onChip g s := by unfold execKeyRevoke onServer; exact ⟨_, rfl⟩
theorem execSigningPolicy_shape who v (s : State) : ∃ g, execSigningPolicy who v s = onChip g s := by unfold execSigningPolicy onServer; exact ⟨_, rfl⟩
theorem execRollbackAdvance_shape who v (s : State) : ∃ g, execRollbackAdvance who v s = onChip g s := by unfold execRollbackAdvance onServer; exact ⟨_, rfl⟩
theorem execNonce_shape who bytes (s : State) : ∃ g, execNonce who bytes s = onChip g s := by unfold execNonce onServer; exact ⟨_, rfl⟩
theorem execWdObject_shape who slot field v (s : State) : ∃ g, execWdObject who slot field v s = onChip g s := by unfold execWdObject onServer; exact ⟨_, rfl⟩
theorem execDictionaryWrite_shape who index sub ty offset bytes (s : State) : ∃ g, execDictionaryWrite who index sub ty offset bytes s = onChip g s := by unfold execDictionaryWrite onServer; exact ⟨_, rfl⟩
theorem execInit_shape t f (s : State) : ∃ g, execInit t f s = onChip g s := by unfold execInit onServer; exact ⟨_, rfl⟩
theorem execConfirm_shape t f (s : State) : ∃ g, execConfirm t f s = onChip g s := by unfold execConfirm onServer; exact ⟨_, rfl⟩
theorem execClose_shape t f (s : State) : ∃ g, execClose t f s = onChip g s := by unfold execClose onServer; exact ⟨_, rfl⟩
theorem execHandshakeTimeout_shape sid (s : State) : ∃ g, execHandshakeTimeout sid s = onChip g s := by unfold execHandshakeTimeout onServer; exact ⟨_, rfl⟩
theorem execSessionTimeout_shape sid (s : State) : ∃ g, execSessionTimeout sid s = onChip g s := by unfold execSessionTimeout onServer; exact ⟨_, rfl⟩
theorem execDapRead_shape t f (s : State) : ∃ g, execDapRead t f s = onChip g s := by unfold execDapRead onServer; exact ⟨_, rfl⟩
theorem execDapWrite_shape t f (s : State) : ∃ g, execDapWrite t f s = onChip g s := by unfold execDapWrite onServer; exact ⟨_, rfl⟩
theorem execWriteMulti_shape t f (s : State) : ∃ g, execWriteMulti t f s = onChip g s := by unfold execWriteMulti onServer; exact ⟨_, rfl⟩
theorem execSubscribe_shape t f (s : State) : ∃ g, execSubscribe t f s = onChip g s := by unfold execSubscribe onServer; exact ⟨_, rfl⟩
theorem execUnsubscribe_shape t f (s : State) : ∃ g, execUnsubscribe t f s = onChip g s := by unfold execUnsubscribe onServer; exact ⟨_, rfl⟩
theorem execEventAck_shape t f (s : State) : ∃ g, execEventAck t f s = onChip g s := by unfold execEventAck onServer; exact ⟨_, rfl⟩
theorem execEvent_shape sid subId (s : State) : ∃ g, execEvent sid subId s = onChip g s := by unfold execEvent onServer; exact ⟨_, rfl⟩
theorem execEventResend_shape sid subId (s : State) : ∃ g, execEventResend sid subId s = onChip g s := by unfold execEventResend onServer; exact ⟨_, rfl⟩
theorem execDapForward_shape t f (s : State) : ∃ g, execDapForward t f s = onChip g s := by unfold execDapForward onServer; exact ⟨_, rfl⟩
theorem execH2pPoll_shape slot (s : State) : ∃ g, execH2pPoll slot s = onChip g s := by unfold execH2pPoll onServer; exact ⟨_, rfl⟩
theorem execMsixRaise_shape (s : State) : ∃ g, execMsixRaise s = onChip g s := by unfold execMsixRaise onServer; exact ⟨_, rfl⟩
theorem execWload_shape c a tag x (s : State) : ∃ g, execWload c a tag x s = onChip g s := ⟨_, rfl⟩
theorem execStream_shape c a tag x (s : State) : ∃ g, execStream c a tag x s = onChip g s := ⟨_, rfl⟩
theorem execDrain_shape c a tag x (s : State) : ∃ g, execDrain c a tag x s = onChip g s := ⟨_, rfl⟩
theorem execWloadComplete_shape c a parity line (s : State) : ∃ g, execWloadComplete c a parity s line = onChip g s := ⟨_, rfl⟩
theorem execStreamComplete_shape c a parity line (s : State) : ∃ g, execStreamComplete c a parity s line = onChip g s := ⟨_, rfl⟩
theorem execDrainComplete_shape c a parity line (s : State) : ∃ g, execDrainComplete c a parity s line = onChip g s := ⟨_, rfl⟩
theorem execSelftestDue_shape c a (s : State) : ∃ g, execSelftestDue c a s = onChip g s := ⟨_, rfl⟩
theorem execSelftestPass_shape c a parity (s : State) : ∃ g, execSelftestPass c a parity s = onChip g s := ⟨_, rfl⟩
theorem execSelftestPassEnd_shape c a signature (s : State) : ∃ g, execSelftestPassEnd c a signature s = onChip g s := ⟨_, rfl⟩
theorem execArrayDrainBound_shape c a (s : State) : ∃ g, execArrayDrainBound c a s = onChip g s := ⟨_, rfl⟩
theorem execArrayDrainEnd_shape c a (s : State) : ∃ g, execArrayDrainEnd c a s = onChip g s := ⟨_, rfl⟩
theorem execVld_shape c tag x (s : State) : ∃ g, execVld c tag x s = onChip g s := ⟨_, rfl⟩
theorem execVst_shape c tag x (s : State) : ∃ g, execVst c tag x s = onChip g s := ⟨_, rfl⟩
theorem execMov_shape c tag x (s : State) : ∃ g, execMov c tag x s = onChip g s := ⟨_, rfl⟩
theorem execBcast_shape c tag x (s : State) : ∃ g, execBcast c tag x s = onChip g s := ⟨_, rfl⟩
theorem execAdd_shape c tag x (s : State) : ∃ g, execAdd c tag x s = onChip g s := ⟨_, rfl⟩
theorem execSub_shape c tag x (s : State) : ∃ g, execSub c tag x s = onChip g s := ⟨_, rfl⟩
theorem execMul_shape c tag x (s : State) : ∃ g, execMul c tag x s = onChip g s := ⟨_, rfl⟩
theorem execFma_shape c tag x (s : State) : ∃ g, execFma c tag x s = onChip g s := ⟨_, rfl⟩
theorem execMin_shape c tag x (s : State) : ∃ g, execMin c tag x s = onChip g s := ⟨_, rfl⟩
theorem execMax_shape c tag x (s : State) : ∃ g, execMax c tag x s = onChip g s := ⟨_, rfl⟩
theorem execAbs_shape c tag x (s : State) : ∃ g, execAbs c tag x s = onChip g s := ⟨_, rfl⟩
theorem execNeg_shape c tag x (s : State) : ∃ g, execNeg c tag x s = onChip g s := ⟨_, rfl⟩
theorem execAnd_shape c tag x (s : State) : ∃ g, execAnd c tag x s = onChip g s := ⟨_, rfl⟩
theorem execOr_shape c tag x (s : State) : ∃ g, execOr c tag x s = onChip g s := ⟨_, rfl⟩
theorem execXor_shape c tag x (s : State) : ∃ g, execXor c tag x s = onChip g s := ⟨_, rfl⟩
theorem execShl_shape c tag x (s : State) : ∃ g, execShl c tag x s = onChip g s := ⟨_, rfl⟩
theorem execShr_shape c tag x (s : State) : ∃ g, execShr c tag x s = onChip g s := ⟨_, rfl⟩
theorem execRcp_shape c tag x (s : State) : ∃ g, execRcp c tag x s = onChip g s := ⟨_, rfl⟩
theorem execRsqrt_shape c tag x (s : State) : ∃ g, execRsqrt c tag x s = onChip g s := ⟨_, rfl⟩
theorem execSqrt_shape c tag x (s : State) : ∃ g, execSqrt c tag x s = onChip g s := ⟨_, rfl⟩
theorem execExp2_shape c tag x (s : State) : ∃ g, execExp2 c tag x s = onChip g s := ⟨_, rfl⟩
theorem execLog2_shape c tag x (s : State) : ∃ g, execLog2 c tag x s = onChip g s := ⟨_, rfl⟩
theorem execTanh_shape c tag x (s : State) : ∃ g, execTanh c tag x s = onChip g s := ⟨_, rfl⟩
theorem execSigmoid_shape c tag x (s : State) : ∃ g, execSigmoid c tag x s = onChip g s := ⟨_, rfl⟩
theorem execSilu_shape c tag x (s : State) : ∃ g, execSilu c tag x s = onChip g s := ⟨_, rfl⟩
theorem execGelu_shape c tag x (s : State) : ∃ g, execGelu c tag x s = onChip g s := ⟨_, rfl⟩
theorem execCmp_shape c tag x (s : State) : ∃ g, execCmp c tag x s = onChip g s := ⟨_, rfl⟩
theorem execSel_shape c tag x (s : State) : ∃ g, execSel c tag x s = onChip g s := ⟨_, rfl⟩
theorem execCmpp_shape c tag x (s : State) : ∃ g, execCmpp c tag x s = onChip g s := ⟨_, rfl⟩
theorem execPfirst_shape c tag x (s : State) : ∃ g, execPfirst c tag x s = onChip g s := ⟨_, rfl⟩
theorem execPlogic_shape c tag x (s : State) : ∃ g, execPlogic c tag x s = onChip g s := ⟨_, rfl⟩
theorem execCvt_shape c tag x (s : State) : ∃ g, execCvt c tag x s = onChip g s := ⟨_, rfl⟩
theorem execCvtb_shape c tag x (s : State) : ∃ g, execCvtb c tag x s = onChip g s := ⟨_, rfl⟩
theorem execDcvb_shape c tag x (s : State) : ∃ g, execDcvb c tag x s = onChip g s := ⟨_, rfl⟩
theorem execRed_shape c tag x (s : State) : ∃ g, execRed c tag x s = onChip g s := ⟨_, rfl⟩
theorem execXpose_shape c tag x (s : State) : ∃ g, execXpose c tag x s = onChip g s := ⟨_, rfl⟩
theorem execTperm_shape c tag x (s : State) : ∃ g, execTperm c tag x s = onChip g s := ⟨_, rfl⟩
theorem execCmpr_shape c tag x (s : State) : ∃ g, execCmpr c tag x s = onChip g s := ⟨_, rfl⟩
theorem execExpd_shape c tag x (s : State) : ∃ g, execExpd c tag x s = onChip g s := ⟨_, rfl⟩
theorem execRand_shape c tag x (s : State) : ∃ g, execRand c tag x s = onChip g s := ⟨_, rfl⟩
theorem execVeComplete_shape c parity line (s : State) : ∃ g, execVeComplete c parity s line = onChip g s := ⟨_, rfl⟩
theorem execVeDrainBound_shape c (s : State) : ∃ g, execVeDrainBound c s = onChip g s := ⟨_, rfl⟩
theorem execSolve_shape c tag x (s : State) : ∃ g, execSolve c tag x s = onChip g s := ⟨_, rfl⟩
theorem execCopy_shape c tag x (s : State) : ∃ g, execCopy c tag x s = onChip g s := ⟨_, rfl⟩
theorem execPrefetch_shape c tag x (s : State) : ∃ g, execPrefetch c tag x s = onChip g s := ⟨_, rfl⟩
theorem execRload_shape c tag x (s : State) : ∃ g, execRload c tag x s = onChip g s := ⟨_, rfl⟩
theorem execRstore_shape c tag x (s : State) : ∃ g, execRstore c tag x s = onChip g s := ⟨_, rfl⟩
theorem execRatomic_shape c tag x (s : State) : ∃ g, execRatomic c tag x s = onChip g s := ⟨_, rfl⟩
theorem execColl_shape c tag x (s : State) : ∃ g, execColl c tag x s = onChip g s := ⟨_, rfl⟩
theorem execCverify_shape c tag x (s : State) : ∃ g, execCverify c tag x s = onChip g s := ⟨_, rfl⟩
theorem execChannelAcquire_shape n (s : State) : ∃ g, execChannelAcquire n s = onChip g s := ⟨_, rfl⟩
theorem execCverifyComplete_shape n line (s : State) : ∃ g, execCverifyComplete n s line = onChip g s := ⟨_, rfl⟩
theorem execWait_shape c st tag x (s : State) : ∃ g, execWait c st tag x s = onChip g s := ⟨_, rfl⟩
theorem execSignal_shape c st tag x (s : State) : ∃ g, execSignal c st tag x s = onChip g s := ⟨_, rfl⟩
theorem execFence_shape c st tag x (s : State) : ∃ g, execFence c st tag x s = onChip g s := ⟨_, rfl⟩
theorem execFenceComplete_shape c st (s : State) : ∃ g, execFenceComplete c st s = onChip g s := ⟨_, rfl⟩
theorem execWatchRegistration_shape w obj target (s : State) : ∃ g, execWatchRegistration w obj target s = onChip g s := ⟨_, rfl⟩
theorem execSignalAdd_shape obj amount unit (s : State) : ∃ g, execSignalAdd obj amount unit s = onChip g s := ⟨_, rfl⟩
theorem execWake_shape w (s : State) : ∃ g, execWake w s = onChip g s := ⟨_, rfl⟩
theorem execWaitExpiry_shape w (s : State) : ∃ g, execWaitExpiry w s = onChip g s := ⟨_, rfl⟩
theorem execCancel_shape w (s : State) : ∃ g, execCancel w s = onChip g s := ⟨_, rfl⟩
theorem execSet_shape obj value (s : State) : ∃ g, execSet obj value s = onChip g s := ⟨_, rfl⟩
theorem execDescriptorStart_shape k line (s : State) : ∃ g, execDescriptorStart k s line = onChip g s := ⟨_, rfl⟩
theorem execSolverAssemblyDone_shape k window (s : State) : ∃ g, execSolverAssemblyDone k window s = onChip g s := ⟨_, rfl⟩
theorem execSolverFactorDone_shape k window (s : State) : ∃ g, execSolverFactorDone k window s = onChip g s := ⟨_, rfl⟩
theorem execSolverIteration_shape k window (s : State) : ∃ g, execSolverIteration k window s = onChip g s := ⟨_, rfl⟩
theorem execSolverRefactDone_shape k window (s : State) : ∃ g, execSolverRefactDone k window s = onChip g s := ⟨_, rfl⟩
theorem execSolverDelivery_shape k pairDiffers window (s : State) : ∃ g, execSolverDelivery k pairDiffers s window = onChip g s := ⟨_, rfl⟩
theorem execDeadline_shape k seq pairBehind pairDiffers (s : State) : ∃ g, execDeadline k seq s pairBehind pairDiffers = onChip g s := ⟨_, rfl⟩
theorem execSolverDrainBound_shape k (s : State) : ∃ g, execSolverDrainBound k s = onChip g s := ⟨_, rfl⟩
theorem execSolverDrainEnd_shape k (s : State) : ∃ g, execSolverDrainEnd k s = onChip g s := ⟨_, rfl⟩
theorem execServiceCopySubmit_shape e slot d (s : State) : ∃ g, execServiceCopySubmit e slot d s = onChip g s := ⟨_, rfl⟩
theorem execCeCopy_shape e q line (s : State) : ∃ g, execCeCopy e q line s = onChip g s := ⟨_, rfl⟩
theorem execConvert_shape e q line (s : State) : ∃ g, execConvert e q line s = onChip g s := ⟨_, rfl⟩
theorem execFill_shape e q (s : State) : ∃ g, execFill e q s = onChip g s := ⟨_, rfl⟩
theorem execCopyComplete_shape e q (s : State) : ∃ g, execCopyComplete e q s = onChip g s := ⟨_, rfl⟩
theorem execGranuleTaken_shape e line (s : State) : ∃ g, execGranuleTaken e s line = onChip g s := ⟨_, rfl⟩
theorem execCeDrainBound_shape e (s : State) : ∃ g, execCeDrainBound e s = onChip g s := ⟨_, rfl⟩
theorem execRegionFill_shape slot (s : State) : ∃ g, execRegionFill slot s = onChip g s := ⟨_, rfl⟩
theorem execScrubRead_shape h ecc (s : State) : ∃ g, execScrubRead h ecc s = onChip g s := ⟨_, rfl⟩
theorem execSramScrub_shape d found (s : State) : ∃ g, execSramScrub d found s = onChip g s := ⟨_, rfl⟩
theorem execBypassEnter_shape k (s : State) : ∃ g, execBypassEnter k s = onChip g s := ⟨_, rfl⟩
theorem execBypassLeave_shape k (s : State) : ∃ g, execBypassLeave k s = onChip g s := ⟨_, rfl⟩
theorem execRemoteLineExpiry_shape k line (s : State) : ∃ g, execRemoteLineExpiry k line s = onChip g s := ⟨_, rfl⟩
theorem execPeerDetect_shape p (s : State) : ∃ g, execPeerDetect p s = onChip g s := by unfold execPeerDetect onLinks; exact ⟨_, rfl⟩
theorem execLaneTrainingDone_shape p lanes peerGletor3 peerLanes (s : State) : ∃ g, execLaneTrainingDone p lanes peerGletor3 s peerLanes = onChip g s := by unfold execLaneTrainingDone onLinks; exact ⟨_, rfl⟩
theorem execTrainingTimeout_shape p (s : State) : ∃ g, execTrainingTimeout p s = onChip g s := by unfold execTrainingTimeout onLinks; exact ⟨_, rfl⟩
theorem execIdent_shape p h x (s : State) : ∃ g, execIdent p h x s = onChip g s := by unfold execIdent onTraining onLinks; exact ⟨_, rfl⟩
theorem execNak_shape p h expected (s : State) : ∃ g, execNak p h expected s = onChip g s := by unfold execNak onLinks; exact ⟨_, rfl⟩
theorem execAudit_shape p h entries (s : State) : ∃ g, execAudit p h entries s = onChip g s := by unfold execAudit onLinks; exact ⟨_, rfl⟩
theorem execAuditFail_shape p h entry (s : State) : ∃ g, execAuditFail p h entry s = onChip g s := by unfold execAuditFail onLinks; exact ⟨_, rfl⟩
theorem execResync_shape p h next free (s : State) : ∃ g, execResync p h next free s = onChip g s := by unfold execResync onTraining onLinks; exact ⟨_, rfl⟩
theorem execPower_shape p h v (s : State) : ∃ g, execPower p h v s = onChip g s := by unfold execPower onLinks; exact ⟨_, rfl⟩
theorem execDataFlit_shape p f (s : State) : ∃ g, execDataFlit p f s = onChip g s := by unfold execDataFlit onLinks; exact ⟨_, rfl⟩
theorem execIdleFlit_shape p f (s : State) : ∃ g, execIdleFlit p f s = onChip g s := by unfold execIdleFlit onLinks; exact ⟨_, rfl⟩
theorem execFlitSlot_shape p (s : State) : ∃ g, execFlitSlot p s = onChip g s := by unfold execFlitSlot onLinks; exact ⟨_, rfl⟩
theorem execAckTimer_shape p (s : State) : ∃ g, execAckTimer p s = onChip g s := by unfold execAckTimer onLinks; exact ⟨_, rfl⟩
theorem execAuditDue_shape p (s : State) : ∃ g, execAuditDue p s = onChip g s := by unfold execAuditDue onLinks; exact ⟨_, rfl⟩
theorem execRetrain_shape p cause (s : State) : ∃ g, execRetrain p cause s = onChip g s := by unfold execRetrain onLinks; exact ⟨_, rfl⟩
theorem execRetrainTimeout_shape p (s : State) : ∃ g, execRetrainTimeout p s = onChip g s := by unfold execRetrainTimeout onLinks; exact ⟨_, rfl⟩
theorem execPortDrainTimeout_shape p (s : State) : ∃ g, execPortDrainTimeout p s = onChip g s := by unfold execPortDrainTimeout onLinks; exact ⟨_, rfl⟩
theorem execLsdbUpdate_shape p rec cert (s : State) : ∃ g, execLsdbUpdate p rec cert s = onChip g s := by unfold execLsdbUpdate onLinks; exact ⟨_, rfl⟩
theorem execRoutingRewrite_shape (s : State) : ∃ g, execRoutingRewrite s = onChip g s := by unfold execRoutingRewrite onLinks; exact ⟨_, rfl⟩
theorem execQuorumSettle_shape slot epochs (s : State) : ∃ g, execQuorumSettle slot epochs s = onChip g s := by unfold execQuorumSettle onJobs; exact ⟨_, rfl⟩
theorem execRefclkLoss_shape r input (s : State) : ∃ g, execRefclkLoss r input s = onChip g s := by unfold execRefclkLoss onLinks; exact ⟨_, rfl⟩
theorem execHostLinkTraining_shape rate64 width (s : State) : ∃ g, execHostLinkTraining rate64 width s = onChip g s := by unfold execHostLinkTraining onLinks; exact ⟨_, rfl⟩
theorem execRead_shape at_ m ecc (s : State) : ∃ g, execRead at_ m ecc s = onChip g s := ⟨_, rfl⟩
theorem execWrite_shape at_ m ecc (s : State) : ∃ g, execWrite at_ m ecc s = onChip g s := ⟨_, rfl⟩
theorem execAtomic_shape at_ m ecc (s : State) : ∃ g, execAtomic at_ m ecc s = onChip g s := ⟨_, rfl⟩
theorem execRemoteSignal_shape at_ m (s : State) : ∃ g, execRemoteSignal at_ m s = onChip g s := ⟨_, rfl⟩
theorem execResponse_shape at_ m (s : State) : ∃ g, execResponse at_ m s = onChip g s := ⟨_, rfl⟩
theorem execRetry_shape at_ m (s : State) : ∃ g, execRetry at_ m s = onChip g s := ⟨_, rfl⟩
theorem execRate_shape at_ m (s : State) : ∃ g, execRate at_ m s = onChip g s := ⟨_, rfl⟩
theorem execBatch_shape at_ dest src msgs (s : State) : ∃ g, execBatch at_ dest src msgs s = onChip g s := ⟨_, rfl⟩
theorem execBulkWrite_shape at_ m (s : State) : ∃ g, execBulkWrite at_ m s = onChip g s := ⟨_, rfl⟩
theorem execBulkRead_shape at_ m ecc (s : State) : ∃ g, execBulkRead at_ m s ecc = onChip g s := ⟨_, rfl⟩
theorem execRequestTimeout_shape unit dest flow seq (s : State) : ∃ g, execRequestTimeout unit dest flow seq s = onChip g s := ⟨_, rfl⟩
theorem execSequenceEntryExpiry_shape r unit (s : State) : ∃ g, execSequenceEntryExpiry r unit s = onChip g s := ⟨_, rfl⟩
theorem execCoalesceWindow_shape r line (s : State) : ∃ g, execCoalesceWindow r line s = onChip g s := ⟨_, rfl⟩
theorem execHotWindow_shape r (s : State) : ∃ g, execHotWindow r s = onChip g s := ⟨_, rfl⟩
theorem execRateInterval_shape dest line (s : State) : ∃ g, execRateInterval dest line s = onChip g s := ⟨_, rfl⟩
theorem execRateHold_shape dest line (s : State) : ∃ g, execRateHold dest line s = onChip g s := ⟨_, rfl⟩
theorem execEaveWindow_shape r dest (s : State) : ∃ g, execEaveWindow r dest s = onChip g s := ⟨_, rfl⟩
theorem execCollectiveStart_shape at_ m (s : State) : ∃ g, execCollectiveStart at_ m s = onChip g s := ⟨_, rfl⟩
theorem execGo_shape at_ m (s : State) : ∃ g, execGo at_ m s = onChip g s := ⟨_, rfl⟩
theorem execLease_shape at_ m (s : State) : ∃ g, execLease at_ m s = onChip g s := ⟨_, rfl⟩
theorem execLeaseReply_shape at_ m (s : State) : ∃ g, execLeaseReply at_ m s = onChip g s := ⟨_, rfl⟩
theorem execRelease_shape at_ m (s : State) : ∃ g, execRelease at_ m s = onChip g s := ⟨_, rfl⟩
theorem execGrant_shape at_ m (s : State) : ∃ g, execGrant at_ m s = onChip g s := ⟨_, rfl⟩
theorem execData_shape at_ m (s : State) : ∃ g, execData at_ m s = onChip g s := ⟨_, rfl⟩
theorem execResult_shape at_ m (s : State) : ∃ g, execResult at_ m s = onChip g s := ⟨_, rfl⟩
theorem execAbort_shape at_ m (s : State) : ∃ g, execAbort at_ m s = onChip g s := ⟨_, rfl⟩
theorem execLeaseIdle_shape r jobId comm seq (s : State) : ∃ g, execLeaseIdle r jobId comm seq s = onChip g s := ⟨_, rfl⟩
theorem execAttach_shape child resume jobId (s : State) : ∃ g, execAttach child resume jobId s = onChip g s := by unfold execAttach onJobs; exact ⟨_, rfl⟩
theorem execDetach_shape child jobId (s : State) : ∃ g, execDetach child jobId s = onChip g s := by unfold execDetach onJobs; exact ⟨_, rfl⟩
theorem execSuspect_shape reporter node jobId (s : State) : ∃ g, execSuspect reporter node jobId s = onChip g s := by unfold execSuspect onJobs; exact ⟨_, rfl⟩
theorem execWaiting_shape parent jobId (s : State) : ∃ g, execWaiting parent jobId s = onChip g s := by unfold execWaiting onJobs; exact ⟨_, rfl⟩
theorem execChunkArrival_shape jobId k bytes (s : State) : ∃ g, execChunkArrival jobId k bytes s = onChip g s := by unfold execChunkArrival onJobs; exact ⟨_, rfl⟩
theorem execGapTimeout_shape jobId (s : State) : ∃ g, execGapTimeout jobId s = onChip g s := by unfold execGapTimeout onJobs; exact ⟨_, rfl⟩
theorem execProbe_shape jobId anchor (s : State) : ∃ g, execProbe jobId anchor s = onChip g s := by unfold execProbe onJobs; exact ⟨_, rfl⟩
theorem execProbeTimeout_shape jobId node (s : State) : ∃ g, execProbeTimeout jobId node s = onChip g s := by unfold execProbeTimeout onJobs; exact ⟨_, rfl⟩
theorem execStartTimeout_shape jobId (s : State) : ∃ g, execStartTimeout jobId s = onChip g s := by unfold execStartTimeout onJobs; exact ⟨_, rfl⟩
theorem execReady_shape jobId node status (s : State) : ∃ g, execReady jobId node status s = onChip g s := by unfold execReady onJobs; exact ⟨_, rfl⟩
theorem execRun_shape jobId (s : State) : ∃ g, execRun jobId s = onChip g s := by unfold execRun onJobs; exact ⟨_, rfl⟩
theorem execShardLoadStart_shape slot (s : State) : ∃ g, execShardLoadStart slot s = onChip g s := by unfold execShardLoadStart onJobs; exact ⟨_, rfl⟩
theorem execShardReadDone_shape slot shard bytes digest (s : State) : ∃ g, execShardReadDone slot shard bytes digest s = onChip g s := by unfold execShardReadDone onJobs; exact ⟨_, rfl⟩
theorem execCheckpointBoundary_shape slot part (s : State) : ∃ g, execCheckpointBoundary slot part s = onChip g s := by unfold execCheckpointBoundary onJobs; exact ⟨_, rfl⟩
theorem execCheckpointWriteStep_shape slot ok (s : State) : ∃ g, execCheckpointWriteStep slot ok s = onChip g s := by unfold execCheckpointWriteStep onJobs; exact ⟨_, rfl⟩
theorem execCommitTimeout_shape slot (s : State) : ∃ g, execCommitTimeout slot s = onChip g s := by unfold execCommitTimeout onJobs; exact ⟨_, rfl⟩
theorem execTrainingTotals_shape slot (s : State) : ∃ g, execTrainingTotals slot s = onChip g s := by unfold execTrainingTotals onJobs; exact ⟨_, rfl⟩
theorem execMemberTotals_shape slot t (s : State) : ∃ g, execMemberTotals slot t s = onChip g s := by unfold execMemberTotals onJobs; exact ⟨_, rfl⟩
theorem execDecisionExpiry_shape slot (s : State) : ∃ g, execDecisionExpiry slot s = onChip g s := by unfold execDecisionExpiry onJobs; exact ⟨_, rfl⟩
theorem execStateVector_shape slot step withheld vec (s : State) : ∃ g, execStateVector slot step withheld vec s = onChip g s := by unfold execStateVector onJobs; exact ⟨_, rfl⟩
theorem execEvaluation_shape slot (s : State) : ∃ g, execEvaluation slot s = onChip g s := by unfold execEvaluation onJobs; exact ⟨_, rfl⟩
theorem execForwardTransfer_shape slot (s : State) : ∃ g, execForwardTransfer slot s = onChip g s := by unfold execForwardTransfer onJobs; exact ⟨_, rfl⟩
theorem execReturnTransfer_shape slot (s : State) : ∃ g, execReturnTransfer slot s = onChip g s := by unfold execReturnTransfer onJobs; exact ⟨_, rfl⟩
theorem execInferenceBatchClose_shape slot rows windowExpired (s : State) : ∃ g, execInferenceBatchClose slot rows windowExpired s = onChip g s := by unfold execInferenceBatchClose onJobs; exact ⟨_, rfl⟩
theorem execInputOutOfRange_shape vin (s : State) : ∃ g, execInputOutOfRange vin s = onChip g s := ⟨_, rfl⟩
theorem execStepDecision_shape d averageOver (s : State) : ∃ g, execStepDecision d averageOver s = onChip g s := ⟨_, rfl⟩
theorem execClusterPowerRamp_shape (s : State) : ∃ g, execClusterPowerRamp s = onChip g s := ⟨_, rfl⟩
theorem execBringupTestDone_shape bit failed usable (s : State) : ∃ g, execBringupTestDone bit failed usable s = onChip g s := ⟨_, rfl⟩
theorem execSleepEntryDone_shape (s : State) : ∃ g, execSleepEntryDone s = onChip g s := ⟨_, rfl⟩
theorem execWakeDone_shape cycles (s : State) : ∃ g, execWakeDone cycles s = onChip g s := by unfold execWakeDone onJobs; exact ⟨_, rfl⟩
theorem execLockstepMismatch_shape pair (s : State) : ∃ g, execLockstepMismatch pair s = onChip g s := ⟨_, rfl⟩
theorem execPairRestartDone_shape pair (s : State) : ∃ g, execPairRestartDone pair s = onChip g s := ⟨_, rfl⟩
theorem execPairHeartbeat_shape missed (s : State) : ∃ g, execPairHeartbeat missed s = onChip g s := ⟨_, rfl⟩
theorem execBuristHeartbeat_shape (s : State) : ∃ g, execBuristHeartbeat s = onChip g s := ⟨_, rfl⟩
theorem execBuristHeartbeatTimeout_shape (s : State) : ∃ g, execBuristHeartbeatTimeout s = onChip g s := ⟨_, rfl⟩
theorem execWatchdogSample_shape slot (s : State) : ∃ g, execWatchdogSample slot s = onChip g s := ⟨_, rfl⟩
theorem execClockMonitor_shape fault reference (s : State) : ∃ g, execClockMonitor fault reference s = onChip g s := ⟨_, rfl⟩
theorem execHeartbeatSend_shape (s : State) : ∃ g, execHeartbeatSend s = onChip g s := ⟨_, rfl⟩
theorem execHeartbeat_shape at_ m (s : State) : ∃ g, execHeartbeat at_ m s = onChip g s := ⟨_, rfl⟩
theorem execSafeNotice_shape at_ m (s : State) : ∃ g, execSafeNotice at_ m s = onChip g s := ⟨_, rfl⟩
theorem execMemberSilence_shape slot node (s : State) : ∃ g, execMemberSilence slot node s = onChip g s := ⟨_, rfl⟩
theorem execCpDrainBound_shape c (s : State) : ∃ g, execCpDrainBound c s = onChip g s := ⟨_, rfl⟩
theorem execChannelDrainBound_shape n (s : State) : ∃ g, execChannelDrainBound n s = onChip g s := ⟨_, rfl⟩
theorem execHostLinkDown_shape (s : State) : ∃ g, execHostLinkDown s = onChip g s := by unfold execHostLinkDown onLinks; exact ⟨_, rfl⟩
theorem execLoadPacingWindow_shape slot (s : State) : ∃ g, execLoadPacingWindow slot s = onChip g s := by unfold execLoadPacingWindow onJobs; exact ⟨_, rfl⟩

/-- The commands of the pins, by name. -/
theorem pinRow_cases (c : Instr) (h : pinRow c = true) :
    c = .pgInHigh ∨ c = .railUp ∨ (∃ k v, c = .powerDown k v) ∨ c = .pkgResetNAssert ∨ (∃ x, c = .resetRelease x)
      ∨ (∃ l, c = .perstN l) ∨ ∃ x, c = .tapInstruction x := by
  unfold pinRow at h
  split at h
  · exact .inl rfl
  · exact .inr (.inl rfl)
  · exact .inr (.inr (.inl ⟨_, _, rfl⟩))
  · exact .inr (.inr (.inr (.inl rfl)))
  · exact .inr (.inr (.inr (.inr (.inl ⟨_, rfl⟩))))
  · exact .inr (.inr (.inr (.inr (.inr (.inl ⟨_, rfl⟩)))))
  · exact .inr (.inr (.inr (.inr (.inr (.inr ⟨_, rfl⟩)))))
  · cases h

theorem execPerstN_shape (l : Bool) (s : State) :
    ∃ g, execPerstN l s = onChip g { s with plat := { s.plat with perstN := l } } := by
  unfold execPerstN onLinks; exact ⟨_, rfl⟩

/-- Every command but those of the pins and SENSOR_READING is one change of the running package. -/
theorem exec_onChip (c : Instr) (s : State) (hp : pinRow c = false) (hr : ∀ r, c ≠ .sensorReading r) :
    ∃ g, exec c s = onChip g s := by
  cases c
  case sensorReading r => exact absurd rfl (hr r)
  case pgInHigh => cases hp
  case railUp => cases hp
  case powerDown => cases hp
  case pkgResetNAssert => cases hp
  case resetRelease => cases hp
  case perstN => cases hp
  case tapInstruction => cases hp
  case load who b store => exact execLoad_shape who b store s
  case start who b store => exact execStart_shape who b store s
  case pause who b => exact execPause_shape who b s
  case resume who b => exact execResume_shape who b s
  case checkpoint who b => exact execCheckpoint_shape who b s
  case stop who b => exact execStop_shape who b s
  case batchWindow who b => exact execBatchWindow_shape who b s
  case bootBundleSubmit => exact execBootBundleSubmit_shape s
  case stepBoundary slot => exact execStepBoundary_shape slot s
  case g3Compat who v => exact execG3Compat_shape who v s
  case jadeMode who v => exact execJadeMode_shape who v s
  case nodeNumber who v => exact execNodeNumber_shape who v s
  case portEnable who p v => exact execPortEnable_shape who p v s
  case arrayState who c a v => exact execArrayState_shape who c a v s
  case coreState who c v => exact execCoreState_shape who c v s
  case solverState who k v => exact execSolverState_shape who k v s
  case engineState who e v => exact execEngineState_shape who e v s
  case channelState who n v => exact execChannelState_shape who n v s
  case recoveryTestDone u pass => exact execRecoveryTestDone_shape u pass s
  case stageSize who v => exact execStageSize_shape who v s
  case stageData who offset bytes => exact execStageData_shape who offset bytes s
  case dumpTrigger who v => exact execDumpTrigger_shape who v s
  case dumpComplete => exact execDumpComplete_shape s
  case sleepRequest who v => exact execSleepRequest_shape who v s
  case bootCommit who v => exact execBootCommit_shape who v s
  case bootCommitTimeout => exact execBootCommitTimeout_shape s
  case partitionEnable who v => exact execPartitionEnable_shape who v s
  case safeClear who v => exact execSafeClear_shape who v s
  case keyEnroll who bytes => exact execKeyEnroll_shape who bytes s
  case keyRevoke who bytes => exact execKeyRevoke_shape who bytes s
  case signingPolicy who v => exact execSigningPolicy_shape who v s
  case rollbackAdvance who v => exact execRollbackAdvance_shape who v s
  case nonce who bytes => exact execNonce_shape who bytes s
  case wdObject who slot field v => exact execWdObject_shape who slot field v s
  case dictionaryWrite who index sub ty offset bytes => exact execDictionaryWrite_shape who index sub ty offset bytes s
  case init t f => exact execInit_shape t f s
  case confirm t f => exact execConfirm_shape t f s
  case close t f => exact execClose_shape t f s
  case handshakeTimeout sid => exact execHandshakeTimeout_shape sid s
  case sessionTimeout sid => exact execSessionTimeout_shape sid s
  case dapRead t f => exact execDapRead_shape t f s
  case dapWrite t f => exact execDapWrite_shape t f s
  case writeMulti t f => exact execWriteMulti_shape t f s
  case subscribe t f => exact execSubscribe_shape t f s
  case unsubscribe t f => exact execUnsubscribe_shape t f s
  case eventAck t f => exact execEventAck_shape t f s
  case event sid subId => exact execEvent_shape sid subId s
  case eventResend sid subId => exact execEventResend_shape sid subId s
  case dapForward t f => exact execDapForward_shape t f s
  case h2pPoll slot => exact execH2pPoll_shape slot s
  case msixRaise => exact execMsixRaise_shape s
  case wload c a tag x => exact execWload_shape c a tag x s
  case stream c a tag x => exact execStream_shape c a tag x s
  case drain c a tag x => exact execDrain_shape c a tag x s
  case wloadComplete c a parity line => exact execWloadComplete_shape c a parity line s
  case streamComplete c a parity line => exact execStreamComplete_shape c a parity line s
  case drainComplete c a parity line => exact execDrainComplete_shape c a parity line s
  case selftestDue c a => exact execSelftestDue_shape c a s
  case selftestPass c a parity => exact execSelftestPass_shape c a parity s
  case selftestPassEnd c a signature => exact execSelftestPassEnd_shape c a signature s
  case arrayDrainBound c a => exact execArrayDrainBound_shape c a s
  case arrayDrainEnd c a => exact execArrayDrainEnd_shape c a s
  case vld c tag x => exact execVld_shape c tag x s
  case vst c tag x => exact execVst_shape c tag x s
  case mov c tag x => exact execMov_shape c tag x s
  case bcast c tag x => exact execBcast_shape c tag x s
  case add c tag x => exact execAdd_shape c tag x s
  case sub c tag x => exact execSub_shape c tag x s
  case mul c tag x => exact execMul_shape c tag x s
  case fma c tag x => exact execFma_shape c tag x s
  case min c tag x => exact execMin_shape c tag x s
  case max c tag x => exact execMax_shape c tag x s
  case abs c tag x => exact execAbs_shape c tag x s
  case neg c tag x => exact execNeg_shape c tag x s
  case and c tag x => exact execAnd_shape c tag x s
  case or c tag x => exact execOr_shape c tag x s
  case xor c tag x => exact execXor_shape c tag x s
  case shl c tag x => exact execShl_shape c tag x s
  case shr c tag x => exact execShr_shape c tag x s
  case rcp c tag x => exact execRcp_shape c tag x s
  case rsqrt c tag x => exact execRsqrt_shape c tag x s
  case sqrt c tag x => exact execSqrt_shape c tag x s
  case exp2 c tag x => exact execExp2_shape c tag x s
  case log2 c tag x => exact execLog2_shape c tag x s
  case tanh c tag x => exact execTanh_shape c tag x s
  case sigmoid c tag x => exact execSigmoid_shape c tag x s
  case silu c tag x => exact execSilu_shape c tag x s
  case gelu c tag x => exact execGelu_shape c tag x s
  case cmp c tag x => exact execCmp_shape c tag x s
  case sel c tag x => exact execSel_shape c tag x s
  case cmpp c tag x => exact execCmpp_shape c tag x s
  case pfirst c tag x => exact execPfirst_shape c tag x s
  case plogic c tag x => exact execPlogic_shape c tag x s
  case cvt c tag x => exact execCvt_shape c tag x s
  case cvtb c tag x => exact execCvtb_shape c tag x s
  case dcvb c tag x => exact execDcvb_shape c tag x s
  case red c tag x => exact execRed_shape c tag x s
  case xpose c tag x => exact execXpose_shape c tag x s
  case tperm c tag x => exact execTperm_shape c tag x s
  case cmpr c tag x => exact execCmpr_shape c tag x s
  case expd c tag x => exact execExpd_shape c tag x s
  case rand c tag x => exact execRand_shape c tag x s
  case veComplete c parity line => exact execVeComplete_shape c parity line s
  case veDrainBound c => exact execVeDrainBound_shape c s
  case solve c tag x => exact execSolve_shape c tag x s
  case copy c tag x => exact execCopy_shape c tag x s
  case prefetch c tag x => exact execPrefetch_shape c tag x s
  case rload c tag x => exact execRload_shape c tag x s
  case rstore c tag x => exact execRstore_shape c tag x s
  case ratomic c tag x => exact execRatomic_shape c tag x s
  case coll c tag x => exact execColl_shape c tag x s
  case cverify c tag x => exact execCverify_shape c tag x s
  case channelAcquire n => exact execChannelAcquire_shape n s
  case cverifyComplete n line => exact execCverifyComplete_shape n line s
  case wait c st tag x => exact execWait_shape c st tag x s
  case signal c st tag x => exact execSignal_shape c st tag x s
  case fence c st tag x => exact execFence_shape c st tag x s
  case fenceComplete c st => exact execFenceComplete_shape c st s
  case watchRegistration w obj target => exact execWatchRegistration_shape w obj target s
  case signalAdd obj amount unit => exact execSignalAdd_shape obj amount unit s
  case wake w => exact execWake_shape w s
  case waitExpiry w => exact execWaitExpiry_shape w s
  case cancel w => exact execCancel_shape w s
  case set obj value => exact execSet_shape obj value s
  case descriptorStart k line => exact execDescriptorStart_shape k line s
  case solverAssemblyDone k window => exact execSolverAssemblyDone_shape k window s
  case solverFactorDone k window => exact execSolverFactorDone_shape k window s
  case solverIteration k window => exact execSolverIteration_shape k window s
  case solverRefactDone k window => exact execSolverRefactDone_shape k window s
  case solverDelivery k pairDiffers window => exact execSolverDelivery_shape k pairDiffers window s
  case deadline k seq pairBehind pairDiffers => exact execDeadline_shape k seq pairBehind pairDiffers s
  case solverDrainBound k => exact execSolverDrainBound_shape k s
  case solverDrainEnd k => exact execSolverDrainEnd_shape k s
  case serviceCopySubmit e slot d => exact execServiceCopySubmit_shape e slot d s
  case ceCopy e q line => exact execCeCopy_shape e q line s
  case convert e q line => exact execConvert_shape e q line s
  case fill e q => exact execFill_shape e q s
  case copyComplete e q => exact execCopyComplete_shape e q s
  case granuleTaken e line => exact execGranuleTaken_shape e line s
  case ceDrainBound e => exact execCeDrainBound_shape e s
  case regionFill slot => exact execRegionFill_shape slot s
  case scrubRead h ecc => exact execScrubRead_shape h ecc s
  case sramScrub d found => exact execSramScrub_shape d found s
  case bypassEnter k => exact execBypassEnter_shape k s
  case bypassLeave k => exact execBypassLeave_shape k s
  case remoteLineExpiry k line => exact execRemoteLineExpiry_shape k line s
  case peerDetect p => exact execPeerDetect_shape p s
  case laneTrainingDone p lanes peerGletor3 peerLanes => exact execLaneTrainingDone_shape p lanes peerGletor3 peerLanes s
  case trainingTimeout p => exact execTrainingTimeout_shape p s
  case ident p h x => exact execIdent_shape p h x s
  case nak p h expected => exact execNak_shape p h expected s
  case audit p h entries => exact execAudit_shape p h entries s
  case auditFail p h entry => exact execAuditFail_shape p h entry s
  case resync p h next free => exact execResync_shape p h next free s
  case power p h v => exact execPower_shape p h v s
  case dataFlit p f => exact execDataFlit_shape p f s
  case idleFlit p f => exact execIdleFlit_shape p f s
  case flitSlot p => exact execFlitSlot_shape p s
  case ackTimer p => exact execAckTimer_shape p s
  case auditDue p => exact execAuditDue_shape p s
  case retrain p cause => exact execRetrain_shape p cause s
  case retrainTimeout p => exact execRetrainTimeout_shape p s
  case portDrainTimeout p => exact execPortDrainTimeout_shape p s
  case lsdbUpdate p rec cert => exact execLsdbUpdate_shape p rec cert s
  case routingRewrite => exact execRoutingRewrite_shape s
  case quorumSettle slot epochs => exact execQuorumSettle_shape slot epochs s
  case refclkLoss r input => exact execRefclkLoss_shape r input s
  case hostLinkTraining rate64 width => exact execHostLinkTraining_shape rate64 width s
  case read at_ m ecc => exact execRead_shape at_ m ecc s
  case write at_ m ecc => exact execWrite_shape at_ m ecc s
  case atomic at_ m ecc => exact execAtomic_shape at_ m ecc s
  case remoteSignal at_ m => exact execRemoteSignal_shape at_ m s
  case response at_ m => exact execResponse_shape at_ m s
  case retry at_ m => exact execRetry_shape at_ m s
  case rate at_ m => exact execRate_shape at_ m s
  case batch at_ dest src msgs => exact execBatch_shape at_ dest src msgs s
  case bulkWrite at_ m => exact execBulkWrite_shape at_ m s
  case bulkRead at_ m ecc => exact execBulkRead_shape at_ m ecc s
  case requestTimeout unit dest flow seq => exact execRequestTimeout_shape unit dest flow seq s
  case sequenceEntryExpiry r unit => exact execSequenceEntryExpiry_shape r unit s
  case coalesceWindow r line => exact execCoalesceWindow_shape r line s
  case hotWindow r => exact execHotWindow_shape r s
  case rateInterval dest line => exact execRateInterval_shape dest line s
  case rateHold dest line => exact execRateHold_shape dest line s
  case eaveWindow r dest => exact execEaveWindow_shape r dest s
  case collectiveStart at_ m => exact execCollectiveStart_shape at_ m s
  case go at_ m => exact execGo_shape at_ m s
  case lease at_ m => exact execLease_shape at_ m s
  case leaseReply at_ m => exact execLeaseReply_shape at_ m s
  case release at_ m => exact execRelease_shape at_ m s
  case grant at_ m => exact execGrant_shape at_ m s
  case data at_ m => exact execData_shape at_ m s
  case result at_ m => exact execResult_shape at_ m s
  case abort at_ m => exact execAbort_shape at_ m s
  case leaseIdle r jobId comm seq => exact execLeaseIdle_shape r jobId comm seq s
  case attach child resume jobId => exact execAttach_shape child resume jobId s
  case detach child jobId => exact execDetach_shape child jobId s
  case suspect reporter node jobId => exact execSuspect_shape reporter node jobId s
  case waiting parent jobId => exact execWaiting_shape parent jobId s
  case chunkArrival jobId k bytes => exact execChunkArrival_shape jobId k bytes s
  case gapTimeout jobId => exact execGapTimeout_shape jobId s
  case probe jobId anchor => exact execProbe_shape jobId anchor s
  case probeTimeout jobId node => exact execProbeTimeout_shape jobId node s
  case startTimeout jobId => exact execStartTimeout_shape jobId s
  case ready jobId node status => exact execReady_shape jobId node status s
  case run jobId => exact execRun_shape jobId s
  case shardLoadStart slot => exact execShardLoadStart_shape slot s
  case shardReadDone slot shard bytes digest => exact execShardReadDone_shape slot shard bytes digest s
  case checkpointBoundary slot part => exact execCheckpointBoundary_shape slot part s
  case checkpointWriteStep slot ok => exact execCheckpointWriteStep_shape slot ok s
  case commitTimeout slot => exact execCommitTimeout_shape slot s
  case trainingTotals slot => exact execTrainingTotals_shape slot s
  case memberTotals slot t => exact execMemberTotals_shape slot t s
  case decisionExpiry slot => exact execDecisionExpiry_shape slot s
  case stateVector slot step withheld vec => exact execStateVector_shape slot step withheld vec s
  case evaluation slot => exact execEvaluation_shape slot s
  case forwardTransfer slot => exact execForwardTransfer_shape slot s
  case returnTransfer slot => exact execReturnTransfer_shape slot s
  case inferenceBatchClose slot rows windowExpired => exact execInferenceBatchClose_shape slot rows windowExpired s
  case inputOutOfRange vin => exact execInputOutOfRange_shape vin s
  case stepDecision d averageOver => exact execStepDecision_shape d averageOver s
  case clusterPowerRamp => exact execClusterPowerRamp_shape s
  case bringupTestDone bit failed usable => exact execBringupTestDone_shape bit failed usable s
  case sleepEntryDone => exact execSleepEntryDone_shape s
  case wakeDone cycles => exact execWakeDone_shape cycles s
  case lockstepMismatch pair => exact execLockstepMismatch_shape pair s
  case pairRestartDone pair => exact execPairRestartDone_shape pair s
  case pairHeartbeat missed => exact execPairHeartbeat_shape missed s
  case buristHeartbeat => exact execBuristHeartbeat_shape s
  case buristHeartbeatTimeout => exact execBuristHeartbeatTimeout_shape s
  case watchdogSample slot => exact execWatchdogSample_shape slot s
  case clockMonitor fault reference => exact execClockMonitor_shape fault reference s
  case heartbeatSend => exact execHeartbeatSend_shape s
  case heartbeat at_ m => exact execHeartbeat_shape at_ m s
  case safeNotice at_ m => exact execSafeNotice_shape at_ m s
  case memberSilence slot node => exact execMemberSilence_shape slot node s
  case cpDrainBound c => exact execCpDrainBound_shape c s
  case channelDrainBound n => exact execChannelDrainBound_shape n s
  case hostLinkDown => exact execHostLinkDown_shape s
  case loadPacingWindow slot => exact execLoadPacingWindow_shape slot s

end Sys2Proof.Machine
end

