-- ==== Sys2Proof/Laws/Shapes.lean ====
section
/-! SUPPORT. What each shared operation of log, fabric and monitor may change, as the fields it may replace; every other field
then reads as before by definition. -/

namespace Sys2Proof.Machine.Chip

/-! ## The event log -/

theorem dropOldest_shape (s : Chip) : ∃ r l d, s.dropOldest = { s with regs := r, log := l, dap := d } := by
  unfold dropOldest
  split
  · exact ⟨_, _, _, rfl⟩
  · simp only; split <;> exact ⟨_, _, _, rfl⟩

theorem addLog_shape (s : Chip) (code slot kind source : Nat) (detail : List Byte) :
    ∃ r l d, s.addLog code slot kind source detail = { s with regs := r, log := l, dap := d } := by
  unfold addLog
  simp only
  split
  · obtain ⟨r, l, d, h⟩ := dropOldest_shape s
    rw [h]; exact ⟨_, _, _, rfl⟩
  · exact ⟨_, _, _, rfl⟩

/-- The newest record is the one entered. -/
theorem addLog_head (s : Chip) (code slot kind source : Nat) (detail : List Byte) :
    (s.addLog code slot kind source detail).log.head?.map (fun r => (r.code, r.slot, r.kind, r.source, r.detail))
      = some (code, slot, kind, source, detail) := by
  unfold addLog; rfl

theorem dropOldest_reg (s : Chip) (i j : Nat) (h : i ≠ 0x8200) (hj : j < 256) : s.dropOldest.reg i j = s.reg i j := by
  have hk : ∀ k, k < 256 → Objects.key i j ≠ Objects.key 0x8200 k := by
    intro k hk e; simp only [Objects.key] at e; omega
  unfold dropOldest
  split
  · rfl
  · simp only
    split
    · rw [bump, reg_setReg, if_neg (hk _ (by omega)), bump, reg_setReg, if_neg (hk _ (by omega))]; rfl
    · rw [bump, reg_setReg, if_neg (hk _ (by omega))]; rfl

theorem addLog_reg (s : Chip) (code slot kind source : Nat) (detail : List Byte) (i j : Nat) (h : i ≠ 0x8200) (hj : j < 256) :
    (s.addLog code slot kind source detail).reg i j = s.reg i j := by
  have hk : Objects.key i j ≠ Objects.key 0x8200 1 := by
    intro e; simp only [Objects.key] at e; omega
  unfold addLog
  simp only
  have e : ∀ (t : Chip) (v : Nat) (l : List LogRec), ({ t.setReg 0x8200 1 v with log := l } : Chip).reg i j = t.reg i j := by
    intro t v l
    show (t.setReg 0x8200 1 v).reg i j = _
    rw [reg_setReg, if_neg hk]
  rw [e]
  split
  · exact dropOldest_reg s i j h hj
  · rfl

/-! ## Counters -/

/-- Writing another object leaves a word as it was. -/
theorem reg_setReg_index (s : Chip) (ix sub v i j : Nat) (h : i ≠ ix) (hs : sub < 256) (hj : j < 256) :
    (s.setReg ix sub v).reg i j = s.reg i j := by
  rw [reg_setReg, if_neg]
  simp only [Objects.key]; omega

/-- Words of the log aside, what a change of `regs` and other fields leaves of a word. -/
theorem countNd_shape (s : Chip) (sub j n : Nat) : ∃ r, s.countNd sub j n = { s with regs := r } := by
  unfold countNd; simp only; split <;> exact ⟨_, rfl⟩

theorem countNd_reg (s : Chip) (sub j n i k : Nat) (h : i ≠ 0x8010) (hs : sub < 256) (hk : k < 256) :
    (s.countNd sub j n).reg i k = s.reg i k := by
  unfold countNd bump
  simp only
  split
  · next hj =>
    rw [reg_setReg_index _ _ _ _ _ _ h (by omega) hk, reg_setReg_index _ _ _ _ _ _ h hs hk,
      reg_setReg_index _ _ _ _ _ _ h (by omega) hk]
  · rw [reg_setReg_index _ _ _ _ _ _ h hs hk, reg_setReg_index _ _ _ _ _ _ h (by omega) hk]

/-! ## The fabric's queues -/

theorem countMerge_shape (s : Chip) (ridge : Nat) (b : Msg) : ∃ r, s.countMerge ridge b = { s with regs := r } := by
  unfold countMerge
  simp only
  split
  · exact countNd_shape (s.bump _ _ _) 3 _ 1
  · exact ⟨_, rfl⟩

theorem enqueue_shape (s : Chip) (p vl hop dest : Nat) (w : Wire) :
    ∃ f r, s.enqueue p vl hop dest w = { s with fab := f, regs := r } := by
  unfold enqueue
  simp only
  split
  · obtain ⟨r, h⟩ := countMerge_shape (s.setPort p { s.port p with queue := _ }) _ _
    exact ⟨_, r, h⟩
  · exact ⟨_, _, rfl⟩

/-- A message that is queued changes queues and counters alone. -/
theorem sendBy_shape (s t : Chip) (vl hop dest : Nat) (w : Wire) (n : Option (Nat × Bool × Bool))
    (h : s.sendBy vl hop dest w n = some t) : ∃ f r, t = { s with fab := f, regs := r } := by
  unfold sendBy at h
  split at h
  · cases h
  · split at h
    · cases h
    · split at h
      · cases h
      · simp only [Option.some.injEq] at h
        subst h
        split
        · split
          · obtain ⟨r, e⟩ := countNd_shape s 7 (s.wireSlot w) 1
            rw [e]
            obtain ⟨f, r', e'⟩ := enqueue_shape (setPortReg { s with regs := r } _ 0x14 _) _ vl hop dest w
            exact ⟨f, r', e'⟩
          · obtain ⟨f, r', e'⟩ := enqueue_shape (s.setPortReg _ 0x14 _) _ vl hop dest w
            exact ⟨f, r', e'⟩
        · split
          · obtain ⟨r, e⟩ := countNd_shape s 7 (s.wireSlot w) 1
            rw [e]
            exact enqueue_shape { s with regs := r } _ vl hop dest w
          · exact enqueue_shape s _ vl hop dest w

/-- A message that leaves changes queues and counters alone. -/
theorem route_shape (s t : Chip) (vl hop src dest : Nat) (f : Option Nat) (b : Bool) (w : Wire)
    (h : s.route vl hop src dest f b w = some t) : ∃ f r, t = { s with fab := f, regs := r } :=
  sendBy_shape s t vl hop dest w _ h

/-! ## The monitor -/

theorem sendSafety_shape (s : Chip) (mtype cause dest : Nat) (jobId : U64) :
    ∃ f r, s.sendSafety mtype cause dest jobId = { s with
      fab := f, regs := r
      mon := { s.mon with txSeq := SMap.set 0 s.mon.txSeq dest (SMap.get 0 s.mon.txSeq dest + 1) } } := by
  unfold sendSafety
  simp only
  generalize hr : route _ 5 0 s.node dest none true _ = o
  cases o with
  | none => exact ⟨_, _, rfl⟩
  | some t =>
    obtain ⟨f, r, e⟩ := route_shape _ t _ _ _ _ _ _ _ hr
    exact ⟨f, r, e⟩

/-- A list of safety messages changes queues, counters and sequence numbers alone. -/
theorem sendSafety_fold_shape (mtype cause : Nat) : ∀ (l : List (Nat × U64)) (s : Chip),
    ∃ f r q, l.foldl (fun (t : Chip) p => t.sendSafety mtype cause p.1 p.2) s = { s with
      fab := f, regs := r, mon := { s.mon with txSeq := q } }
  | [], s => ⟨_, _, _, rfl⟩
  | p :: l, s => by
    obtain ⟨f, r, e⟩ := sendSafety_shape s mtype cause p.1 p.2
    rw [List.foldl_cons, e]
    obtain ⟨f', r', q', e'⟩ := sendSafety_fold_shape mtype cause l { s with
      fab := f, regs := r
      mon := { s.mon with txSeq := SMap.set 0 s.mon.txSeq p.1 (SMap.get 0 s.mon.txSeq p.1 + 1) } }
    exact ⟨f', r', q', e'⟩

theorem enterSafe_shape (s : Chip) (k : Nat) :
    ∃ f r q, s.enterSafe k = { s with fab := f, regs := r, mon := { s.mon with txSeq := q } } := by
  unfold enterSafe
  split
  · exact ⟨_, _, _, rfl⟩
  · simp only
    split
    · exact sendSafety_fold_shape 2 k _ ((s.setReg 0x7000 2 1).setReg 0x7000 3 k)
    · exact ⟨_, _, _, rfl⟩

theorem countDetection_shape (s : Chip) (k code slot unit : Nat) :
    ∃ r l d, s.countDetection k code slot unit = { s with
      regs := r, log := l, dap := d
      mon := { s.mon with detections := s.mon.detections.modify (k - 1) (· + 1) } } := by
  unfold countDetection
  exact addLog_shape { s with mon := { s.mon with detections := s.mon.detections.modify (k - 1) (· + 1) } } _ _ _ _ _

/-- A detection counts, logs and may enter the safe state: no unit, memory or job changes. -/
theorem detect_shape (s : Chip) (k code slot unit : Nat) :
    ∃ r l d f q, s.detect k code slot unit = { s with
      regs := r, log := l, dap := d, fab := f
      mon := { s.mon with detections := s.mon.detections.modify (k - 1) (· + 1), txSeq := q } } := by
  unfold detect
  simp only
  obtain ⟨r, l, d, e⟩ := countDetection_shape s k code slot unit
  rw [e]
  split
  · obtain ⟨f, r', q, e'⟩ := enterSafe_shape { s with
      regs := r, log := l, dap := d
      mon := { s.mon with detections := s.mon.detections.modify (k - 1) (· + 1) } } k
    exact ⟨r', l, d, f, q, e'⟩
  · exact ⟨_, _, _, _, _, rfl⟩

/-! ## Words that queues and safety messages leave alone -/

/-- Objects outside the ports' control objects and the fabric's counters. -/
def apart (i : Nat) : Bool := decide (i < 0x4100) || (decide (0x4130 ≤ i) && decide (i < 0x8010))

theorem apart_iff (i : Nat) : apart i = true ↔ i < 0x4100 ∨ (0x4130 ≤ i ∧ i < 0x8010) := by simp [apart]

theorem mem_portsWhere_lt (s : Chip) (use f : Nat → Bool) (p : Nat) (h : p ∈ s.portsWhere use f) : p < 48 := by
  unfold portsWhere at h
  exact List.mem_range.mp (List.mem_filter.mp h).1

theorem mem_minimalTo_lt (s : Chip) (use : Nat → Bool) (d p : Nat) (h : p ∈ s.minimalTo use d) : p < 48 := by
  unfold minimalTo at h
  simp only at h
  split at h
  · exact mem_portsWhere_lt s use _ p (List.mem_mergeSort.mp h)
  · split at h
    · exact mem_portsWhere_lt s use _ p (List.mem_mergeSort.mp h)
    · exact mem_portsWhere_lt s use _ p (List.mem_mergeSort.mp h)

theorem mem_candidatesIn_lt (s : Chip) (use : Nat → Bool) (src d p : Nat) (h : p ∈ s.candidatesIn use src d) : p < 48 := by
  unfold candidatesIn at h
  split at h
  · split at h
    · split at h
      · exact mem_portsWhere_lt s use _ p h
      · exact mem_minimalTo_lt s use _ p h
    · cases h
  · exact mem_minimalTo_lt s use _ p h

theorem mem_candidates_lt (s : Chip) (src d p : Nat) (h : p ∈ s.candidates src d) : p < 48 := by
  unfold candidates at h
  simp only at h
  split at h <;> exact mem_candidatesIn_lt s _ src d p h

theorem mem_leastFlits (s : Chip) (vl p : Nat) (ps : List Nat) (h : p ∈ s.leastFlits vl ps) : p ∈ ps := by
  unfold leastFlits at h
  split at h
  · exact (List.mem_filter.mp h).1
  · cases h

theorem chooseOf_mem (s : Chip) (n p : Nat) (ps : List Nat) (h : s.chooseOf n ps = some p) : p ∈ ps :=
  List.mem_of_getElem? h

theorem mem_alternatives_lt (s : Chip) (d p : Nat) (h : p ∈ s.alternatives d) : p < 48 := by
  unfold alternatives at h
  split at h <;> exact mem_portsWhere_lt s _ _ p h

theorem minimalHop_lt (s : Chip) (vl src d : Nat) (b : Bool) (p : Nat) (x y : Bool)
    (h : s.minimalHop vl src d b = some (p, x, y)) : p < 48 := by
  unfold minimalHop at h
  simp only at h
  split at h
  · cases h
  · split at h
    · obtain ⟨q, hq, e⟩ := Option.map_eq_some_iff.mp h
      cases e
      exact mem_candidates_lt s src d _ (List.mem_of_getElem? hq)
    · obtain ⟨q, hq, e⟩ := Option.map_eq_some_iff.mp h
      cases e
      exact mem_candidates_lt s src d _ (mem_leastFlits s vl _ _ (chooseOf_mem s _ _ _ hq))

/-- A next hop leaves through one of the 48 ports. -/
theorem nextHop_lt (s : Chip) (vl src d : Nat) (f : Option Nat) (b : Bool) (p : Nat) (x y : Bool)
    (h : s.nextHop vl src d f b = some (p, x, y)) : p < 48 := by
  unfold nextHop at h
  simp only at h
  split at h
  · exact minimalHop_lt s vl src d b p x y h
  · split at h
    · obtain ⟨q, hq, e⟩ := Option.map_eq_some_iff.mp h
      cases e
      exact mem_portsWhere_lt s _ _ _ (mem_leastFlits s vl _ _ (chooseOf_mem s _ _ _ hq))
    · split at h
      · cases h
      · next q hq =>
        have hqm := mem_candidates_lt s src d q (mem_leastFlits s vl q _ (chooseOf_mem s _ q _ hq))
        split at h
        · next a ha =>
          split at h
          · cases h
            have := mem_leastFlits s vl _ _ (chooseOf_mem s _ _ _ ha)
            split at this
            · exact mem_alternatives_lt s d _ this
            · cases this
          · cases h; exact hqm
        · cases h; exact hqm

theorem countMerge_reg (s : Chip) (ridge : Nat) (b : Msg) (i j : Nat) (hi : apart i = true) (hj : j < 256) (hr : ridge < 2) :
    (s.countMerge ridge b).reg i j = s.reg i j := by
  rw [apart_iff] at hi
  have key : ∀ ix, (ix = 0x8031 ∨ ix = 0x8030) → (s.bump ix (ridge + 1) b.parts.length).reg i j = s.reg i j := by
    intro ix hx
    exact reg_setReg_index _ _ _ _ _ _ (by omega) (by omega) hj
  unfold countMerge
  simp only
  split
  · rw [countNd_reg _ _ _ _ _ _ (by omega) (by omega) hj]
    split
    · exact key _ (.inl rfl)
    · exact key _ (.inr rfl)
  · split
    · exact key _ (.inl rfl)
    · exact key _ (.inr rfl)

theorem enqueue_reg (s : Chip) (p vl hop dest : Nat) (w : Wire) (i j : Nat) (hp : p < 48) (hi : apart i = true) (hj : j < 256) :
    (s.enqueue p vl hop dest w).reg i j = s.reg i j := by
  unfold enqueue
  simp only
  split
  · rw [countMerge_reg _ _ _ _ _ hi hj (by omega)]; rfl
  · rfl

theorem sendBy_reg (s t : Chip) (vl hop dest : Nat) (w : Wire) (n : Option (Nat × Bool × Bool)) (i j : Nat)
    (h : s.sendBy vl hop dest w n = some t) (hn : ∀ p x y, n = some (p, x, y) → p < 48) (hi : apart i = true) (hj : j < 256) :
    t.reg i j = s.reg i j := by
  unfold sendBy at h
  split at h
  · cases h
  · split at h
    · cases h
    · next p o d =>
      have hp := hn p o d rfl
      split at h
      · cases h
      · simp only [Option.some.injEq] at h
        subst h
        rw [enqueue_reg _ _ _ _ _ _ _ _ hp hi hj]
        rw [apart_iff] at hi
        split
        · rw [setPortReg, reg_setReg_index _ _ _ _ _ _ (by omega) (by omega) hj]
          split
          · exact countNd_reg _ _ _ _ _ _ (by omega) (by omega) hj
          · rfl
        · split
          · exact countNd_reg _ _ _ _ _ _ (by omega) (by omega) hj
          · rfl

theorem route_reg (s t : Chip) (vl hop src dest : Nat) (f : Option Nat) (b : Bool) (w : Wire) (i j : Nat)
    (h : s.route vl hop src dest f b w = some t) (hi : apart i = true) (hj : j < 256) : t.reg i j = s.reg i j :=
  sendBy_reg s t vl hop dest w _ i j h (fun p x y e => nextHop_lt s _ _ _ _ _ p x y e) hi hj

theorem sendSafety_reg (s : Chip) (mtype cause dest : Nat) (jobId : U64) (i j : Nat) (hi : apart i = true) (hj : j < 256) :
    (s.sendSafety mtype cause dest jobId).reg i j = s.reg i j := by
  unfold sendSafety
  simp only
  generalize hr : route _ 5 0 s.node dest none true _ = o
  cases o with
  | none => rfl
  | some t => exact (route_reg _ t _ _ _ _ _ _ _ _ _ hr hi hj).trans rfl

theorem sendSafety_fold_reg (mtype cause i j : Nat) (hi : apart i = true) (hj : j < 256) : ∀ (l : List (Nat × U64)) (s : Chip),
    (l.foldl (fun (t : Chip) p => t.sendSafety mtype cause p.1 p.2) s).reg i j = s.reg i j
  | [], s => rfl
  | p :: l, s => by
    rw [List.foldl_cons, sendSafety_fold_reg mtype cause i j hi hj l, sendSafety_reg _ _ _ _ _ _ _ hi hj]

/-- Entering the safe state sets SAFE_STATE, and SAFE_CAUSE where the package was not in it (R463). -/
theorem enterSafe_safe (s : Chip) (k : Nat) : (s.enterSafe k).safe = true := by
  unfold enterSafe
  split
  · assumption
  · simp only [safe, decide_eq_true_eq]
    split
    · rw [sendSafety_fold_reg _ _ _ _ (by decide) (by decide), reg_setReg, if_neg (by decide), reg_setReg_self] <;> rfl
    · rw [reg_setReg, if_neg (by decide), reg_setReg_self] <;> rfl

theorem enterSafe_cause (s : Chip) (k : Nat) (h : s.safe = false) (hk : k < 2 ^ 64) : (s.enterSafe k).reg 0x7000 3 = k := by
  unfold enterSafe
  rw [if_neg (by simp [h])]
  simp only
  split
  · rw [sendSafety_fold_reg _ _ _ _ (by decide) (by decide), reg_setReg_self, Nat.mod_eq_of_lt hk]
  · rw [reg_setReg_self, Nat.mod_eq_of_lt hk]

theorem enterSafe_reg (s : Chip) (k i j : Nat) (hi : apart i = true) (hj : j < 256)
    (hn : Objects.key i j ≠ Objects.key 0x7000 2 ∧ Objects.key i j ≠ Objects.key 0x7000 3) :
    (s.enterSafe k).reg i j = s.reg i j := by
  unfold enterSafe
  split
  · rfl
  · simp only
    split
    · rw [sendSafety_fold_reg _ _ _ _ hi hj, reg_setReg, if_neg hn.2, reg_setReg, if_neg hn.1]
    · rw [reg_setReg, if_neg hn.2, reg_setReg, if_neg hn.1]

/-- A detection leaves every word but those of the log, the safe state and the fabric as it was. -/
theorem detect_reg (s : Chip) (k code slot unit i j : Nat) (hi : apart i = true) (hj : j < 256)
    (hn : Objects.key i j ≠ Objects.key 0x7000 2 ∧ Objects.key i j ≠ Objects.key 0x7000 3) :
    (s.detect k code slot unit).reg i j = s.reg i j := by
  have h8 : i ≠ 0x8200 := by rw [apart_iff] at hi; omega
  have hc : (s.countDetection k code slot unit).reg i j = s.reg i j := by
    unfold countDetection
    simp only
    rw [addLog_reg _ _ _ _ _ _ _ _ h8 hj]; rfl
  unfold detect
  simp only
  split
  · rw [enterSafe_reg _ _ _ _ hi hj hn, hc]
  · exact hc

/-- The newest record is the detection's. -/
theorem detect_head (s : Chip) (k code slot unit : Nat) :
    (s.detect k code slot unit).log.head?.map (fun r => (r.code, r.source)) = some (code, unit) := by
  have hc : (s.countDetection k code slot unit).log.head?.map (fun r => (r.code, r.source)) = some (code, unit) := by
    unfold countDetection addLog; rfl
  unfold detect
  simp only
  split
  · obtain ⟨f, r, q, e⟩ := enterSafe_shape (s.countDetection k code slot unit) k
    rw [e]; exact hc
  · exact hc

end Sys2Proof.Machine.Chip
end

