-- ==== Sys2Proof/Laws/Solver.lean ====
section
/-! SUPPORT. Small facts of the solver units' values. -/

namespace Sys2Proof.Solve

theorem hasNan_of_allFinite (m : SMap U64) (h : allFinite m = true) : hasNan m = false := by
  rw [allFinite, List.all_eq_true] at h
  rw [hasNan, List.any_eq_false]
  intro p hp
  have := h p hp
  cases hv : val p.2 <;> simp_all [FVal.isFinite]

end Sys2Proof.Solve
end

