-- ==== Sys2Proof/Laws/Streams.lean ====
section
/-! SUPPORT. What an entry does that joins its stream: it waits behind what holds the stream, or it reaches the head at once. -/

namespace Sys2Proof.Machine.Chip

/-- The stream with one entry in it. -/
def withEntry (s : Chip) (c st : Nat) (i : Instr) : Chip := s.updStream c st (fun y => { y with held := y.held ++ [i] })

theorem withEntry_stream (s : Chip) (c st : Nat) (i : Instr) :
    (s.withEntry c st i).stream c st = { s.stream c st with held := (s.stream c st).held ++ [i] } := by
  simp [withEntry]

@[simp] theorem withEntry_reg (s : Chip) (c st : Nat) (i : Instr) (ix sub : Nat) :
    (s.withEntry c st i).reg ix sub = s.reg ix sub := rfl

theorem withEntry_streamHeld (s : Chip) (c st : Nat) (i : Instr) : (s.withEntry c st i).streamHeld c st = s.streamHeld c st := by
  unfold streamHeld
  simp only [withEntry_stream]
  rfl

/-- An entry of a held stream waits. -/
theorem addEntry_of_held (s : Chip) (c st : Nat) (i : Instr) (h : s.streamHeld c st = true) :
    s.addEntry c st i = s.withEntry c st i := by
  show (s.withEntry c st i).pump c st = _
  unfold pump
  cases hn : ((s.withEntry c st i).stream c st).held.length with
  | zero => rfl
  | succ n => simp [pumpN, withEntry_streamHeld, h]

/-- An entry of an open stream goes to the head at once. -/
theorem addEntry_of_open (s : Chip) (c st : Nat) (i : Instr) (hh : (s.stream c st).held = []) (h : s.streamHeld c st = false) :
    s.addEntry c st i =
      if ((s.withEntry c st i).issue i).1 then
        ((s.withEntry c st i).issue i).2.updStream c st (fun y => { y with held := y.held.drop 1 })
      else ((s.withEntry c st i).issue i).2 := by
  show (s.withEntry c st i).pump c st = _
  have he : ((s.withEntry c st i).stream c st).held = [i] := by simp [withEntry_stream, hh]
  unfold pump
  rw [he]
  simp only [List.length_cons, List.length_nil, Nat.zero_add, pumpN, withEntry_streamHeld, h, Bool.false_eq_true, if_false, he]

/-- The same through `enter`, where the core is not draining afterwards. -/
theorem enter_of_open (s : Chip) (c : CoreId) (st : StreamIx) (i : Instr) (u : Chip) (hh : (s.stream c st).held = [])
    (h : s.streamHeld c st = false) (hi : (s.withEntry c st i).issue i = (true, u)) (hc : u.coreState c ≠ 2) :
    s.enter c st i = u.updStream c st (fun y => { y with held := y.held.drop 1 }) := by
  unfold enter
  rw [addEntry_of_open s c st i hh h, hi]
  simp only [if_true]
  exact settleCore_of_ne _ c hc

theorem enter_of_held (s : Chip) (c : CoreId) (st : StreamIx) (i : Instr) (h : s.streamHeld c st = true)
    (hc : s.coreState c ≠ 2) : s.enter c st i = s.withEntry c st i := by
  unfold enter
  rw [addEntry_of_held s c st i h]
  exact settleCore_of_ne _ c hc

end Sys2Proof.Machine.Chip
end

