-- ==== Sys2Proof/WellFormed.lean ====
section
/-! DEFINITION. Well-formed commands: operands that the hardware's messages and fields can carry. Bit vectors and bounded
numbers need no check; what is left are the lengths of lists and numbers without a bound in their type. `exec` takes any
command; nothing depends on this predicate but the statements that name it. -/

namespace Sys2Proof

/-- Node numbers have 14 bits (R9). -/
def nodes : Nat := 16384

/-- Bytes of a value that one dictionary request can carry; LENGTH is a U16 (R420). -/
def maxValue : Nat := 65535

/-- Chunks of a bundle of at most 2^38 bytes, and bytes of a chunk (R389). -/
def chunks : Nat := 262144
def chunkBytes : Nat := 1048576

/-- A synchronisation object of a core or of the Gable die (R244). -/
def objOk (r : Nat) : Bool := decide (r < 17408)

/-- Extents of a storage endpoint that do not overlap, in rising order (R47). -/
def storeOk : List Extent → Bool
  | [] => true
  | a :: t => t.all (fun b => decide (a.base + a.bytes.length ≤ b.base)) && storeOk t

/-- A frame's body fits the reassembled forms of R420 and its TAG is 32 bytes. -/
def frameOk (f : DapFrame) : Bool := decide (f.body.length ≤ 6255) && f.tag.length = 32

/-- A message carries at most 4,096 data bytes and a U8 of constituents (R311, R330). -/
def msgOk (m : Msg) : Bool := decide (m.data.length ≤ 4096) && decide (m.parts.length ≤ 255)

/-- A collective message carries a U32 of data bytes and a U16 of tokens (R338). -/
def collOk (m : CollMsg) : Bool := decide (m.data.length < 2 ^ 32) && decide (m.tokens < 65536)

/-- The opcodes of a CP stream, R495. -/
def cpOpcodes : List Byte := [0x10, 0x11, 0x12, 0x20, 0x21, 0x22, 0x30, 0x40]

/-- An entry of an operation of R495 has its OPCODE, or one that names no operation. -/
def opcodeOk (own : Byte) (x : CpEntry) : Bool := x.opcode = own || !cpOpcodes.contains x.opcode

/-- The operands of a command can be carried. -/
def wellFormed (i : Instr) : Bool :=
  match i with
  | .load _ _ store => storeOk store
  | .start _ _ store => storeOk store
  | .solve _ _ x => opcodeOk 0x10 x
  | .copy _ _ x => opcodeOk 0x11 x
  | .prefetch _ _ x => opcodeOk 0x12 x
  | .stageData _ _ bytes => decide (bytes.length ≤ maxValue)
  | .keyEnroll _ bytes => decide (bytes.length ≤ maxValue)
  | .keyRevoke _ bytes => decide (bytes.length ≤ maxValue)
  | .nonce _ bytes => decide (bytes.length ≤ maxValue)
  | .dictionaryWrite _ _ _ _ _ bytes => decide (bytes.length ≤ maxValue)
  | .init _ f => frameOk f
  | .confirm _ f => frameOk f
  | .close _ f => frameOk f
  | .dapRead _ f => frameOk f
  | .dapWrite _ f => frameOk f
  | .writeMulti _ f => frameOk f
  | .subscribe _ f => frameOk f
  | .unsubscribe _ f => frameOk f
  | .eventAck _ f => frameOk f
  | .event _ subId => decide (subId < 4)
  | .eventResend _ subId => decide (subId < 4)
  | .dapForward _ f => frameOk f
  | .h2pPoll slot => slot.all frameOk
  | .watchRegistration _ obj _ => objOk obj.toNat
  | .signalAdd obj _ _ => objOk obj.toNat
  | .set obj _ => objOk obj.toNat
  | .audit _ _ entries => entries.length = 48
  | .auditFail _ _ entry => decide (entry < 48)
  | .resync _ _ _ free => free.length = 48
  | .dataFlit _ f => f.body.length = 244
  | .idleFlit _ f => f.body.length = 244
  | .lsdbUpdate _ rec _ => decide (rec.node < nodes) && decide (rec.port < 48)
  | .quorumSettle _ epochs => epochs.all (fun e => decide (e.1 < nodes))
  | .hostLinkTraining _ width => width = 1 || width = 2 || width = 4 || width = 8 || width = 16
  | .read _ m _ => msgOk m
  | .write _ m _ => msgOk m
  | .atomic _ m _ => msgOk m
  | .remoteSignal _ m => msgOk m
  | .response _ m => msgOk m
  | .retry _ m => msgOk m
  | .rate _ m => msgOk m
  | .batch _ _ _ msgs => !msgs.isEmpty && decide (msgs.length ≤ 512) && msgs.all msgOk
  | .bulkWrite _ m => msgOk m
  | .bulkRead _ m _ => msgOk m
  | .collectiveStart _ m => collOk m
  | .go _ m => collOk m
  | .lease _ m => collOk m
  | .leaseReply _ m => collOk m
  | .release _ m => collOk m
  | .grant _ m => collOk m
  | .data _ m => collOk m
  | .result _ m => collOk m
  | .abort _ m => collOk m
  | .attach _ resume _ => decide (resume ≤ chunks)
  | .chunkArrival _ k bytes => decide (k < chunks) && !bytes.isEmpty && decide (bytes.length ≤ chunkBytes)
  | .shardReadDone _ _ _ digest => digest.length = 64
  | .memberTotals _ t => decide (t.node < nodes)
  | .stateVector _ _ _ vec => decide (vec.length ≤ 2048)
  | .inferenceBatchClose _ rows _ => decide (rows ≤ 64)
  | .sensorReading r => r.tj.length = 7
  | .pause .. | .resume .. | .checkpoint .. | .stop .. | .batchWindow .. | .bootBundleSubmit | .stepBoundary ..
  | .g3Compat .. | .jadeMode .. | .nodeNumber .. | .portEnable .. | .arrayState .. | .coreState ..
  | .solverState .. | .engineState .. | .channelState .. | .recoveryTestDone .. | .stageSize .. | .dumpTrigger ..
  | .dumpComplete | .sleepRequest .. | .bootCommit .. | .bootCommitTimeout | .partitionEnable .. | .safeClear ..
  | .signingPolicy .. | .rollbackAdvance .. | .wdObject .. | .handshakeTimeout .. | .sessionTimeout .. | .msixRaise
  | .wload .. | .stream .. | .drain .. | .wloadComplete .. | .streamComplete .. | .drainComplete ..
  | .selftestDue .. | .selftestPass .. | .selftestPassEnd .. | .arrayDrainBound .. | .arrayDrainEnd .. | .vld ..
  | .vst .. | .mov .. | .bcast .. | .add .. | .sub .. | .mul .. | .fma .. | .min .. | .max .. | .abs .. | .neg ..
  | .and .. | .or .. | .xor .. | .shl .. | .shr .. | .rcp .. | .rsqrt .. | .sqrt .. | .exp2 .. | .log2 ..
  | .tanh .. | .sigmoid .. | .silu .. | .gelu .. | .cmp .. | .sel .. | .cmpp .. | .pfirst .. | .plogic .. | .cvt ..
  | .cvtb .. | .dcvb .. | .red .. | .xpose .. | .tperm .. | .cmpr .. | .expd .. | .rand .. | .veComplete ..
  | .veDrainBound .. | .rload .. | .rstore .. | .ratomic .. | .coll ..
  | .cverify .. | .channelAcquire .. | .cverifyComplete .. | .wait .. | .signal .. | .fence .. | .fenceComplete ..
  | .wake .. | .waitExpiry .. | .cancel .. | .descriptorStart .. | .solverAssemblyDone .. | .solverFactorDone ..
  | .solverIteration .. | .solverRefactDone .. | .solverDelivery .. | .deadline .. | .solverDrainBound ..
  | .solverDrainEnd .. | .serviceCopySubmit .. | .ceCopy .. | .convert .. | .fill .. | .copyComplete ..
  | .granuleTaken .. | .ceDrainBound .. | .regionFill .. | .scrubRead .. | .sramScrub .. | .bypassEnter ..
  | .bypassLeave .. | .remoteLineExpiry .. | .peerDetect .. | .laneTrainingDone .. | .trainingTimeout ..
  | .ident .. | .nak .. | .power .. | .flitSlot .. | .ackTimer .. | .auditDue .. | .retrain .. | .retrainTimeout ..
  | .portDrainTimeout .. | .routingRewrite | .refclkLoss .. | .perstN .. | .requestTimeout ..
  | .sequenceEntryExpiry .. | .coalesceWindow .. | .hotWindow .. | .rateInterval .. | .rateHold .. | .eaveWindow ..
  | .leaseIdle .. | .detach .. | .suspect .. | .waiting .. | .gapTimeout .. | .probe .. | .probeTimeout ..
  | .startTimeout .. | .ready .. | .run .. | .shardLoadStart .. | .checkpointBoundary .. | .checkpointWriteStep ..
  | .commitTimeout .. | .trainingTotals .. | .decisionExpiry .. | .evaluation .. | .forwardTransfer ..
  | .returnTransfer .. | .pgInHigh | .railUp | .inputOutOfRange .. | .powerDown .. | .pkgResetNAssert
  | .resetRelease .. | .stepDecision .. | .clusterPowerRamp | .bringupTestDone .. | .sleepEntryDone | .wakeDone ..
  | .lockstepMismatch .. | .pairRestartDone .. | .pairHeartbeat .. | .buristHeartbeat | .buristHeartbeatTimeout
  | .watchdogSample .. | .clockMonitor .. | .heartbeatSend | .heartbeat .. | .safeNotice .. | .memberSilence ..
  | .cpDrainBound .. | .channelDrainBound .. | .hostLinkDown | .loadPacingWindow .. | .tapInstruction .. => true

end Sys2Proof
end

