-- ==== Sys2Proof/Tests/Slice0.lean ====
section
/-! SUPPORT. Own checks: what the well-formedness predicate refuses, single steps on small states with results from the spec, and
for every statement with hypotheses a state and operands that meet them. -/

-- One proof after another: many kernel evaluations at once need more memory than the check allows.
set_option Elab.async false

namespace Sys2Proof.Tests

open Sys2Proof Sys2Proof.Machine

/-- The package after reset with another chip. -/
def at_ (c : Chip) : State := { chip := c }

/-- Dictionary words by index, subindex and value. -/
def words (l : List (Nat × Nat × Nat)) : SMap (BitVec 64) :=
  l.foldl (fun m e => SMap.insert m (Objects.key e.1 e.2.1) (BitVec.ofNat 64 e.2.2)) []

/-- The package with its reset held. -/
def held : State := { plat := { running := false } }

/-- A job of one core of role 1 and no resources beyond it, on the packages `ms`. -/
def jobOf (ms : List Nat) : Job :=
  { jobId := 7, members := ms, anchor := ms.headD 0, ownIndex := 0, roles := [(1, 1)], coupling := none, fields := [], exchange := []
    bind := [], tree := [], pacing := none, policy := none, spareMode := 0, spares := [], training := none, reproducible := false
    genMix := false, res := ⟨0, 0, [0, 0, 0, 0], 64, 64, 0, 0, 2, 0⟩, tensors := [], jobSeed := [], roleSeeds := [], digest := []
    signer := [], lower := ⟨[], 0, [], false, false⟩, comms := [], products := [], boundary := [], memberStates := []
    controller := none, forward := ⟨0, 0, 0, none⟩, ret := ⟨0, 0, 0, none⟩, batcher := ⟨0, 0, 0⟩ }

/-! ## Hypotheses of the statements -/

theorem witness_StepRunsFrontCommand :
    (let s : State := { pending := [.railUp, .pgInHigh] }; s.pending = [.railUp, .pgInHigh]) ∧ State.reset.pending = [] := by decide

theorem witness_ResetHoldsThePackage : held.plat.running = false ∧ pinRow (.hotWindow 0) = false := by decide

theorem witness_PowerStageInvariant :
    State.reset.plat.sound = true ∧ step State.reset = .next State.reset
    ∧ step { pending := [.railUp] } = .next {} := ⟨by decide, rfl, rfl⟩

theorem witness_PowerUpSequence :
    (let p : Plat := { rails := 0, running := false }; p.rails < 5 ∧ p.rising = false ∧ p.latched = false)
    ∧ (let p : Plat := { rails := 5 }; p.rails = 5 ∧ p.rails ≤ 5)
    ∧ (let p : Plat := { rails := 4, rising := true, running := false }; p.rising = true ∧ p.rails < 5)
    ∧ (let p : Plat := { rails := 0, running := false }; p.rising = false ∧ p.rails < 5) := by decide

theorem witness_PowerDownTrips :
    1 < State.reset.plat.rails ∧ FVal.lt (f32 (0x42100000 : U32).toNat) (FVal.ofInt 36) = false := by decide

theorem witness_PkgResetAndTestPort : State.reset.plat.rails = 5 ∧ ({ plat := { rails := 4 } } : State).plat.rails ≠ 5 := by decide

theorem witness_ResetReleaseSamplesStraps :
    held.plat.rails = 5 ∧ held.plat.running = false ∧ (⟨false, false, false, 1⟩ : Straps).bootSrc.val ≠ 0
    ∧ held.chip.flash.disabled = [] ∧ held.chip.flash.node < 65536 := by decide

/-- A refresh with every die at the same temperature. -/
def readings (tj : U16) : Readings := ⟨0x42700000, 0, 0, 0, List.replicate 7 tj, true⟩

theorem witness_SensorReadings :
    State.reset.plat.running = true ∧ (∀ i, i < 7 → Chip.tjOf (readings 1679).tj i < 1680)
    ∧ (readings 1679).overLimit20ms = true ∧ State.reset.chip.power.peak = false ∧ State.reset.chip.reg 0x2100 8 + 1 < 2 ^ 64
    ∧ State.reset.plat.rails = 5 ∧ 1680 ≤ Chip.tjOf (readings 1680).tj 0
    ∧ FVal.lt (f32 (readings 1680).vin.toNat) (FVal.ofInt 36) = false := by decide

theorem witness_ThrottlingAndRamps :
    Chip.inputBand (0x424C0000 : U32).toNat = true ∧ State.reset.chip.power.slateStep.length = 4
    ∧ (at_ { power := { ramps := [(3, true)] } }).chip.power.ramps = [(3, true)] := by decide

theorem witness_BringupSettlesBits :
    (let c : Chip := { regs := words [(0x2300, 4, 2), (0x2300, 1, 0x5FFFFF)] }
     c.reg 0x2300 4 = 2 ∧ c.reg 0x4010 1 = 0 ∧ c.reg 0x2300 1 = 0x5FFFFF ∧ c.reg 0x2300 2 = 0 ∧ c.safe = true ∧ c.reg 0x7000 3 = 0
       ∧ c.mon.refLost = false)
    ∧ (let c : Chip := { regs := words [(0x2300, 3, 1)] }
       c.reg 0x2300 4 = 0 ∧ c.reg 0x2300 3 % 4 ≠ 0 ∧ c.flash.image = []) := by decide

theorem witness_SleepAndWake :
    (let c : Chip := { regs := words [(0x2200, 2, 1), (0x2200, 1, 1)] }; c.reg 0x2200 2 = 1 ∧ c.reg 0x2200 1 = 1 ∧ c.cmds = [])
    ∧ (let s := at_ { regs := words [(0x2200, 2, 3)] }; s.calm = true ∧ s.chip.reg 0x2200 2 = 3) := by decide

theorem witness_LockstepPairs :
    State.reset.chip.mon.pairState = [1, 1] ∧ State.reset.chip.mon.pairMissed.getD 1 0 = 0
    ∧ (let c : Chip := { mon := { pairState := [2, 1] }, regs := words [(0x7000, 1, 1), (0x7000, 2, 0)] }
       c.mon.pairState = [2, 2].set 1 1 ∧ c.partition = true ∧ c.safe = false)
    ∧ (let m : Monitor := { pairState := [2, 1], pairFails := [2, 0] }
       m.pairState.length = 2 ∧ m.pairFails.length = 2 ∧ m.pairState.getD 0 0 = 2 ∧ m.pairFails.getD 0 0 = 2)
    ∧ (let m : Monitor := { pairMissed := [1, 0] }
       m.pairState = [1, 1] ∧ m.pairMissed.length = 2 ∧ m.pairMissed.getD 0 0 = 1) := by decide

/-- Slot 2 with a watchdog armed on object 64. -/
def watched (last : Option U64) : Chip :=
  { regs := words [(0x7000, 0x31, 64), (0x7000, 0x32, 1000)], jobs := [(2, some { jobOf [1, 2] with wdArmed := true, wdLast := last })] }

theorem witness_MonitorDetections :
    (let c : Chip := { regs := words [(0x7000, 1, 1), (0x7000, 2, 0), (0x7000, 5, 0xFFE)] }
     c.partition = true ∧ bit (c.reg 0x7000 5) 6 = true ∧ c.safe = false)
    ∧ ((watched (some 0)).job 2).map (fun x => (x.wdArmed, x.wdLast, x.members.contains 2)) = some (true, some 0, true)
    ∧ (watched none).reg 0x7000 (16 * 2 + 0x11) ≠ 0xFFFF ∧ (watched none).reg 0x7000 (16 * 2 + 0x12) ≠ 0
    ∧ ((watched none).obj (objOfRef ((watched none).reg 0x7000 (16 * 2 + 0x11)))).value = 0
    ∧ ((watched none).job 2).map (·.wdLast) = some none ∧ (2 : U16).toNat ≠ (watched none).node := by decide

/-- A safety-lane message to a package without a node number. -/
def safetyMsg (seq : U32) : SafetyMsg := ⟨1, 0xFFFF, 2, seq, 7⟩

theorem witness_SafetyMessages :
    (let c : Chip := { regs := words [(0x7000, 1, 1)] }; c.partition = true)
    ∧ (safetyMsg 1).dest.toNat = (watched none).node
    ∧ (SMap.get 0 (watched none).mon.rxSeq (safetyMsg 1).srcNode.toNat).toNat < (safetyMsg 1).seq.toNat
    ∧ (safetyMsg 0).seq.toNat ≤ (SMap.get 0 (watched none).mon.rxSeq (safetyMsg 0).srcNode.toNat).toNat
    ∧ ((watched none).sharedJob (safetyMsg 1).jobId (safetyMsg 1).srcNode.toNat).isSome = true := by decide

/-! ### Streams and arrays -/

/-- Node 1 with a job of core 0 in slot 0. -/
def core : Chip := { regs := words [(0x4001, 1, 1)], jobs := [(0, some (jobOf [1]))] }

/-- The global address of byte n of the local memory of core 0 on node 1. -/
def loc (n : Nat) : U64 := BitVec.ofNat 64 (2 ^ 48 + localBase + n)

/-- The tag of an entry of n × 16 bytes. -/
def tagFor (n : Byte) : EntryTag := ⟨1, n, 0, 0⟩

/-- One FP32 element in tile register 0, as an array command takes it. -/
def arrCmd : ArrayCmd :=
  { flags := 8, srcFormat := 2, opFormat := 2, rows := 1, cols := 1, accBase := 0, accCol := 0, rotSize := 0, outlierMax := 0
    reserved := 0, signalObj := 5, addr := 0, scaleAddr := 0, rowStride := 0, coarseIn := 0x3F800000, outlierThresh := 0
    colBase := 0, convAddr := 0, scaleStride := 0, reservedTail := 0 }

/-- A drain of that element, converted by the block at byte 32 of local memory, to byte 64. -/
def drainCmd : ArrayCmd := { arrCmd with flags := 0, opFormat := 0, addr := loc 64, convAddr := loc 32 }

/-- A wait of core 0 holds its CP stream. -/
def waitOp : SyncOp := { sflags := 0, obj := 0, node := 0xFFFF, fenceScope := 0, reserved := 0, operand := 1, expiry := 0, reservedTail := 0 }

/-- Core 0 with something in its streams and arrays. -/
def coreWith (l : SMap Stream) (m : SMap Arr) : Chip := { core with streams := l, arrays := m }

/-- An array command in flight. -/
def flight : ArrayRun := { signalObj := 5, index := 0, status := 0 }

/-- Core 0 with a conversion block into the unscaled format f at byte 32 of its local memory: SCALE 1, AMAX_EN, COARSE_IN 1. -/
def blockCore (f : Nat) : Chip :=
  { core with mem := SMap.setRange 0 [] (localBase + 32) (leBytes 4 (f + 0x8000) ++ leBytes 4 0x3F800000 ++ List.replicate 8 0
      ++ leBytes 4 0x3F800000 ++ List.replicate 12 0) }

theorem witness_EntriesWaitInOrder :
    (let s := at_ (coreWith [(3, { waiting := some waitOp })] [])
     Sys2Proof.Claims.entryOf (.wait 0 3 (tagFor 2) waitOp) = some (0, 3) ∧ s.plat.running = true ∧ s.chip.coreState 0 ≠ 2
       ∧ s.chip.streamHeld 0 3 = true) := by decide

theorem witness_WloadFillsShadow :
    (let s := at_ core
     Sys2Proof.Claims.ready s 0 0 = true ∧ s.chip.arrayState 0 0 = 1 ∧ Chip.tagOk (tagFor 4) 1 4 = true
       ∧ s.chip.checkWload 0 arrCmd = 0 ∧ s.chip.wloadReady 0 0 = true ∧ arrCmd.srcFormat = arrCmd.opFormat
       ∧ ArrayFlags.transpose arrCmd = false) := by decide

theorem witness_StreamAccumulates :
    (let s := at_ core
     let x := { arrCmd with flags := 9 }
     Sys2Proof.Claims.ready s 0 1 = true ∧ s.chip.arrayState 0 1 = 1 ∧ Chip.tagOk (tagFor 4) 1 4 = true
       ∧ s.chip.checkStream 0 1 x = 0 ∧ s.chip.streamReady 0 1 x = true ∧ classOf x.opFormat.toNat = some 3
       ∧ (s.chip.streamGeom (Chip.rowPlane (s.chip.array 0 1) x) x).2 ≤ 128 ∧ ArrayFlags.swap x = true
       ∧ (SMap.number 0 (accCells x 32 0))[31]? = some (31, (0, 31))) := by decide

theorem witness_DrainFrame :
    (let s := at_ core
     Sys2Proof.Claims.ready s 0 0 = true ∧ s.chip.arrayState 0 0 = 1 ∧ (s.chip.stream 0 0).claim = none
       ∧ s.chip.checkDrain 0 drainCmd false = 0 ∧ s.chip.drainReady 0 0 = true ∧ s.chip.poison = [] ∧ s.chip.engines = [])
    ∧ (let c := blockCore 2
       Sys2Proof.Claims.ready (at_ c) 0 0 = true ∧ c.arrayState 0 0 = 1 ∧ (c.stream 0 0).claim = none
       ∧ c.checkDrain 0 drainCmd false = 0 ∧ c.drainReady 0 0 = true ∧ c.poison = [] ∧ c.engines = []
       ∧ Sys2Proof.Claims.drainLegal c 0 drainCmd ∧ (c.readConv (addrOff drainCmd.convAddr.toNat)).fmt.block = 0
       ∧ drainCmd.rows = 1 ∧ ArrayFlags.tile drainCmd = false) := ⟨by decide, by unfold Sys2Proof.Claims.drainLegal; decide⟩

theorem witness_ArrayCompletions :
    (let s := at_ (coreWith [] [(0, { wload := some flight, streams := [flight], drain := some flight })])
     s.calm = true ∧ s.chip.coreState 0 = 1 ∧ s.chip.arrayState 0 0 = 1 ∧ (s.chip.array 0 0).wload = some flight
       ∧ (s.chip.array 0 0).streams = [flight] ∧ (s.chip.array 0 0).drain = some flight ∧ flight.status = 0 ∧ flight.conv = none
       ∧ (s.chip.stream 0 0).status = 0 ∧ s.chip.poison = [] ∧ s.chip.engines = [])
    ∧ (∀ e ∈ [0, Code.uncorrectable],
       let r : ArrayRun := { flight with signalObj := 64, status := e, conv := some (localBase + 32), amax := FVal.ofInt 3 }
       let c : Chip := { blockCore 2 with arrays := [(0, { drain := some r })], convUse := [localBase + 32] }
       (at_ c).calm = true ∧ c.coreState 0 = 1 ∧ (c.array 0 0).drain = some r ∧ c.poison = [] ∧ c.engines = []
         ∧ (c.readConv (localBase + 32)).amaxEn = true)
    ∧ (let r : ArrayRun := { flight with status := Code.uncorrectable }
       (at_ (coreWith [] [(0, { wload := some r, streams := [r] })])).calm = true) := by decide

theorem witness_ArraySelftest :
    (let c : Chip := { core with regs := words [(0x4001, 1, 1), (0x7000, 1, 1)] }
     c.partition = true ∧ c.arrayState 0 0 = 1 ∧ (c.array 0 0).due = false ∧ ({ c with arrays := [(0, { due := true })] }.array 0 0).due = true)
    ∧ (at_ (coreWith [] [(0, { due := true, wload := some flight })])).chip.arrayIdle 0 0 = false
    ∧ (let s := at_ (coreWith [(0, { held := [.railUp] })] [(0, { due := true, takeNext := true })])
       s.chip.arrayState 0 0 = 1 ∧ s.chip.arrayIdle 0 0 = true ∧ (s.chip.array 0 0).due = true ∧ (s.chip.array 0 0).takeNext = true)
    ∧ (let s := at_ (coreWith [] [(0, { due := true })])
       s.calm = true ∧ s.chip.coreState 0 = 1 ∧ s.chip.arrayState 0 0 = 1 ∧ s.chip.arrayIdle 0 0 = true ∧ (s.chip.array 0 0).due = true)
    ∧ (let s := at_ (coreWith [] [(0, { due := true })])
       s.chip.arrayState 0 0 = 1 ∧ s.chip.arrayIdle 0 0 = true ∧ (s.chip.array 0 0).due = true ∧ (s.chip.stream 0 0).held = [])
    ∧ (let s := at_ (coreWith [] [(0, { testing := some ({}, {}) })])
       s.calm = true ∧ s.chip.coreState 0 = 1 ∧ s.chip.arrayState 0 0 = 1 ∧ (s.chip.array 0 0).testing = some ({}, {}))
    ∧ Config.selftestSignature + 1 ≠ Config.selftestSignature :=
  ⟨by decide, by decide, by decide, by decide, by decide, by decide, by bv_omega⟩

theorem witness_ArrayDrains :
    (let c := { coreWith [] [(0, { wload := some flight })] with regs := words [(0x4001, 1, 1), (0x3300, 1, 2)] }
     (at_ c).calm = true ∧ c.coreState 0 = 1 ∧ c.arrayState 0 0 = 2 ∧ (c.array 0 0).wload.isSome = true ∧ (c.stream 0 0).status = 0)
    ∧ (let c : Chip := { core with regs := words [(0x4001, 1, 1), (0x3300, 1, 2)] }
       (at_ c).calm = true ∧ c.coreState 0 = 1 ∧ c.arrayState 0 0 = 2 ∧ c.arrayIdle 0 0 = true)
    ∧ (∀ v ∈ [0, 2], let c : Chip := { core with regs := words [(0x4001, 1, 1), (0x3300, 1, v)] }
       Sys2Proof.Claims.ready (at_ c) 0 0 = true ∧ (c.stream 0 0).claim = none ∧ (c.stream 0 0).status = 0 ∧ c.arrayState 0 0 = v) := by
  decide

/-! ### The vector engine -/

/-- An instruction over one group of FP32 elements in rows of 32. -/
def veInstr : VeInstr :=
  { elemFormat := 2, flags := 0, pred := 0, dst := 8, srcA := 0, srcB := 1, srcC := 2, group := 0, rowLog2 := 5, signalObj := 5
    aux := 0, limit := 2048, stride := 0, imm := 0, addr := 0, reserved := 0 }

/-- Forms that the rows differ in: integer elements, a load's address, a conversion's and a decoder's format. -/
def veInstrs : List VeInstr :=
  [veInstr, { veInstr with elemFormat := 7 }, { veInstr with addr := loc 64 }, { veInstr with aux := 2 },
   { veInstr with aux := 0x14, imm := 0x3F80000000000100 }]

/-- A conversion block into the block format 0x14 at byte 32 of the local memory of core 0. -/
def convCore : Chip :=
  { core with mem := SMap.setRange 0 [] (localBase + 32) (leBytes 4 0x14 ++ leBytes 4 0x3F800000 ++ List.replicate 8 0
      ++ leBytes 4 0x3F800000 ++ List.replicate 12 0) }

theorem witness_VeGroupResults :
    Sys2Proof.Claims.veOpen (at_ core) 0 (tagFor 3) = true
    ∧ ∀ f ∈ Sys2Proof.Claims.veForms, ∃ x ∈ veInstrs, f.check core 0 x = 0 := by decide

theorem witness_VePredicateResults :
    (let x := { veInstr with dst := 1, imm := 256 }
     core.veCheck 0 x { cls := .any, auxOk := x.aux = 0
                        extra := decide (0 < x.dst.toNat) && decide (x.dst.toNat < 16) && decide (x.imm.toNat ≤ 256) } = 0
     ∧ core.veCheck 0 x { cls := .any, auxOk := decide (x.aux.toNat < 4)
                          extra := decide (0 < x.dst.toNat) && decide (x.dst.toNat < 16) && decide (x.srcA.toNat < 16)
                            && decide (x.srcB.toNat < 16) } = 0
     ∧ core.veCheck 0 x { cls := .any, srcs := [maskRange x], auxOk := decide (x.aux.toNat < 2)
                          extra := decide (0 < x.dst.toNat) && decide (x.dst.toNat < 16) } = 0) := by decide

theorem witness_VeMemoryResults :
    core.poison = [] ∧ core.engines = []
    ∧ (let x := { veInstr with addr := loc 64 }
       Code.first (core.veCheck 0 x { cls := .move, srcs := [.grp x x.srcA], auxOk := x.aux = 0, usesStride := true, usesAddr := true })
         (core.checkOwn 0 x.addr.toNat (veSpan x)) = 0
       ∧ Code.first (core.veCheck 0 x { cls := .select, dst := some (if x.aux = 1 then .run x.dst (4 * veCount x) else .grp x x.dst)
                                        srcs := [.grp x x.srcA, maskRange x], auxOk := decide (x.aux.toNat < 2), usesAddr := true
                                        apart := true, extra := x.addr.toNat % 4 = 0 }) (core.checkOwn 0 x.addr.toNat 4) = 0
       ∧ Code.first (core.veCheck 0 x { cls := .select, dst := some (.grp x x.dst), srcs := [.grp x x.srcA, maskRange x]
                                        auxOk := x.aux = 0, usesAddr := true, apart := true, extra := x.addr.toNat % 4 = 0 })
           (core.checkOwn 0 x.addr.toNat 4) = 0)
    ∧ (let x := veInstr
       let wa := veWidth (Chip.redFormat x.elemFormat.toNat)
       let n := if VeField.axis x then VeField.cols x else veCount x / VeField.cols x
       core.veCheck 0 x { cls := .reduce, dst := some (.run x.dst (n * wa)), srcs := [.grp x x.srcA]
                          auxOk := decide (x.aux.toNat < 4), apart := true } = 0) := by decide

theorem witness_VeBlockConversion :
    (let x := { veInstr with addr := loc 32, imm := loc 128 }
     Sys2Proof.Claims.veOpen (at_ convCore) 0 (tagFor 3) = true ∧ convCore.poison = [] ∧ convCore.engines = []
       ∧ (convCore.stream 0 2).claim = none ∧ convCore.checkCvtb 0 x false = 0)
    ∧ (let c := blockCore 0x2020
       let x := { veInstr with addr := loc 32, imm := loc 128 }
       let cv := c.readConv (localBase + 32)
       Sys2Proof.Claims.veOpen (at_ c) 0 (tagFor 3) = true ∧ c.poison = [] ∧ c.engines = [] ∧ (c.stream 0 2).claim = none
       ∧ c.checkCvtb 0 x false = 0 ∧ cv.fmt.hasCoarse = true ∧ cv.coarseMode = 1
       ∧ addrOff x.addr.toNat + 20 ≤ addrOff x.imm.toNat) := by decide

theorem witness_VeRefusals :
    (core.stream 0 2).held = [] ∧ (core.stream 0 2).claim = none ∧ core.streamHeld 0 2 = false ∧ (core.stream 0 2).status = 0
    ∧ core.coreState 0 = 1 ∧ Chip.tagOk (tagFor 2) 1 3 = false
    ∧ ({ core with regs := words [(0x3100, 1, 0)] } : Chip).coreState 0 = 0 := by decide

/-- A VE instruction in flight. -/
def veFlight : VeRun := { signalObj := 5, index := 0, status := 0 }

theorem witness_VeCompletions :
    (let c : Chip := { core with ves := [(0, [veFlight])] }
     (at_ c).calm = true ∧ c.coreState 0 ≠ 2 ∧ c.ve 0 = [veFlight] ∧ veFlight.status = 0 ∧ veFlight.conv = none ∧ c.poison = []
       ∧ c.engines = [])
    ∧ (∀ e ∈ [0, Code.uncorrectable],
       let r : VeRun := { veFlight with signalObj := 64, status := e, conv := some (localBase + 32), amax := FVal.ofInt 3 }
       let c : Chip := { blockCore 0x2020 with ves := [(0, [r])], convUse := [localBase + 32] }
       (at_ c).calm = true ∧ c.coreState 0 ≠ 2 ∧ c.ve 0 = [r] ∧ c.poison = [] ∧ c.engines = []
         ∧ (c.readConv (localBase + 32)).amaxEn = true ∧ (c.readConv (localBase + 32)).coarseMode = 1)
    ∧ (let c : Chip := { core with ves := [(0, [veFlight])], regs := words [(0x3100, 1, 2)] }
       (at_ c).calm = true ∧ c.coreState 0 = 2 ∧ c.ve 0 = [veFlight] ∧ (c.stream 0 2).status = 0) := by decide

/-! ### Synchronisation -/

/-- A WAIT with expiry, a SIGNAL of 1 to the own node and a FENCE of the core. -/
def waitExp : SyncOp := { waitOp with sflags := 1, expiry := 100 }
def signalOp : SyncOp := { waitOp with node := 1 }
def fenceOp : SyncOp := { waitOp with fenceScope := 1, operand := 0 }

/-- A signal of n to object 0 from the CP stream of core 0, and the registration of a wait of that stream. -/
def signalOf (n : U64) : Posted := { obj := 0, amount := n, unit := BitVec.ofNat 32 (core.streamUnit 0 3), entry := none }
def waits (x : SyncOp) : Registration := Sys2Proof.Claims.registration core 0 3 x

/-- Core 0 waiting in its CP stream, object 0 with a value and the watches `l`. -/
def waiting (x : SyncOp) (v : U64) (l : List Watch) : Chip :=
  { core with streams := [(3, { waiting := some x })], objs := [(0, { value := v, owner := 0, watches := l })] }

theorem witness_SyncEntriesIssue :
    Sys2Proof.Claims.ready (at_ core) 0 3 = true ∧ Chip.tagOk ⟨2, 2, 0, 0⟩ 2 2 = true ∧ syncOk 1 waitOp = true
    ∧ syncOk 1 waitExp = true ∧ syncOk 2 signalOp = true ∧ signalOp.node.toNat = core.node ∧ syncOk 3 fenceOp = true
    ∧ fenceOp.fenceScope.toNat ≠ 3 ∧ core.fab.undelivered = [] ∧ (∀ o : Fin 64, core.stepHeld (core.slotOfCore 0) o = false)
    ∧ syncOk 3 { fenceOp with fenceScope := 3 } = true ∧ ∀ r < 2, (core.ridge r).batches = [] := by decide

/-- A SIGNAL of core 0 to node 2, to which a live link leads. -/
def signalAway : SyncOp := { waitOp with node := 2 }
def linkedCore : Chip :=
  { core with regs := words [(0x4001, 1, 1), (0x4100, 2, 3), (0x4100, 7, 2)], fab := { core.fab with lsdb := [⟨1, 0, 3, 2, 4, 7, false, 0, 1⟩, ⟨2, 0, 3, 1, 4, 7, false, 0, 1⟩] } }

theorem witness_SyncEntriesIssue_remote :
    (let c := linkedCore
     Sys2Proof.Claims.ready (at_ c) 0 3 = true ∧ syncOk 2 signalAway = true ∧ signalAway.node ≠ 0xFFFF ∧ signalAway.node.toNat ≠ c.node
       ∧ c.signalCode 0 2 = 0 ∧ c.remoteRoom (c.streamUnit 0 3) 2 = true ∧ c.streamQuiet 0 3 = true ∧ c.usesEave 2 = false
       ∧ c.fab.undelivered = []) := by decide

theorem core_enabled (c : CoreId) : core.coreState c ≠ 2 := by
  have h : ∀ (q : Fin 4) (r : Fin 64), core.reg (0x3100 + q.val) (r.val + 1) ≠ 2 := by decide
  exact h ⟨c.val / 64, by omega⟩ ⟨c.val % 64, by omega⟩

theorem witness_SignalAddApplies :
    (let c : Chip := { waiting waitOp 0 [] with posted := [signalOf 1] }
     (at_ c).calm = true ∧ c.posted = [signalOf 1] ∧ (signalOf 1).obj = objOfRef (0 : U16).toNat ∧ (signalOf 1).entry = none
       ∧ (signalOf 1).slot = 0xFF ∧ (signalOf 1).after = []
       ∧ c.stalledBy (signalOf 1).unit.toNat = false ∧ c.mayUse (signalOf 1).unit.toNat 0 = true
       ∧ (c.obj 0).value.toNat + (signalOf 1).amount.toNat < 2 ^ 64)
    ∧ (let c : Chip := { waiting waitOp (BitVec.allOnes 64) [] with posted := [signalOf 1] }
       (at_ c).calm = true ∧ c.mayUse (signalOf 1).unit.toNat 0 = true
         ∧ 2 ^ 64 ≤ (c.obj 0).value.toNat + (signalOf 1).amount.toNat)
    ∧ ∀ c : CoreId, (waiting waitOp 0 []).coreState c ≠ 2 :=
  ⟨by decide, by decide, core_enabled⟩

theorem witness_WatchesAndWakes :
    (let c := { waiting waitOp 1 [] with registrations := [waits waitOp] }
     (at_ c).calm = true ∧ c.coreState 0 ≠ 2 ∧ (waits waitOp).waiter = .stream 0 3 ∧ (waits waitOp).obj = objOfRef (0 : U16).toNat
       ∧ c.mayUse (waits waitOp).unit.toNat 0 = true ∧ (waits waitOp).target.toNat ≤ (c.obj 0).value.toNat
       ∧ ((waiting waitOp 0 []).obj 0).value.toNat < (waits waitOp).target.toNat)
    ∧ (let c := { waiting waitOp 1 [] with wakes := [waits waitOp] }
       (at_ c).calm = true ∧ c.wakes = [waits waitOp] ∧ (c.stream 0 3).waiting = some waitOp)
    ∧ (let c := waiting waitExp 0 []
       (c.stream 0 3).waiting = some waitExp ∧ expiryEn waitExp = true ∧ c.jobState (c.slotOfCore 0) ≠ 5 ∧ waits waitExp ∉ c.cancels)
    ∧ (let c := { waiting waitExp 0 [⟨.stream 0 3, BitVec.ofNat 32 (core.streamUnit 0 3), 1, 1, 100⟩] with cancels := [waits waitExp] }
       (at_ c).calm = true ∧ c.cancels = [waits waitExp] ∧ c.registrations = [] ∧ (c.stream 0 3).status = 0
         ∧ (c.obj 0).watches.any (fun w => w.waiter = .stream 0 3 && w.target = waitExp.operand) = true
         ∧ expiryGoesOn waitExp = false ∧ expiryGoesOn { waitExp with sflags := 3 } = true)
    ∧ ((waiting waitExp 0 []).obj (objOfRef waitExp.obj.toNat)).watches = [] := by decide

theorem witness_FenceAndSet :
    (let c : Chip := { core with streams := [(3, { fencing := some 1 })] }
     (at_ c).calm = true ∧ c.coreState 0 ≠ 2 ∧ (c.stream 0 3).fencing = some 1 ∧ c.fenceDone 0 3 1 = true
       ∧ { core with streams := [(3, { fencing := some 3 })] : Chip }.fenceDone 0 3 3 = true)
    ∧ (core.obj 0).watches = [] ∧ core.jobBusy (core.obj 0).owner.toNat = false
    ∧ ((waiting waitOp 0 [⟨.burist, 0, 1, 0, 0⟩]).obj 0).watches ≠ []
    ∧ (let c := { waiting waitOp 0 [] with streams := [(3, { fencing := some 1 })] }; c.jobBusy (c.obj 0).owner.toNat = true) := by
  decide

/-! ### The CP stream and the solver units -/

/-- Core 0 with a region of HBM and a link to node 25, of another group, whose package has a gateway; its job may use
remote operations beyond the group. -/
def linked : Chip :=
  { core with
    regs := words [(0x4001, 1, 1), (0x5100, 1, 0), (0x5100, 2, 1048576)]
    jobs := [(0, some { jobOf [1] with res := { (jobOf [1]).res with features := 0x20 } })]
    fab := { lsdb := [⟨1, 0, 3, 25, 4, 7, false, 1, 1⟩, ⟨25, 0, 3, 1, 4, 7, false, 2, 1⟩] } }

/-- An address of HBM of class 01 on node 1, and one of class 00 on node 25. -/
def hbm (n : Nat) : Nat := 2 ^ 62 + 2 ^ 48 + n
def far (n : Nat) : U64 := BitVec.ofNat 64 (25 * 2 ^ 48 + n)

/-- A PREFETCH descriptor of slot 2: 64-byte rows, one of them, 4,096 bytes ahead. -/
def prefetchDesc (rows : Nat) : List Byte :=
  [2, 1, 0, 0] ++ leBytes 4 64 ++ leBytes 8 (hbm 0) ++ leBytes 4 rows ++ leBytes 4 4096 ++ leBytes 8 64

/-- A CP entry with its descriptor at byte 0 of the core's local memory. -/
def cpEntry (op : Byte) : CpEntry := { opcode := op, target := 0, reserved := 0, descAddr := loc 0 }

theorem witness_PrefetchArms :
    (let ok (r : Nat) : Bool :=
       let s := at_ (linked.storeRaw localBase (prefetchDesc r)).2
       let b := s.chip.readMem (addrOff (cpEntry 0x12).descAddr.toNat) 32
       Sys2Proof.Claims.ready s 0 3 && Chip.tagOk (tagFor 1) 1 1 && s.chip.checkDesc 0 (cpEntry 0x12).descAddr.toNat 32 32 = 0
         && s.chip.poison.isEmpty && b = prefetchDesc r && addrClass (field b 8 8) = 1
         && s.chip.checkRange (s.chip.slotOfCore 0) (hbm 0) (if r = 1 then 64 else (r - 1) * 64 + 64) true = 0
     ok 1 = true ∧ ok 3 = true) := by decide

/-- A remote command on 8 bytes of node 25. -/
def remoteCmd : RemoteCmd :=
  { rflags := 0, aop := 0, atype := 0, size := 8, remote := far 64, local_ := loc 0, operand := 1, operand2 := 0, signalObj := 5
    reserved := 0 }

/-- The cluster of core 0 caches the line of that command. -/

def linkedLine : Chip := { linked with fab := { linked.fab with lines := [(0, (far 64).toNat, List.replicate 64 7)] } }

theorem witness_RemoteCommandsIssue :
    (let s := at_ linked
     let a := { remoteCmd with aop := 1, atype := 1, rflags := 1, size := 0 }
     Sys2Proof.Claims.ready s 0 3 = true ∧ Chip.tagOk (tagFor 4) 1 4 = true
       ∧ s.chip.remoteRoom (s.chip.streamUnit 0 3) (addrNode remoteCmd.remote.toNat) = true
       ∧ Sys2Proof.Claims.sendable s.chip.fresh (addrNode remoteCmd.remote.toNat) = true ∧ s.chip.fab.rates = []
       ∧ s.chip.poison = [] ∧ s.chip.fab.undelivered = [] ∧ s.chip.remoteCode 0x20 0 remoteCmd = 0
       ∧ s.chip.cachedBytes 0 remoteCmd.remote.toNat remoteCmd.size.toNat = none
       ∧ s.chip.remoteCode 0x21 0 remoteCmd = 0 ∧ s.chip.remoteCode 0x22 0 a = 0)
    ∧ linkedLine.cachedBytes 0 remoteCmd.remote.toNat 8 = some (List.replicate 8 7) ∧ linkedLine.remoteCode 0x20 0 remoteCmd = 0
    ∧ linkedLine.engines = [] := by decide

/-- A 1 × 1 system that solver 0 solves: dense, one right-hand side, one block, X and the record in local memory. -/
def solveDesc : SolveDesc :=
  { version := 2, structure_ := 1, gang := 1, flags := 0, n := 1, paramA := 0, paramB := 0, nrhs := 1, fillPolicy := 0
    shift := 0, blockLen := 1, deadline := 0, maxIter := 0, tauExp := 0, refactCore := 0xFF, reserved1 := 0, startObj := 0xFFFF
    signalObj := 0xFFFF, startValue := 0, reserved2 := 0, rtol := 0x3E00000000000000, accept := 0x3F00000000000000
    program := 2 ^ 48 + localBase + 512, xAddr := 2 ^ 48 + localBase + 256, prevAddr := 0, fillAddr := 0
    completion := 2 ^ 48 + localBase + 320, refactAddr := 0, seq := 9, reserved3 := 0 }

/-- The 128 bytes of that descriptor. -/
def solveBytes : List Byte :=
  [2, 1, 1, 0] ++ leBytes 4 1 ++ leBytes 4 0 ++ [1, 0] ++ leBytes 2 0 ++ leBytes 4 1 ++ leBytes 4 0 ++ [0, 0, 0xFF, 0]
    ++ leBytes 2 0xFFFF ++ leBytes 2 0xFFFF ++ leBytes 8 0 ++ leBytes 8 solveDesc.rtol ++ leBytes 8 solveDesc.accept
    ++ leBytes 8 solveDesc.program ++ leBytes 8 solveDesc.xAddr ++ leBytes 16 0 ++ leBytes 8 solveDesc.completion
    ++ leBytes 8 0 ++ leBytes 8 9 ++ leBytes 16 0

/-- A FILL of one FP32 element, and its 128 bytes. -/
def fillDesc : CopyDesc :=
  { opcode := 3, cflags := 0, srcFormat := 1, dstFormat := 1, rows := 1, cols := 1, signalObj := 0xFFFF, arrivalObj := 0xFFFF
    src := 7, dst := loc 1024, srcRowStride := 0, dstRowStride := 64, srcScale := 0, dstScale := 0, convAddr := 0, arrivalAdd := 0
    cvc := 0xFFFF, reserved := 0, srcCoarse := 0x3F800000, reservedMid := 0, alive := 0, seq := 4, completionAddr := 0
    reservedTail := 0 }
def fillBytes : List Byte :=
  [3, 0, 1, 1] ++ leBytes 4 1 ++ leBytes 4 1 ++ leBytes 4 0xFFFFFFFF ++ leBytes 8 7 ++ leBytes 8 fillDesc.dst.toNat ++ leBytes 8 0
    ++ leBytes 8 64 ++ leBytes 24 0 ++ leBytes 4 0 ++ leBytes 4 0xFFFF ++ leBytes 4 0x3F800000 ++ leBytes 4 0 ++ leBytes 8 0
    ++ leBytes 8 4 ++ leBytes 24 0

/-- The job of core 0 with solver 0, engine 0, channels 0 and 1, and communicator 1 of nodes 0 and 1. -/
def unitJob : Job :=
  { jobOf [1] with
    res := { (jobOf [1]).res with solvers := 1, channels := 3, engines := 1 }
    comms := [⟨1, [0, 1], 0, 0⟩] }
def unitCore (bs : List Byte) : Chip := (Chip.storeRaw { core with jobs := [(0, some unitJob)] } localBase bs).2

/-- A BARRIER on communicator 1. -/
def barrier : CollCmd :=
  { ctype := 5, rop := 0, dtype := 0, comm := 1, reserved := 0, signalObj := 0xFFFF, count := 0, src := 0, dst := 0, arrivalObj := 0xFFFF
    root := 0, reservedMid := 0, completionAddr := 0, tag := 0, reservedTail := 0 }
def collNo (k : Nat) : CollRun := { jobId := 7, slot := 0, comm := 1, seq := k, cmd := barrier, core := 0, index := 0 }
def linkZero : List LinkRecord := [⟨1, 0, 3, 0, 4, 7, false, 1, 1⟩]

/-- A descriptor in front of solver 0 in some phase, and one of a copy engine, of Burist. -/
def run (p : SolvePhase) : SolveRun := { desc := solveDesc, slot := 0, core := 0, lead := 0, ticket := 1, phase := p }
def solving (r : SolveRun) : State := at_ { unitCore [] with solvers := [(0, [r])] }
def copyRun (d : CopyDesc) : CopyRun := { desc := d, slot := 0xFF, from_ := none, step := 0, ordinal := 0 }

theorem witness_CpEntriesHandOn :
    (let s := at_ (unitCore solveBytes)
     Sys2Proof.Claims.ready s 0 3 = true ∧ Chip.tagOk (tagFor 1) 1 1 = true
       ∧ s.chip.checkDesc 0 (cpEntry 0x10).descAddr.toNat 128 128 = 0 ∧ s.chip.poison = [] ∧ (s.chip.solver 0).length < 8
       ∧ SolveDesc.ofBytes (s.chip.readMem (addrOff (cpEntry 0x10).descAddr.toNat) 128) = solveDesc
       ∧ s.chip.fresh.acceptCode solveDesc 0 (s.chip.slotOfCore 0) = 0)
    ∧ (let s := at_ (unitCore fillBytes)
       Sys2Proof.Claims.ready s 0 3 = true ∧ s.chip.checkDesc 0 (cpEntry 0x11).descAddr.toNat 128 128 = 0 ∧ s.chip.poison = []
         ∧ (cpEntry 0x11).target.toNat < ((s.chip.job (s.chip.slotOfCore 0)).map (fun j => j.res.engines)).getD 0
         ∧ CopyField.ofBytes (s.chip.readMem (addrOff (cpEntry 0x11).descAddr.toNat) 128) = fillDesc
         ∧ (s.chip.engine 0).job.length < 16 ∧ s.chip.copyCode 0 (s.chip.slotOfCore 0) false fillDesc = 0)
    ∧ (let c := { unitCore solveBytes with solvers := [(0, List.replicate 8 (run .queued))]
                                           engines := [(0, { job := List.replicate 16 (copyRun fillDesc) })] }
       Sys2Proof.Claims.ready (at_ c) 0 3 = true ∧ c.checkDesc 0 (cpEntry 0x10).descAddr.toNat 128 128 = 0
         ∧ 8 ≤ (c.solver 0).length ∧ 16 ≤ (c.engine 0).job.length)
    ∧ (let c := { unitCore [] with regs := words [(0x4001, 1, 1)], fab := { lsdb := linkZero, colls := (List.range 4).map collNo } }
       c.collCode 0 (some ⟨1, [0, 1], 0, 0⟩) barrier = 0
         ∧ 4 ≤ (c.fab.colls.filter (fun r => r.jobId = unitJob.jobId && r.comm = barrier.comm.toNat)).length)
    ∧ (let c := { unitCore [] with jobs := [(0, some { unitJob with comms := [⟨1, [1, 0], 0, 0⟩] })], regs := words [(0x4001, 1, 1)], fab := { lsdb := linkZero } }
       c.collCode 0 (some ⟨1, [1, 0], 0, 0⟩) barrier = 0 ∧ c.fab.starts = [] ∧ (0 ∈ [1, 0] ∧ 0 ≠ c.node))
    ∧ (let c := { unitCore [] with regs := words [(0x4001, 1, 1)], fab := { lsdb := linkZero } }
       let s := at_ c
       Sys2Proof.Claims.ready s 0 3 = true ∧ Chip.tagOk (tagFor 4) 1 4 = true ∧ c.job (c.slotOfCore 0) = some unitJob
         ∧ unitJob.comms.find? (fun m => m.comm = barrier.comm.toNat) = some ⟨1, [0, 1], 0, 0⟩
         ∧ c.collCode 0 (some ⟨1, [0, 1], 0, 0⟩) barrier = 0 ∧ c.fab.colls = [] ∧ c.fab.inbox = [] ∧ c.node = 1) := by decide +kernel

/-- A verification of 8 bytes by channel 0 against the record in channel 1. -/
def cverifyCmd : CverifyCmd :=
  { reserved := 0, channel := 0, recChannel := 1, signalObj := 5, expectedAlive := 3, dataAddr := loc 0, dataBytes := 8
    scaleAddr := 0, scaleBytes := 0, verdictAddr := loc 64, reservedTail := 0 }
def withChan (x : Option CheckRec) (l : SMap Chan) : Chip :=
  { unitCore [] with channels := l, streams := [(3, { verify := some (cverifyCmd, 4, x) })] }

theorem witness_Verification :
    (let s := at_ (unitCore [])
     Sys2Proof.Claims.ready s 0 3 = true ∧ Chip.tagOk (tagFor 4) 1 4 = true ∧ s.chip.verifyCode 0 cverifyCmd = 0
       ∧ s.chip.channelState 0 = 1 ∧ (s.chip.chan 0).busy = none ∧ (s.chip.chan 0).waiting = [])
    ∧ (let s := at_ { unitCore [] with channels := [(0, { busy := some (.verify 1) })] }
       s.chip.verifyCode 0 cverifyCmd = 0 ∧ (s.chip.chan 0).busy ≠ none)
    ∧ (let s := at_ (withChan none [(0, { waiting := [.verify 0] })])
       s.calm = true ∧ (s.chip.chan 0).busy = none ∧ s.chip.channelState 0 = 1 ∧ (s.chip.chan 0).waiting = [.verify 0]
         ∧ (s.chip.stream 0 3).verify = some (cverifyCmd, 4, none))
    ∧ (let s := at_ { unitCore [] with channels := [(0, { waiting := [.copy 0 .service] })]
                                       engines := [(0, { service := [copyRun { fillDesc with cvc := 0 }] })] }
       s.calm = true ∧ (s.chip.chan 0).busy = none ∧ s.chip.channelState 0 = 1 ∧ (s.chip.chan 0).waiting = [.copy 0 .service]
         ∧ s.chip.copyFront 0 .service = some (copyRun { fillDesc with cvc := 0 }))
    ∧ (let s := at_ (withChan (some { valid := true, alive := 3, length := 8 }) [(0, { busy := some (.verify 0) })])
       s.calm = true ∧ (s.chip.chan 0).busy = some (.verify 0) ∧ s.chip.channelState 0 = 1
         ∧ s.chip.verdictOk 0 cverifyCmd = true ∧ s.chip.poison = [] ∧ s.chip.engines = []) := by decide


/-- The matrix and right-hand side 1. -/
def one : SMap U64 := [(0, 0x3FF0000000000000)]

/-- An assembly program of END. -/
def ended : Chip := ((unitCore []).storeRaw (localBase + 512) [0x0F]).2

theorem witness_SolverPhases :
    (let s := solving (run .queued)
     s.calm = true ∧ Sys2Proof.Claims.front s.chip 0 (run .queued) [] ∧ s.chip.headsAll (run .queued) = true)
    ∧ (match Solve.assemble solveDesc (Chip.solveReader { ended with solvers := [(0, [run .queued])] } 0) with
         | .ok _ => true
         | .error _ => false) = true
    ∧ (Solve.allFinite one && Solve.allFinite one) = true
    ∧ (Solve.allFinite [(0, 0x7FF0000000000000)] && Solve.allFinite one) = false
    ∧ (Solve.factor solveDesc fp32 one).overflow = false
    ∧ (Solve.factor { solveDesc with n := 2 } fp32 
        [(0, 0x47E8000000000000), (1, 0x47E8000000000000), (2, 0xC7E8000000000000), (3, 0x47E8000000000000)]).overflow = true
    ∧ (∀ p ∈ [SolvePhase.assembly, .factor, .refine, .refact, .deliver],
       (solving (run p)).calm = true ∧ Sys2Proof.Claims.front (solving (run p)).chip 0 (run p) [])
    ∧ (∀ w ∈ [WindowObs.clean, .corrected 0, .uncorrectable 3], Chip.lostWindow (run .assembly) w = none) := by
  unfold Sys2Proof.Claims.front; decide +kernel

/-- The backward error of an iterate of the system 1 x = 1. -/
def omegaOf (x : Int) : FVal :=
  let r := { run .refine with a := one, b := one }
  Solve.omega (Solve.normInf r.desc r.a) ((SMap.number 0 (Chip.rhsCols r)).map (fun e =>
    Solve.residual r.desc r.a e.2 ([[FVal.ofInt x]].getD e.1 []))) [[FVal.ofInt x]] (Chip.rhsCols r)

theorem witness_SolverPhases_iterations :
    FVal.le (omegaOf 1) (f64 solveDesc.rtol) = true ∧ FVal.le (omegaOf 2) (f64 solveDesc.rtol) = false
    ∧ (run .refine).iter ≠ solveDesc.iterLimit ∧ (run .refine).lastOmega = none
    ∧ FVal.lt (FVal.mul FVal.zero (FVal.pow2 (-1))) (omegaOf 2) = true
    ∧ ({ run .refine with lastOmega := some FVal.zero, iter := 1 } : SolveRun).iter = 1
    ∧ ({ run .refine with iter := 8 } : SolveRun).iter = solveDesc.iterLimit
    ∧ ({ run .factor with rescaled := true } : SolveRun).rescaled = true := by decide +kernel

theorem witness_SolverDelivers :
    (let o : SolveOutcome := ⟨0, 0, 1, 0, [0x3FF0000000000000]⟩
     let r := { run .deliver with outcome := some o }
     (solving r).calm = true ∧ Sys2Proof.Claims.front (solving r).chip 0 r [] ∧ r.desc.paired = false ∧ r.desc.gang ≤ 1
       ∧ o.delivery ≠ 3 ∧ addrOff r.desc.xAddr + 8 * o.x.length ≤ addrOff r.desc.completion)
    ∧ (let r := { run .ready with desc := { solveDesc with deadline := 5 } }
       (solving r).calm = true ∧ Sys2Proof.Claims.front (solving r).chip 0 r []
         ∧ (solving r).chip.readSubstitute r.desc = some [0])
    ∧ (∀ p ∈ [SolvePhase.queued, .waiting],
       let r := { run p with desc := { solveDesc with deadline := 5 } }
       (solving r).calm = true ∧ Sys2Proof.Claims.front (solving r).chip 0 r []
         ∧ (solving r).chip.readSubstitute r.desc = some [0] ∧ r.desc.seq < 2 ^ 64
         ∧ addrOff r.desc.xAddr + 8 ≤ addrOff r.desc.completion ∧ r.desc.paired = false)
    ∧ (let o : SolveOutcome := ⟨0, 0, 1, 0, [0x3FF0000000000000]⟩
       let r := { run .deliver with desc := { solveDesc with flags := 4 }, outcome := some o }
       let s := at_ { unitCore [] with solvers := [(0, [r]), (1, [{ r with phase := .queued }])] }
       s.calm = true ∧ Sys2Proof.Claims.front s.chip 0 r [] ∧ r.desc.paired = true ∧ r.desc.deadline = 0
         ∧ Chip.lostWindow r .clean = none ∧ (1 ∈ solveUnits r.desc 0) ∧ s.chip.poison = [] ∧ s.chip.engines = [])
    ∧ (let r := { run .deliver with outcome := some ⟨Code.outOfRange, 3, 0, 0, []⟩ }
       Sys2Proof.Claims.front (solving r).chip 0 r [])
    ∧ (let i : Iterate := ⟨1, FVal.zero, [[FVal.ofInt 1]]⟩
       let r := { run .refine with desc := { solveDesc with deadline := 5 }, current := some i }
       (solving r).calm = true ∧ Sys2Proof.Claims.front (solving r).chip 0 r []
         ∧ FVal.le i.omega (f64 r.desc.accept) = true ∧ (Chip.deliveredX r i.cols).length = 1) := by
  unfold Sys2Proof.Claims.front; decide

/-- A message of a request in flight. -/
def msg0 : Msg :=
  { mtype := 1, mflags := 0, aop := 0, dest := 2, srcNode := 1, address := far 64, jobId := 7, length := 8, age := 0, atype := 0
    operand := 0, operand2 := 0, parts := [], data := [] }

theorem witness_UnitDrainsEnd :
    (let s := at_ { unitCore [] with regs := words [(0x4001, 1, 1), (0x3200, 1, 2)], solvers := [(0, [run .refine])] }
     s.calm = true ∧ s.chip.solverState 0 = 2 ∧ s.chip.solver 0 = [run .refine])
    ∧ (let s := at_ { core with regs := words [(0x4001, 1, 1), (0x3200, 1, 2)] }; s.chip.solverState 0 = 2 ∧ s.chip.solver 0 = [])
    ∧ (let r := copyRun { fillDesc with opcode := 1 }
       let s := at_ { core with regs := words [(0x4001, 1, 1), (0x5200, 1, 2)], engines := [(0, { job := [r] })] }
       s.calm = true ∧ s.chip.engineState 0 = 2 ∧ (s.chip.engine 0).job = [r] ∧ (s.chip.engine 0).service = [])
    ∧ (let r : CheckRec := { valid := true }
       let s := at_ { withChan (some r) [(0, { busy := some (.verify 0) })] with regs := words [(0x4001, 1, 1), (0x7100, 1, 2)] }
       s.calm = true ∧ s.chip.channelState 0 = 2 ∧ (s.chip.chan 0).busy = some (.verify 0) ∧ (s.chip.stream 0 3).status = 0)
    ∧ (let q : Request := { unit := mkUnit 1 1 3, dest := 2, flow := 0, epoch := 0, seq := 0, msg := msg0, owner := .command 0 4 5 0, fill := false }
       let s := at_ { core with regs := words [(0x4001, 1, 1), (0x3100, 1, 2)]
                                fab := { core.fab with requests := [q, { q with seq := 1, owner := .signal 0 3 5 }] } }
       s.calm = true ∧ s.chip.coreState 0 = 2 ∧ s.chip.requestsOf (s.chip.streamUnit 0 3) = s.chip.fab.requests
         ∧ s.chip.fab.requests ≠ []) := by
  decide

/-! ### Links -/

/-- Node 1 with a port 0 in state `st`: enabled, all lanes allowed, width 4. -/
def portCore (st : Nat) (x : Port) : Chip :=
  { regs := words [(0x4001, 1, 1), (0x4100, 1, 1), (0x4100, 2, st), (0x4100, 3, 4), (0x4100, 5, 15)], fab := { ports := [(0, x)] } }

/-- A header of a control flit number 0 without acknowledgement and credits, and one of a data flit. -/
def hdr (t : Fin 4) (n : Fin 4096) : FlitHdr :=
  { vl := 0, hop := 0, ftype := t, msgStart := true, msgEnd := false, fseq := n, ackSeq := 0, ackValid := false, credVl := 7
    credHop := 0, credCount := 0, reserved := 0 }

/-- A flit with its check value. -/
def flitOf (h : FlitHdr) : Flit := ⟨h, List.replicate 244 0, BitVec.ofNat 32 (flitCrc h (List.replicate 244 0))⟩

theorem witness_LinkTraining :
    (let s := at_ (portCore 1 {}); s.plat.running = true ∧ s.chip.portReg 0 2 = 1 ∧ s.chip.portReg 0 1 = 1)
    ∧ (let s := at_ (portCore 2 {})
       s.chip.portReg 0 2 = 2 ∧ (s.chip.port 0).lanesDone = false ∧ s.chip.portReg 0 0x12 < 2 ^ 32
         ∧ (Chip.chooseLanes (Nat.land (Nat.land (3 : BitVec 4).toNat (s.chip.portReg 0 5)) (7 : BitVec 4).toNat)
              (s.chip.port 0).dormant).1 ≠ 0)
    ∧ (let s := at_ (portCore 6 {})
       s.plat.running = true ∧ s.chip.portReg 0 2 = 6 ∧ (s.chip.port 0).lanesDone = false
         ∧ (Chip.chooseLanes (Nat.land (Nat.land (15 : BitVec 4).toNat (s.chip.portReg 0 5)) (15 : BitVec 4).toNat)
              (s.chip.port 0).dormant).1 ≠ 0)
    ∧ (let s := at_ (portCore 6 { lanesDone := true, dormant := true })
       Sys2Proof.Claims.quiet s = true ∧ s.chip.portReg 0 2 = 6 ∧ (s.chip.port 0).lanesDone = true)
    ∧ (let s := at_ (portCore 2 { lanesDone := true })
       s.chip.portReg 0 2 = 2 ∧ (s.chip.port 0).lanesDone = true ∧ (s.chip.port 0).identDone = false)
    ∧ (let s := at_ (portCore 2 { lanesDone := true, identDone := true })
       Sys2Proof.Claims.quiet s = true ∧ s.chip.portReg 0 2 = 2 ∧ (s.chip.port 0).identDone = true) := by decide

/-- A message of one flit on the response lane. -/
def queued : QMsg := ⟨1, 0, 2, .batch 2 1 [], [1, 2, 3], 0⟩

theorem witness_LinkTraffic :
    (let s := at_ (portCore 3 {})
     s.plat.running = true ∧ s.chip.carries 0 = true ∧ (s.chip.port 0).resend = [] ∧ (s.chip.port 0).replay.length < 2048
       ∧ (s.chip.port 0).control = [] ∧ (flitOf (hdr 0 0)).hdr.fseq.val = (s.chip.port 0).expected
       ∧ (flitOf (hdr 0 1)).hdr.fseq.val ≠ (s.chip.port 0).expected ∧ (s.chip.port 0).nakSent = false)
    ∧ Flit.good (flitOf (hdr 0 0)) = true ∧ Flit.good (flitOf (hdr 0 1)) = true
    ∧ (flitOf (hdr 2 0)).crc.toNat = flitCrc (hdr 2 0) (List.replicate 244 0)
    ∧ Sys2Proof.Claims.inSequence (at_ (portCore 3 {})) 0 (hdr 1 0)
    ∧ Chip.auditMismatch {} ((SMap.number 0 (List.replicate 48 0)).map (fun e => (bufSize e.1, 0))) = none
    ∧ (Chip.auditMismatch {} []).isSome = true
    ∧ (let x : Port := { sinceAck := 3, sinceAudit := 2 ^ 20 }
       (at_ (portCore 3 x)).chip.carries 0 = true ∧ 0 < x.sinceAck ∧ 2 ^ 20 ≤ x.sinceAudit)
    ∧ (let x : Port := { queue := [queued], avail := List.replicate 48 1 }
       Chip.arbitrate true { x with slot := x.slot + 1 } = some (1, [3, 3, 3, 2], []) ∧ Chip.sendable x 1 = some queued)
    ∧ (portCore 3 {}).laneOpen 0 = true ∧ Chip.arbitrate true { ({} : Port) with slot := 1 } = none
    ∧ (∀ st ∈ [3, 4, 5], Sys2Proof.Claims.quiet (at_ (portCore st {})) = true ∧ (portCore st {}).portLive 0 = true)
    ∧ (∀ k ∈ (portCore 3 {}).fab.kept, k.port ≠ 0)
    ∧ (let x : Port := { resend := [flitOf (hdr 0 7)], avail := List.replicate 48 1, uncharged := [7] }
       (portCore 3 x).carries 0 = true ∧ 0 < x.avail.getD (bufIx (hdr 0 7).vl.val (hdr 0 7).hop.val) 0
         ∧ (hdr 0 7).fseq.val ∉ { x with uncharged := [] }.uncharged) := by
  unfold Sys2Proof.Claims.inSequence; decide +kernel

theorem witness_PortsAndHostLink :
    (let s := at_ (portCore 6 {}); Sys2Proof.Claims.quiet s = true ∧ s.chip.portReg 0 2 = 6)
    ∧ (let s := at_ (portCore 8 {}); Sys2Proof.Claims.quiet s = true ∧ s.chip.portReg 0 2 = 8)
    ∧ (let r : LinkRecord := ⟨2, 0, 3, 1, 4, 7, false, 1, 5⟩
       let s := at_ { core with jobs := [], fab := { lsdb := [{ r with seq := 4 }] } }
       Sys2Proof.Claims.quiet s = true ∧ r.node ≠ s.chip.node
         ∧ s.chip.fab.lsdb.find? (fun q => q.node = r.node && q.port = r.port) = some { r with seq := 4 })
    ∧ (let s := at_ { core with regs := words [(0x4001, 1, 1), (0x4010, 1, 1), (0x4010, 3, 1)] }
       s.chip.reg 0x4010 3 = 1 ∧ s.chip.reg 0x4010 1 = 1 ∧ s.chip.bridgesIn = [])
    ∧ (let s := at_ { core with regs := words [(0x4010, 1, 1)] }; s.chip.reg 0x4010 1 = 1 ∧ s.chip.reg 0x4010 3 = 0)
    ∧ (let s : State := { plat := { perstN := true }, chip := { core with regs := words [(0x4010, 1, 1)] } }
       s.chip.reg 0x4010 3 = 0 ∧ s.plat.perstN = true ∧ s.chip.reg 0x4010 1 = 1 ∧ s.chip.bridgesIn = [])
    ∧ core.reg 0x4010 1 ≠ 1 ∧ Sys2Proof.Claims.quiet (at_ { core with jobs := [] }) = true
    ∧ (0 ∈ Chip.portsOfRef 0 0) := by decide

/-! ### Remote memory and collectives -/

/-- Node 1 with a region of HBM and a live link on port 0 to node 2 of its group, whose routes follow Jade. -/
def near : Chip :=
  { core with
    regs := words [(0x4001, 1, 1), (0x5100, 1, 0), (0x5100, 2, 1048576), (0x2020, 1, 1), (0x4100, 2, 3), (0x4100, 7, 2)] }

/-- The next hop to node 2 is by the one port to it. -/
theorem hop_near (s : Chip) (vl src : Nat) (f : Option Nat) (k : Bool) (hn : s.node = 1) (hj : s.jade = true)
    (hp : s.portsWhere isLive (fun n => n = 2) = [0]) : s.nextHop vl src 2 f k = some (0, false, false) := by
  have e : isEndpoint 2 = false := by decide
  have g : sameGroup s.node 2 = true := by rw [hn]; decide
  have hm : s.candidatesIn isLive src 2 = [0] := by simp [Chip.candidatesIn, Chip.minimalTo, e, g, hp]
  have hc : s.candidates src 2 = [0] := by simp [Chip.candidates, hm]
  simp [Chip.nextHop, Chip.minimalHop, hc, hj, Nat.mod_one]

/-- A message to node 2 leaves by the one port to it, whatever it is. -/
theorem route_near (s : Chip) (vl hop src : Nat) (f : Option Nat) (k : Bool) (w : Wire) (hn : s.node = 1)
    (hl : s.laneOpen vl = true) (hj : s.jade = true) (hp : s.portsWhere isLive (fun n => n = 2) = [0]) (hh : hop < 5) :
    ∃ u, s.route vl hop src 2 f k w = some u := by
  simp [Chip.route, Chip.sendBy, hl, hop_near s vl src f k hn hj hp, show ¬7 < hop by omega, show ¬5 ≤ hop by omega]

/-- Unit 0 of kind 1 on node 2, and its request number 0. -/
def peerUnit : U32 := BitVec.ofNat 32 (mkUnit 1 2 0)
def part0 : Constituent := ⟨peerUnit, 1, 0, 0, 0, 0⟩
/-- A message of job 7 from node 2 on 8 bytes at byte 64 of HBM. -/
def msgOf (t : Byte) : Msg :=
  { mtype := t, mflags := 0, aop := 1, dest := 1, srcNode := 2, address := BitVec.ofNat 64 (2 ^ 48 + 64), jobId := 7, length := 8
    age := 0, atype := 1, operand := 5, operand2 := 0, parts := [part0], data := List.replicate 8 3 }
def arr : Arrival := ⟨0, 0⟩

theorem witness_RequestsServed :
    (let m := msgOf 1
     Sys2Proof.Claims.arrives (at_ near) m part0 ∧ addrClass m.address.toNat ≠ 2 ∧ near.targetCode m m.length.toNat = 0
       ∧ near.targetCode m m.data.length = 0 ∧ near.targetCode m (atypeBytes m.atype.toNat) = 0
       ∧ atomicOk m.aop.toNat m.atype.toNat = true ∧ addrOff m.address.toNat % atypeBytes m.atype.toNat = 0)
    ∧ near.reg 0x4030 1 ≠ 0 ∧ addrOff (msgOf 2).address.toNat % 64 + (msgOf 2).data.length ≤ 64 ∧ (msgOf 2).data ≠ []
    ∧ (0 < (msgOf 1).length.toNat ∧ combinableAop 1 = true ∧ (msgOf 3).atype ≠ 2)
    ∧ Sys2Proof.Claims.arrives (at_ (near.setReg 0x4030 1 0)) (msgOf 2) part0
    ∧ (near.setReg 0x4030 1 0).reg 0x4030 1 = 0
    ∧ (let m := { msgOf 4 with address := BitVec.ofNat 64 (2 * 2 ^ 62 + 2 ^ 48 + 0x020000000000 + 64 * 3 + 8) }
       Sys2Proof.Claims.arrives (at_ near) m part0 ∧ addrClass m.address.toNat = 2
         ∧ addrOff m.address.toNat = 0x020000000000 + 64 * 3 + 8 ∧ near.job (near.slotOfJobId m.jobId) = some (jobOf [1])
         ∧ jobHoldsObj (jobOf [1]) 3 = true ∧ near.mayUse part0.unit.toNat 3 = true
         ∧ (near.obj 3).value.toNat + m.operand.toNat < 2 ^ 64) := by
  unfold Sys2Proof.Claims.arrives; decide +kernel

theorem witness_RequestsServed_onward :
    (at_ near).calm = true ∧ (2 : U16).toNat ≠ near.node ∧ ({ msgOf 1 with dest := 2 } : Msg).age.toNat ≤ 16384
    ∧ ∀ e ∈ [((0 : Nat), (1 : Byte)), (0, 2), (0, 3), (0, 4), (3, 9), (3, 10)], ∃ u,
        near.fresh.route e.1 (arr.hop.val + 1) (msgOf e.2).srcNode.toNat 2 (some arr.port.val)
          (Msg.resent { msgOf 1 with dest := 2 }) (.msg { { msgOf 1 with dest := 2 } with mtype := e.2 }) = some u :=
  ⟨by decide, by decide, by decide, fun e he => route_near _ _ _ _ _ _ _ (by decide)
    (by revert e he; decide) (by decide) (by decide) (by decide)⟩

/-- An open request of core 0: an RLOAD, an RSTORE or a SIGNAL by MTYPE and owner, and the answer. -/
def openBy (t : Byte) (o : ReqOwner) : Request :=
  { unit := mkUnit 1 1 3, dest := 2, flow := 1, epoch := 0, seq := 0, msg := { msgOf t with dest := 2, srcNode := 1 }, owner := o, fill := true }
def opened : Request := openBy 1 (.command 0 4 5 (localBase + 64))
def asking : Chip := { near with fab := { near.fab with requests := [opened] } }
def answerOf (t : Byte) : Msg := { msgOf t with parts := [⟨BitVec.ofNat 32 (mkUnit 1 1 3), 1, 0, 0, 0, 0⟩] }

theorem witness_AnswersComplete :
    (let p : Constituent := ⟨BitVec.ofNat 32 (mkUnit 1 1 3), 1, 0, 0, 0, 0⟩
     let m := answerOf 9
     (at_ asking).calm = true ∧ asking.coreState 0 ≠ 2 ∧ m.parts = [p] ∧ m.dest.toNat = asking.node ∧ asking.node ≠ 0xFFFF
       ∧ asking.reg 0x4002 5 = 0 ∧ opened.unit = p.unit.toNat ∧ opened.flow = p.flow.toNat ∧ opened.seq = p.seq.toNat
       ∧ opened.msg.mtype = 1 ∧ asking.poison = [] ∧ asking.engines = [] ∧ m.operand2.toNat % 65536 = 0
       ∧ m.operand2.toNat / 2 ^ 32 ≤ opened.seq ∧ bit opened.msg.mflags.toNat 2 = false ∧ near.fab.requests = []
       ∧ asking.fab.rates = [] ∧ opened.unit < 2 ^ 32 ∧ opened.dest < 2 ^ 16 ∧ opened.flow < 2 ^ 16 ∧ opened.seq < 2 ^ 32 ∧ m.data ≠ [])
    ∧ (∀ r ∈ [openBy 2 (.command 0 4 5 0), openBy 2 (.command 0 4 64 0), openBy 4 (.signal 0 3 4)],
       let c : Chip := { near with fab := { near.fab with requests := [r] }, streams := [(3, { signalling := r.msg.mtype = 4 })] }
       (at_ c).calm = true ∧ c.fab.requests = [r] ∧ fetches r.msg = false ∧ (c.stream 0 3).held = [] ∧ c.node ≠ 0xFFFF
         ∧ c.reg 0x4002 5 = 0 ∧ r.flow = 1 ∧ r.seq = 0 ∧ r.unit = (BitVec.ofNat 32 (mkUnit 1 1 3)).toNat)
    ∧ ((at_ near).calm = true ∧ near.fab.requests = [] ∧ (answerOf 9).parts ≠ [] ∧ (answerOf 9).dest.toNat = near.node)
    ∧ (∃ u, asking.fresh.route 0 0 asking.node opened.dest none true (.msg { opened.msg with mflags := 2 }) = some u)
    ∧ (∀ t ∈ [(1 : Byte), 2, 3, 4], Sys2Proof.Claims.arrives (at_ near) (msgOf t) part0) :=
  ⟨by decide, by decide, by decide, route_near _ _ _ _ _ _ _ (by decide) (by decide) (by decide) (by decide) (by decide),
    by unfold Sys2Proof.Claims.arrives; decide⟩

/-- One write of the message gathers at Ridge 0. -/
def gathered : Coalesce := ⟨(2 ^ 48 + 64) / 64, (SMap.number 64 (List.replicate 8 3)).map (fun b => (b.1, b.2, 9)), [msgOf 2]⟩

theorem witness_RemoteWindows :
    (let s := at_ { near with fab := { near.fab with ridges := [(0, { entries := [gathered] })] } }
     s.plat.running = true ∧ (s.chip.ridge 0).entries = [⟨(BitVec.ofNat 64 (2 ^ 48 + 64) : U64).toNat / 64,
        (SMap.number (addrOff (msgOf 2).address.toNat) (msgOf 2).data).map (fun b => (b.1, b.2, 9)), [msgOf 2]⟩]
       ∧ s.chip.poison = [] ∧ s.chip.engines = [])
    ∧ (let e : RateEntry := { dest := 2, line := 1 }
       let s := at_ { near with fab := { near.fab with rates := [e] } }
       s.calm = true ∧ e.dest = (2 : U16).toNat ∧ e.line = (64 : U64).toNat / 64 ∧ e.waits = [])
    ∧ (let s := at_ { near with fab := { near.fab with ridges := [(0, { batches := [(2, [msgOf 1])] })] } }
       s.calm = true ∧ s.chip.laneOpen 3 = true ∧ (s.chip.ridge 0).batches = [((2 : U16).toNat, [msgOf 1])]
         ∧ (s.chip.fresh.nextHop 3 s.chip.node (2 : U16).toNat none false).isSome = true) := by
  refine ⟨by decide, by decide, by decide, by decide, by decide, ?_⟩
  exact Option.isSome_iff_exists.2 ⟨_, hop_near _ _ _ _ _ (by decide) (by decide) (by decide)⟩

/-- A message that waits for its rate, and its launch once it may go. -/
theorem witness_RemoteWindows_waits :
    (let m : Msg := { msgOf 1 with dest := 2 }
     let c : Chip := { near with fab := { near.fab with rates := [{ dest := 2, line := 1, busy := true, waits := [m] }] } }
     let with_ (l : List RateEntry) : Chip := { c.fresh with fab := { c.fab with rates := l } }
     (at_ c).calm = true ∧ (∃ u, (with_ [{ dest := 2, line := 1, busy := true }]).launch 0 m = some u)
       ∧ ∃ u, (with_ []).launch 0 m = some u) := by
  have e (h : Chip) (m : Msg) (hd : m.dest.toNat = 2) (he : h.usesEave 2 = false) (hn : h.node = 1) (hl : h.laneOpen 0 = true)
      (hj : h.jade = true) (hp : h.portsWhere isLive (fun n => n = 2) = [0]) : ∃ u, h.launch 0 m = some u := by
    simpa [Chip.launch, hd, he] using route_near h 0 0 h.node none (Msg.resent m) (.msg m) hn hl hj hp (by decide)
  exact ⟨by decide, e _ _ (by decide) (by decide) (by decide) (by decide) (by decide) (by decide),
    e _ _ (by decide) (by decide) (by decide) (by decide) (by decide) (by decide)⟩

/-- A message of sequence number 0 of communicator 1 of job 7 from node 2, for node `d`. -/
def collOf (d : U16) : CollMsg :=
  { mflags := 0, dest := d, srcNode := 2, comm := 1, algo := 4, jobId := 7, seq := 0, segment := 0, status := 0, ctype := 1
    rop := 1, dtype := 2, count := 4, root := 0, tokens := 3, data := List.replicate 16 0 }

theorem witness_CollectivesPassOn :
    (∀ e ∈ Sys2Proof.Claims.collRows, ∃ u, near.fresh.route 2 (arr.hop.val + 1) 2 (collOf 2).dest.toNat (some arr.port.val) false
      (.coll e.1 (collOf 2)) = some u)
    ∧ (at_ near).calm = true ∧ (collOf 2).dest.toNat ≠ near.node :=
  ⟨fun _ _ => route_near _ _ _ _ _ _ _ (by decide) (by decide) (by decide) (by decide) (by decide), by decide, by decide⟩

/-- Nodes 1 and 2 run a collective `x` on communicator 1. -/
def collJob : Job := { jobOf [1, 2] with comms := [⟨1, [1, 2], 0, 0⟩] }
def together (x : List CollRun) : Chip := { near with jobs := [(0, some collJob)], fab := { near.fab with colls := x } }
def collRun (x : CollCmd) : CollRun := { collNo 0 with cmd := x, begun := true }
/-- An ALLREDUCE of four FP32 elements. -/
def sumCmd : CollCmd := { barrier with ctype := 1, rop := 1, dtype := 2, count := 4 }
def input (k : Nat) (a : Bool) : CollIn := ⟨0, 1, k, 0, 4, a⟩
def output : CollOut := ⟨0, 1, 0, 0, 4, true, []⟩
def reducing (i : List CollIn) (o : List CollOut) : CollRun :=
  { collRun sumCmd with going := true, cur := [0, 0, 0, 0], opened := i, outgoing := o }

def joining (i : CollIn) : CollRun := reducing [i, input 0 true, input 3 false] []

theorem witness_CollectiveMessages :
    (let s := at_ (together []); s.calm = true ∧ (collOf 1).dest.toNat = s.chip.node ∧ s.chip.fab.colls = []
      ∧ s.chip.fab.starts = [] ∧ s.chip.fab.inbox = [] ∧ s.chip.fab.leases = [] ∧ (collOf 1).srcNode.toNat ≠ s.chip.node
      ∧ (collOf 1).tokens ≤ s.chip.reg 0x4040 4 ∧ s.chip.reg 0x4040 4 < { collOf 1 with tokens := 1000 }.tokens
      ∧ s.chip.laneOpen 2 = true ∧ s.chip.findRun 7 1 0 = none)
    ∧ (let c := together [collRun barrier]
       c.findRun 7 1 0 = some (collRun barrier) ∧ (1 ∈ c.runMembers (collRun barrier)) ∧ c.fab.starts = [] ∧ (1 : Nat) ≠ (collOf 1).srcNode.toNat)
    ∧ (let x := collRun { barrier with completionAddr := loc 32 }
       Sys2Proof.Claims.alone (at_ (together [x])) (collOf 1) x ∧ x.begun = true ∧ x.going = false ∧ x.cmd.ctype = 5
         ∧ x.cmd.completionAddr ≠ 0)
    ∧ (let l : Lease := ⟨0, 7, 1, 0, 3, 2⟩
       let c : Chip := { near with fab := { near.fab with leases := [l] } }
       (at_ c).calm = true ∧ c.laneOpen 2 = true ∧ c.fab.inbox = [] ∧ c.fab.leases = [l] ∧
       l.ridge = (collOf 1).segment.toNat % 2 ∧ l.jobId = (collOf 1).jobId ∧ l.comm = (collOf 1).comm.toNat
         ∧ l.seq = (collOf 1).seq.toNat)
    ∧ (let x := { reducing [] [] with leasing := [(1, 0), (0, 0)] }
       Sys2Proof.Claims.alone (at_ (together [x])) (collOf 1) x ∧ rankOf ((together [x]).runMembers x) 2 = 1
         ∧ x.leasing.erase (1, 0) ≠ [])
    ∧ (let x := reducing [input 0 true] [output]
       Sys2Proof.Claims.alone (at_ (together [x])) (collOf 1) x ∧ (together [x]).jobState 0 ≠ 5
         ∧ ((together [x]).runMembers x).getD output.dst 0 = 2 ∧ (Chip.outData x output).isSome = true)
    ∧ (∀ i ∈ [input 0 true, input 0 false, input 3 false],
         Sys2Proof.Claims.alone (at_ (together [joining i])) (collOf 1) (joining i) ∧ (joining i).opened.head? = some i
           ∧ (joining i).opened.erase i ≠ [] ∧ i.src = rankOf ((together [joining i]).runMembers (joining i)) 2
           ∧ (joining i).algo ≠ 1 ∧ (i.lo, i.hi) = segRange 2 4 i.seg)
    ∧ (let x := { joining (input 0 false) with cmd := { sumCmd with ctype := 4 } }
       Sys2Proof.Claims.alone (at_ (together [x])) (collOf 1) x ∧ x.opened.head? = some (input 0 false)
         ∧ x.opened.erase (input 0 false) ≠ [] ∧ x.cmd.ctype = 4)
    ∧ (let x := reducing [] []
       Sys2Proof.Claims.alone (at_ (together [x])) { collOf 1 with status := 5 } x ∧ x.cmd.completionAddr = 0
         ∧ ((together [x]).stream 0 3).status = 0) := by
  refine ⟨?_, ?_, ?_, ?_, ?_, ?_, ?_, ?_, ?_⟩ <;> simp only [Sys2Proof.Claims.alone] <;> decide

/-! ### Dictionary and DAP -/

/-- Node 1 after Burist's start, with further words, and clients of the host and of service. -/
def served (l : List (Nat × Nat × Nat)) : Chip := { regs := words ([(0x4001, 1, 1), (0x2300, 4, 3)] ++ l) }
def host : Client := ⟨.host, .mgmt, 0⟩
def service : Client := ⟨.service, .mgmt, 0⟩

theorem witness_DictionaryRefuses :
    (let s := at_ (served [(0x7000, 1, 1)])
     s.calm = true ∧ s.chip.entryAt 0x2010 9 = none
       ∧ (s.chip.entryAt 0x2010 1).any (fun e =>
          (e.acc = .wo || e.acc = .rw) && s.chip.roleMay host ⟨0x2010, 1, 1, 0, [1]⟩ && !Chip.typeFits e ⟨0x2010, 1, 4, 0, [1]⟩
            && Chip.typeFits e ⟨0x2010, 1, 1, 0, [1]⟩ && s.chip.fresh.inRange e ⟨0x2010, 1, 1, 0, [1]⟩
            && !s.chip.fresh.inRange e ⟨0x2010, 1, 1, 0, [2]⟩ && !s.chip.lockedOut host ⟨0x2010, 1, 1, 0, [1]⟩) = true
       ∧ (s.chip.entryAt 0x1000 1).any (fun e => e.acc = .ro || e.acc = .const) = true
       ∧ { s.chip with jobs := [(0, some (jobOf [1]))] }.stateFits ⟨0x2010, 1, 1, 0, [1]⟩ = false
       ∧ s.chip.roleMay host ⟨0x4001, 1, 3, 0, [1, 0]⟩ = false
       ∧ (s.chip.entryAt 0x7000 1).any (fun e => s.chip.roleMay host ⟨0x7000, 1, 1, 0, [0]⟩
          && Chip.typeFits e ⟨0x7000, 1, 1, 0, [0]⟩ && s.chip.fresh.inRange e ⟨0x7000, 1, 1, 0, [0]⟩) = true
       ∧ s.chip.lockedOut host ⟨0x7000, 1, 1, 0, [0]⟩ = true
       ∧ (s.chip.entryAt 0x4020 2).any (fun e => e.acc = .rw && s.chip.roleMay host ⟨0x4020, 2, 3, 0, [5, 0]⟩
          && Chip.typeFits e ⟨0x4020, 2, 3, 0, [5, 0]⟩ && s.chip.fresh.inRange e ⟨0x4020, 2, 3, 0, [5, 0]⟩
          && !s.chip.lockedOut host ⟨0x4020, 2, 3, 0, [5, 0]⟩) = true) := by decide

/-- A port in state `st` on that package. -/
def servedPort (st : Nat) : Chip := { served [(0x4100, 2, st)] with fab := { ports := [(0, {})] } }

/-- The job of core 1 under admission, with all of the HBM of each stack in `n` bytes. -/
def hbmJob (n : Nat) : Job := { jobOf [1] with loading := true, res := { (jobOf [1]).res with hbm := [n, n, n, n] } }
def hbmHeld (n : Nat) : State := at_ { served [] with jobs := [(0, some (hbmJob n))], staging := { reading := true } }

/-- On which stack the split of a staging begins does not matter to its total. -/
theorem spread_cases (P : Option (List Nat) → Prop) (s : Chip) (n : Nat)
    (h : ∀ k, k < 4 → P ((let r := (List.range 4).foldl (fun (a : List Nat × Nat) i =>
      (a.1.set ((k + i) % 4) (min a.2 (s.hbmFree ((k + i) % 4))), a.2 - min a.2 (s.hbmFree ((k + i) % 4)))) ([0, 0, 0, 0], n)
      if r.2 = 0 then some r.1 else none))) : P (s.spreadHbm n) := by
  have := h (Config.freeChoice s.free 50 % 4) (Nat.mod_lt _ (by decide))
  simpa only [Chip.spreadHbm, Nat.mod_add_mod] using this

theorem witness_SettingsWrites :
    (let s := at_ (served [])
     Sys2Proof.Claims.serves s host ∧ Sys2Proof.Claims.serves s service ∧ Sys2Proof.Claims.quiet s = true
       ∧ s.chip.occupied = false ∧ isPackage 3 = true ∧ s.chip.admitting = false ∧ s.chip.dumping = none
       ∧ s.chip.reg 0x2200 2 = 0 ∧ 0 + ([] : List Byte).length ≤ s.chip.reg 0x6010 1 ∧ s.chip.reg 0x6010 1 < 0 + [(1 : Byte)].length)
    ∧ (let s := at_ { served [] with jobs := [(0, some (jobOf [1]))] }
       Sys2Proof.Claims.serves s host ∧ Sys2Proof.Claims.serves s service ∧ s.chip.occupied = true)
    ∧ (∀ st ∈ [0, 1, 2, 3, 6, 7, 8],
        Sys2Proof.Claims.serves (at_ (servedPort st)) service ∧ Sys2Proof.Claims.quiet (at_ (servedPort st)) = true
        ∧ (servedPort st).portReg 0 2 = st ∧ ((servedPort st).port 0).queue = [] ∧ ((servedPort st).port 0).unacked = [])
    ∧ (servedPort 3).portLive 0 = true
    ∧ (let s := at_ { served [] with dumping := some (0, 0) }
       Sys2Proof.Claims.serves s host ∧ s.chip.dumping.isSome = true ∧ s.chip.poison = [])
    ∧ (let s := at_ (served [(0x2200, 2, 2)])
       Sys2Proof.Claims.serves s host ∧ Sys2Proof.Claims.quiet s = true ∧ s.chip.occupied = false ∧ s.chip.reg 0x2200 2 = 2)
    ∧ Sys2Proof.Claims.serves (hbmHeld 0) host ∧ ((hbmHeld 0).chip.admitting && (hbmHeld 0).chip.staging.reading) = true := by
  simp only [Sys2Proof.Claims.serves]; decide

/-- A staging of 0 bytes fits, beside an admission too; one of a page does not where a job has all of HBM. -/
theorem witness_SettingsWrites_stage :
    ((at_ (served [])).chip.fresh.unstaged.spreadHbm 0).isSome = true
    ∧ ((hbmHeld 0).chip.fresh.unstaged.spreadHbm 0).isSome = true
    ∧ (hbmHeld stackBytes).chip.fresh.unstaged.spreadHbm 4096 = none := by
  refine ⟨spread_cases (fun o => o.isSome = true) _ _ ?_, spread_cases (fun o => o.isSome = true) _ _ ?_,
    spread_cases (fun o => o = none) _ _ ?_⟩ <;> decide

/-- A component without content and with VERSION 0, and its bytes in an image. -/
def unsigned : List Byte := List.replicate 4627 0
def part (i : Byte) : Component := ⟨0x42504D43, BitVec.ofNat 16 i.toNat, 0, 0, [], unsigned⟩
def partHead (i : Byte) : List Byte := [0x43, 0x4D, 0x50, 0x42, i, 0, 0, 0] ++ List.replicate 56 0
def partIds : List Byte := [2, 5, 6, 7, 8, 3, 4, 1]
def partBytes : List Byte → List Byte
  | [] => []
  | i :: t => partHead i ++ (unsigned ++ partBytes t)

theorem unsigned_length : unsigned.length = 4627 := List.length_replicate ..
theorem partHead_length (i : Byte) : (partHead i).length = 64 := rfl

theorem partBytes_length (l : List Byte) : (partBytes l).length = 4691 * l.length := by
  induction l with
  | nil => rfl
  | cons i t ih => simp only [partBytes, List.length_append, partHead_length, unsigned_length, ih, List.length_cons]; omega

theorem take_part (i : Byte) (u t : List Byte) (h : u.length = 4627) :
    takeComponent (partHead i ++ (u ++ t)) = some (⟨0x42504D43, BitVec.ofNat 16 i.toNat, 0, 0, [], u⟩, t) := by
  have e (n : Nat) (l : List Byte) : (partHead i ++ l).drop (64 + n) = l.drop n := by
    rw [← partHead_length i, List.drop_append]; simp
  have g : (u ++ t).take 4627 = u := List.take_left' h
  have g' : (u ++ t).drop 4627 = t := List.drop_left' h
  have a : field (partHead i ++ (u ++ t)) 0 4 = 0x42504D43 := by
    show leNat [0x43, 0x4D, 0x50, 0x42] = 0x42504D43
    decide
  have b : field (partHead i ++ (u ++ t)) 12 4 = 0 := rfl
  have c : field (partHead i ++ (u ++ t)) 8 4 = 0 := rfl
  have d : field (partHead i ++ (u ++ t)) 4 2 = i.toNat := by
    show leNat [i, 0] = i.toNat
    simp [leNat]
  have n : decide (64 + 0 + 4627 ≤ (partHead i ++ (u ++ t)).length) = true := by
    simp only [List.length_append, partHead_length, h, decide_eq_true_eq]; omega
  have e0 := e 0 (u ++ t)
  have e1 := e 4627 (u ++ t)
  simp only [Nat.add_zero, List.drop_zero] at e0
  simp only [takeComponent, a, b, c, d, n, Nat.add_zero, e0, e1, g, g', List.take_zero, decide_true, Bool.and_self, if_true]
  rfl

theorem components_part : ∀ (n : Nat) (l : List Byte), l.length ≤ n → components n (partBytes l) = l.map part
  | 0, [], _ => rfl
  | _ + 1, [], _ => rfl
  | n + 1, i :: t, h => by
    simp only [components, partBytes, take_part i unsigned _ unsigned_length, List.map_cons]
    rw [part, components_part n t (by simpa using h)]

/-- Before the boot: the image in flash, and as bytes in staging. -/
def unbooted : Chip := { regs := words [(0x2300, 3, 1)], flash := { image := partIds.map part } }
def staged : Chip :=
  { regs := words [(0x2300, 3, 1), (0x6010, 1, 37528)], staging := { data := SMap.setRange 0 [] 0 (partBytes partIds) } }

theorem staged_parts : components 32 (SMap.getRange 0 staged.staging.data 0 (staged.reg 0x6010 1)) = partIds.map part := by
  have h : staged.reg 0x6010 1 = (partBytes partIds).length := by rw [partBytes_length]; decide
  rw [h]
  show components 32 (SMap.getRange 0 (SMap.setRange 0 [] 0 (partBytes partIds)) 0 _) = _
  rw [SMap.getRange_setRange_self, components_part 32 _ (by decide)]

theorem floors_zero : ∀ i, (List.replicate 8 (0 : U32)).getD i 0 = 0
  | 0 | 1 | 2 | 3 | 4 | 5 | 6 | 7 => rfl
  | _ + 8 => rfl

/-- An image whose components verify and are not below the floors boots. -/
theorem parts_boot (source : Nat) (image : List Component) (hv : ∀ k m g, Config.verify k m g = true) :
    ∀ (ids : List Nat) (s : Chip), s.flash.floors = List.replicate 8 0 →
      (∀ id ∈ ids, (image.find? (fun c => c.id.toNat = id)).isSome = true) → (Chip.bootParts source image ids s).1 = true
  | [], _, _, _ => rfl
  | id :: t, s, hf, hi => by
    obtain ⟨c, hc⟩ := Option.isSome_iff_exists.mp (hi id (List.mem_cons_self ..))
    have hr : componentResult s.flash.floors c = 0 := by
      unfold componentResult; rw [hf, hv, floors_zero]; simp
    have := parts_boot source image hv t { s.measure c source 0 with boot := { (s.measure c source 0).boot with
      versions := (s.measure c source 0).boot.versions.set (floorIx id) c.version } } hf (fun j hj => hi j (List.mem_cons_of_mem _ hj))
    simpa [Chip.bootParts, hc, hr] using this

theorem image_boots (s : Chip) (source : Nat) (hv : ∀ k m g, Config.verify k m g = true)
    (hf : s.flash.floors = List.replicate 8 0) : (s.bootImage source (partIds.map part)).1 = true := by
  have h := parts_boot source (partIds.map part) hv [2, 5, 6, 7, 8, 3, 4, 1] s hf (by decide)
  simp [Chip.bootImage, h]

/-- Where the signatures verify, the staged image starts; without one the image in flash starts, and with neither the ROM stays. -/
theorem witness_SettingsWrites_boot (hv : ∀ k m g, Config.verify k m g = true) :
    (let s := at_ staged
     s.calm = true ∧ s.chip.reg 0x2300 4 = 0 ∧ s.chip.bootClient service = true
       ∧ (s.chip.fresh.bootImage (s.chip.reg 0x2300 3 % 4)
          (components 32 (SMap.getRange 0 s.chip.staging.data 0 (s.chip.reg 0x6010 1)))).1 = true)
    ∧ (let s := at_ unbooted
       let tried := s.chip.fresh.bootImage (s.chip.reg 0x2300 3 % 4)
         (components 32 (SMap.getRange 0 s.chip.staging.data 0 (s.chip.reg 0x6010 1)))
       s.calm = true ∧ s.chip.bootClient service = true ∧ tried.1 = false
         ∧ ((tried.2.setReg 0x2300 3 129).bootImage 0 s.chip.flash.image).1 = true) := by
  refine ⟨And.intro (by decide) (And.intro (by decide) (And.intro (by decide) ?_)),
    And.intro (by decide) (And.intro (by decide) (And.intro (by decide) (image_boots _ _ hv rfl)))⟩
  show (staged.fresh.bootImage _ (components 32 (SMap.getRange 0 staged.staging.data 0 (staged.reg 0x6010 1)))).1 = true
  rw [staged_parts]
  exact image_boots _ _ hv rfl

theorem witness_SettingsWrites_rom :
    (let s := at_ { regs := words [(0x2300, 3, 1)] }
     let tried := s.chip.fresh.bootImage 1 (components 32 (SMap.getRange 0 s.chip.staging.data 0 (s.chip.reg 0x6010 1)))
     s.calm = true ∧ s.chip.reg 0x2300 4 = 0 ∧ s.chip.bootClient service = true ∧ tried.1 = false
       ∧ ((tried.2.setReg 0x2300 3 129).bootImage 0 s.chip.flash.image).1 = false) := by decide

/-- A key of all uses with KEY_ID `kid`. -/
def keyed (kid : List Byte) (use : Nat) : KeyEntry := ⟨kid, use, []⟩
def kid0 : List Byte := List.replicate 32 1

/-- The KEY_ID of a public key of zeros. -/
@[irreducible] def zeroKid : List Byte := sha3_256 (List.replicate 2592 0)

theorem zeroKid_length : zeroKid.length = 32 := by decide +kernel

theorem map_shift_ne (l : List Byte) (c : Byte) (hl : l ≠ []) (hc : c ≠ 0) : l.map (· + c) ≠ l := by
  cases l with
  | nil => exact absurd rfl hl
  | cons b t =>
    intro e
    have h : b + c = b := (List.cons.inj e).1
    exact hc (by simpa using h)

/-- 64 keys of service, none of them the KEY_ID of a public key of zeros. -/
def fullTable : Flash := { keys := (List.range 64).map (fun i => keyed (zeroKid.map (· + BitVec.ofNat 8 (i + 1))) 2) }

theorem zeroKid_new : ∀ k ∈ fullTable.keys, k.keyId ≠ zeroKid := by
  intro k hk
  obtain ⟨i, hi, rfl⟩ := List.mem_map.mp hk
  have hc : BitVec.ofNat 8 (i + 1) ≠ (0 : Byte) := fun h => by
    have h := congrArg BitVec.toNat h
    rw [BitVec.toNat_ofNat] at h
    have := List.mem_range.mp hi
    change (i + 1) % 256 = 0 at h
    omega
  have hl : zeroKid ≠ [] := fun e => absurd zeroKid_length (e ▸ by decide)
  exact map_shift_ne zeroKid (BitVec.ofNat 8 (i + 1)) hl hc

def safety : Client := ⟨.safety, .mgmt, 0⟩

theorem witness_SecurityWrites :
    (let s := at_ (served [])
     Sys2Proof.Claims.serves s host ∧ s.chip.occupied = false ∧ s.chip.partition = false ∧ s.chip.noPair = false
       ∧ s.chip.mon.clockFault = false ∧ s.chip.mon.buristBeat = true ∧ s.chip.flash.keys.length < 64 ∧ s.chip.flash.keys = []
       ∧ s.chip.flash.advances ≠ 0 ∧ s.chip.jobState 0 = 0)
    ∧ (let s := at_ (served [(0x7000, 1, 1)])
       Sys2Proof.Claims.serves s host ∧ s.chip.partition = true ∧ bit 3 2 = false ∧ s.chip.noPair = false)
    ∧ (let s := at_ { served [] with jobs := [(0, some (jobOf [1]))] }; Sys2Proof.Claims.serves s host ∧ s.chip.occupied = true)
    ∧ { served [] with mon := { buristBeat := false } }.mon.buristBeat = false
    ∧ { served [] with mon := { clockFault := true } }.mon.clockFault = true
    ∧ { served [] with mon := { pairState := [] } }.noPair = true
    ∧ safety.role = .safety
    ∧ (let s := at_ { served [] with flash := { advances := 0 } }; Sys2Proof.Claims.serves s host ∧ s.chip.flash.advances = 0)
    ∧ (let s := at_ { served [(0x6001, 2, 3)] with jobs := [(0, some (jobOf [1]))] }
       Sys2Proof.Claims.serves s host ∧ 1 ≤ s.chip.jobState 0 ∧ s.chip.jobState 0 ≤ 4
         ∧ refOk 64 = true ∧ jobHoldsObj (jobOf [1]) (objOfRef 0) = true ∧ jobHoldsObj (jobOf [1]) (objOfRef 64) = false
         ∧ s.chip.job 0 = some (jobOf [1])) := by
  simp only [Sys2Proof.Claims.serves]; decide +kernel


theorem witness_SecurityWrites_enroll :
    (let s := at_ { served [] with flash := { keys := [keyed zeroKid 1] } }
     Sys2Proof.Claims.serves s host ∧ s.chip.partition = false ∧ s.chip.flash.keys.length < 64
         ∧ ∃ k ∈ s.chip.flash.keys, k.keyId = zeroKid)
    ∧ (let s := at_ { served [] with flash := fullTable }
       Sys2Proof.Claims.serves s host ∧ s.chip.partition = false ∧ 64 ≤ s.chip.flash.keys.length
         ∧ ∀ k ∈ s.chip.flash.keys, k.keyId ≠ zeroKid) := by
  refine ⟨⟨⟨rfl, by decide, .inl rfl⟩, rfl, by decide, keyed zeroKid 1, .head _, by simp only [keyed]⟩, ⟨rfl, by decide, .inl rfl⟩, rfl, by decide, zeroKid_new⟩

theorem witness_SecurityWrites_revoke :
    (let s := at_ { served [] with flash := { keys := [keyed kid0 1] } }
     Sys2Proof.Claims.serves s host ∧ kid0.length = 32 ∧ s.chip.keyUse kid0 = some 1 ∧ bit 1 0 = true ∧ bit 1 2 = false
         ∧ s.chip.flash.keys.any (fun k => k.keyId ≠ kid0 && bit k.use 0) = false)
    ∧ (let s := at_ { served [] with flash := { keys := [keyed kid0 1, keyed [] 1] } }
       Sys2Proof.Claims.serves s host ∧ s.chip.keyUse kid0 = some 1
         ∧ s.chip.flash.keys.any (fun k => k.keyId ≠ kid0 && bit k.use 0) = true)
    ∧ (let s := at_ { served [] with flash := { keys := [keyed kid0 2] } }
       Sys2Proof.Claims.serves s host ∧ s.chip.keyUse kid0 = some 2 ∧ bit 2 0 = false) := by
  unfold Sys2Proof.Claims.serves; decide

theorem witness_UnitStates :
    (let s := at_ (served [])
     Sys2Proof.Claims.serves s host ∧ s.chip.unitState (.solver 0) = 1 ∧ UnitRef.solver 0 ∉ s.chip.pendingOff
       ∧ s.chip.job (s.chip.slotOfSolver 0) = none ∧ s.chip.solver 0 = [] ∧ s.chip.arrayState 0 0 = 1
       ∧ UnitRef.array 0 0 ∉ s.chip.pendingOff ∧ s.chip.job (s.chip.slotOfCore 0) = none ∧ s.chip.arrayIdle 0 0 = true
       ∧ s.chip.coreState 0 = 1)
    ∧ (let s := at_ (served [(0x3200, 1, 2)]); Sys2Proof.Claims.serves s host ∧ s.chip.unitState (.solver 0) = 2)
    ∧ (let s := at_ { served [(0x3200, 1, 0)] with testing := [(.solver 0, none)] }
       Sys2Proof.Claims.serves s host ∧ s.chip.unitState (.solver 0) = 0)
    ∧ (let j := { unitJob with coupling := some 0 }
       let s := at_ { served [] with jobs := [(0, some j)] }
       Sys2Proof.Claims.serves s host ∧ s.chip.unitState (.solver 0) = 1 ∧ UnitRef.solver 0 ∉ s.chip.pendingOff
         ∧ s.chip.job (s.chip.slotOfUnit (.solver 0)) = some j ∧ jobCoupled j = true) := by
  simp only [Sys2Proof.Claims.serves]; decide +kernel

/-- A frame of type `t` for this package in session 1, with its tag under the key `k`. -/
def bareFrame (t : Byte) (body : List Byte) : DapFrame :=
  { magic := 0xDA50, version := 1, msgType := t, sessionId := 1, msgSeq := 1, requestId := 9, targetNode := 1, sourceNode := 2
    bodyLength := BitVec.ofNat 16 body.length, frag := 0, reserved := 0, status := 0, reservedTail := 0, body := body, tag := [] }
def frame (t : Byte) (body : List Byte) : DapFrame := { bareFrame t body with tag := tagOf [] (bareFrame t body) }

/-- An open session of the host over the management port, and a package with it. -/
def session (open_ : Bool) (q : List Subscription) : Session :=
  { sid := 1, role := .host, transport := .mgmt, node := 2, keyId := [], clientKey := [], isOpen := open_, transcript := []
    signature := [], keyIn := [], keyOut := [], seqIn := 0, seqOut := 0, kept := [], subs := q }
def withSession (x : Session) : Chip := { served [] with dap := { sessions := [x] } }

/-- A value at an index, as a write of DAP carries it: type U16, two bytes. -/
def wordAt (ix : Nat) (sub : Byte) (v : Nat) : List Byte :=
  leBytes 2 ix ++ [sub, 3] ++ leBytes 8 0 ++ leBytes 2 2 ++ leBytes 2 0 ++ leBytes 2 v
/-- A value of a byte at an index, type U8. -/
def byteAt (ix : Nat) (sub : Byte) (v : Byte) : List Byte :=
  leBytes 2 ix ++ [sub, 2] ++ leBytes 8 0 ++ leBytes 2 1 ++ leBytes 2 0 ++ [v]
/-- An entry of a WRITE_MULTI. -/
def entryAt (ix : Nat) (sub : Byte) (v : Nat) : List Byte :=
  leBytes 2 ix ++ [sub, 3] ++ leBytes 4 2 ++ leBytes 8 0 ++ leBytes 2 v ++ [0, 0]

def readBody : List Byte := leBytes 2 0x4020 ++ [2, 0] ++ leBytes 8 0 ++ leBytes 2 2 ++ leBytes 2 0
def subscribeBody : List Byte := leBytes 2 3 ++ [1, 1] ++ leBytes 4 0 ++ leBytes 8 (2 ^ 64 - 1)
def sub0 : Subscription := ⟨0, 1, 0, true, 0, [], 0⟩

theorem witness_acceptable (t : Byte) (body : List Byte) (q : List Subscription) (k : List (U32 × DapFrame)) (c : Chip)
    (h : frameFits (frame t body) = true) (hc : c.calm = true) (hr : c.reg 0x2300 4 = 3) (hn : c.node = 1)
    (hs : c.dap.sessions = [{ session true q with kept := k }]) (ht : c.testing = []) :
    Sys2Proof.Claims.acceptable (at_ c) (frame t body) { session true q with kept := k } := by
  refine ⟨hc, hr, hs, rfl, rfl, of_decide_eq_true rfl, ?_, h, rfl, rfl, Nat.one_pos, of_decide_eq_true rfl, ht⟩
  show (decide _ || decide (1 = c.node)) = true
  simp [hn]

/-- A response kept for REQUEST_ID 9. -/
def kept9 : List (U32 × DapFrame) := [(9, { bareFrame 0x13 [] with tag := List.replicate 32 0 })]
def sub2 : Subscription := { sub0 with id := 2, sent := [4, 5] }

/-- The packages on which the requests of the statement are accepted. -/
theorem dap_chips :
    ∀ c ∈ [withSession (session true []), withSession (session true [sub0]), withSession (session true [sub2]),
        withSession (session true [sub0, { sub0 with id := 1 }, sub2, { sub0 with id := 3 }]),
        withSession { session true [sub0] with kept := kept9 },
        { withSession (session true []) with regs := words [(0x4001, 1, 1), (0x2300, 4, 3), (0x3200, 1, 0)] }],
      c.calm = true ∧ c.reg 0x2300 4 = 3 ∧ c.node = 1 ∧ c.testing = [] := by decide

/-- The frames of the statement fit. -/
theorem frames_fit :
    (∀ e ∈ [((0x10 : Byte), readBody), (0x10, leBytes 2 0x4020 ++ [9, 0] ++ leBytes 8 0 ++ leBytes 4 2),
        (0x10, leBytes 2 0x6000 ++ [1, 0] ++ leBytes 8 0 ++ leBytes 4 2), (0x11, wordAt 0x4020 2 5), (0x11, wordAt 0x4020 9 5),
        (0x11, byteAt 0x3200 1 1), (0x12, [2, 0, 0, 0] ++ entryAt 0x4020 2 5 ++ entryAt 0x4020 9 5),
        (0x12, [2, 0, 0, 0] ++ entryAt 0x4020 2 5 ++ entryAt 0x4020 3 6), (0x20, subscribeBody),
        (0x20, leBytes 2 1024 ++ [1, 1] ++ leBytes 4 0 ++ leBytes 8 7), (0x21, [0]), (0x21, [2]),
        (0x23, [2] ++ List.replicate 7 0 ++ leBytes 8 4), (4, [])], frameFits (frame e.1 e.2) = true) := by
  decide +kernel

theorem witness_DapRequests :
    (∃ e, Objects.lookup 0x4020 2 = some e ∧ e.acc = .rw ∧ e.acc ≠ .wo ∧ e.ty.numeric = true ∧ e.ty.size = some 2
      ∧ Chip.timed 0x4020 2 = false ∧ Chip.typeFits e ⟨0x4020, 2, 3, 0, [5, 0]⟩ = true
      ∧ (served []).inRange e ⟨0x4020, 2, 3, 0, [5, 0]⟩ = true)
    ∧ (∃ e, Objects.lookup 0x4020 3 = some e ∧ e.acc = .rw ∧ Chip.typeFits e ⟨0x4020, 3, 3, 0, [6, 0]⟩ = true
      ∧ (served []).inRange e ⟨0x4020, 3, 3, 0, [6, 0]⟩ = true)
    ∧ Objects.lookup 0x4020 9 = none ∧ (∃ e, Objects.lookup 0x6000 1 = some e ∧ e.acc = .wo)
    ∧ field readBody 0 2 = 0x4020 ∧ field readBody 2 1 = 2 ∧ field readBody 4 8 = 0 ∧ field readBody 12 2 = 2
    ∧ frameWrites (bareFrame 0x11 (wordAt 0x4020 2 5)) = some [⟨0x4020, 2, 3, 0, [5, 0]⟩]
    ∧ frameWrites (bareFrame 0x11 (wordAt 0x4020 9 5)) = some [⟨0x4020, 9, 3, 0, [5, 0]⟩]
    ∧ (served []).fresh.writeCode host ⟨0x4020, 9, 3, 0, [5, 0]⟩ = 0x0801
    ∧ frameWrites (bareFrame 0x12 ([2, 0, 0, 0] ++ entryAt 0x4020 2 5 ++ entryAt 0x4020 9 5))
        = some [⟨0x4020, 2, 3, 0, [5, 0]⟩, ⟨0x4020, 9, 3, 0, [5, 0]⟩]
    ∧ frameWrites (bareFrame 0x12 ([2, 0, 0, 0] ++ entryAt 0x4020 2 5 ++ entryAt 0x4020 3 6))
        = some [⟨0x4020, 2, 3, 0, [5, 0]⟩, ⟨0x4020, 3, 3, 0, [6, 0]⟩]
    ∧ (let s := served [(0x3200, 1, 0)]
       let w : Write := ⟨0x3200, 1, 2, 0, [1]⟩
       frameWrites (bareFrame 0x11 (byteAt 0x3200 1 1)) = some [w] ∧ unitAt w.ix w.sub = some (.solver 0)
         ∧ s.fresh.writeCode host w = 0 ∧ w.num = 1 ∧ s.unitState (.solver 0) = 0)
    ∧ field subscribeBody 0 2 < 1024 ∧ field subscribeBody 3 1 ≤ 1 ∧ field subscribeBody 8 8 = 2 ^ 64 - 1
    ∧ 1024 ≤ field (leBytes 2 1024) 0 2
    ∧ sub0.id = field [0] 0 1 ∧ sub0.id ≠ field [2] 0 1 ∧ sub2.id = field ([2] ++ List.replicate 15 0) 0 1
    ∧ (∀ k ∈ (session true []).kept, k.1 ≠ (bareFrame 0x10 []).requestId)
    ∧ (kept9.find? (fun k => k.1 = (bareFrame 0x10 []).requestId)).isSome = true
    ∧ (List.replicate 32 (0 : Byte)).length = 32 ∧ List.replicate 32 (0 : Byte) ≠ (frame 0x10 readBody).tag :=
  ⟨⟨_, rfl, by decide, by decide, by decide, by decide, by decide, by decide, by decide⟩,
    ⟨_, rfl, by decide, by decide, by decide⟩, by decide, ⟨_, rfl, by decide⟩,
    by decide, by decide, by decide, by decide, by decide, by decide, by decide, by decide, by decide,
    by decide, by decide, by decide, by decide, by decide, by decide, by decide, by decide, by decide, by decide, by decide,
    by decide +kernel⟩

/-- An INIT of session 0, and a record of the log. -/
def initFrame (kid : List Byte) : DapFrame :=
  { bareFrame 1 ([1, 0, 0, 0] ++ kid ++ List.replicate 1600 0) with sessionId := 0, tag := List.replicate 32 0 }
def record : LogRec := ⟨4, 0, 0, 0xFF, 0, 0, []⟩

/-- 32 sessions of the host. -/
def crowd : List Session := (List.range 32).map (fun i => { session true [] with sid := i + 1 })

theorem witness_DapSessions :
    (let s := at_ { served [] with flash := { keys := [keyed kid0 1] } }
     let f := initFrame kid0
     s.calm = true ∧ s.chip.isTarget f = true ∧ frameFits f = true ∧ f.msgType = 1 ∧ field f.body 0 1 = 1
       ∧ roleCode (field f.body 0 1) = some .host ∧ roleCode 3 = some .service ∧ roleCode 4 = some .safety ∧ field f.body 1 3 = 0
       ∧ f.sessionId = 0 ∧ kid0 = (f.body.drop 4).take 32 ∧ bit 1 (useBit .host) = true ∧ s.chip.dap.sessions.length < 32
       ∧ kid0 ≠ ((initFrame (List.replicate 32 2)).body.drop 4).take 32 ∧ (served []).flash.keys = [])
    ∧ (let s := at_ { served [] with flash := { keys := [keyed kid0 1] }, dap := { sessions := crowd } }
       s.calm = true ∧ s.chip.isTarget (initFrame kid0) = true ∧ 32 ≤ s.chip.dap.sessions.length)
    ∧ (let x := session true [sub0]
       let s := at_ { withSession x with log := [record] }
       s.calm = true ∧ s.chip.dap.sessions = [x] ∧ x.sid = (1 : U32).toNat ∧ x.isOpen = true ∧ x.subs = [sub0]
         ∧ s.chip.log = [record] ∧ Chip.subMatches sub0 record = true ∧ sub0.next ≤ record.seq
         ∧ Chip.subMatches { sub0 with classMask := 0 } record = false ∧ x.seqOut + 3 < 2 ^ 32 - 1)
    ∧ (let x := session true [{ sub0 with sent := [4] }]
       let s := at_ { withSession x with log := [record] }
       ((s.chip.log.filter (fun r => ([4] : List Nat).contains r.seq)).reverse).length = 1)
    ∧ (let x := session false []; x.isOpen = false ∧ x.sid = (1 : U32).toNat)
    ∧ (let f := { initFrame kid0 with targetNode := 2 }
       let s := at_ (served [(0x4010, 3, 2)])
       s.calm = true ∧ s.chip.isTarget f = false ∧ s.chip.reg 0x4010 2 = 0 ∧ 2 ≤ s.chip.reg 0x4010 3
         ∧ (f.targetNode.toNat ≠ (1 : U16).toNat) ∧ f.msgType ≠ 4
         ∧ s.chip.fresh.route 4 0 s.chip.node 2 none true (.dap 2 s.chip.node f) = none)
    ∧ (let f := frame 0x10 readBody
       let s := at_ (served [(0x4010, 3, 2)])
       s.calm = true ∧ s.chip.isTarget f = true ∧ 2 ≤ s.chip.reg 0x4010 3 ∧ f.msgType = 0x10 ∧ s.chip.dap.p2hValid = [])
    ∧ (let s := at_ { served [(0x4010, 3, 2)] with dap := { p2hValid := [0] } }
       s.calm = true ∧ s.chip.dap.p2hValid ≠ [] ∧ 2 ≤ s.chip.reg 0x4010 3) := by
  refine ⟨?_, ?_, ?_, ?_, ?_, ?_, ?_, ?_⟩ <;> decide +kernel

/-- A CONFIRM that fits meets the hypotheses about it. -/
theorem witness_DapSessions_confirm (body : List Byte) :
    (let s := at_ (withSession (session false []))
     let f := frame 3 body
     s.calm = true ∧ s.chip.isTarget f = true ∧ f.msgType = 3 ∧ s.chip.dap.sessions = [session false []] ∧ f.sessionId.toNat = 1
       ∧ transportFits (session false []).role .mgmt = true ∧ f.tag = tagOf (session false []).keyIn f
       ∧ (session false []).seqIn < f.msgSeq.toNat) :=
  ⟨rfl, rfl, rfl, rfl, rfl, rfl, rfl, Nat.one_pos⟩

theorem confirm_fits : frameFits (frame 3 (List.replicate 4627 0)) = true := by decide +kernel

/-- A frame for node 2 leaves by the port to it, also one from the host port while the bridge is active. -/
theorem witness_DapSessions_forward :
    (∃ u, near.fresh.route 4 0 near.node ({ initFrame kid0 with targetNode := 2 } : DapFrame).targetNode.toNat none true
      (.dap 2 near.node (initFrame kid0)) = some u)
    ∧ (let s := near.setReg 0x4010 2 1
       s.reg 0x4010 2 ≠ 0 ∧ ∃ u, { s.fresh with dap := { s.dap with forwarded := [(2, 0)] } }.route 4 0 s.node 2 none true
        (.dap 2 s.node (initFrame kid0)) = some u) :=
  ⟨route_near _ _ _ _ _ _ _ (by decide) (by decide) (by decide) (by decide) (by decide),
    by decide, route_near _ _ _ _ _ _ _ (by decide) (by decide) (by decide) (by decide) (by decide)⟩

/-! ### Copies, memory and jobs -/

/-- A copy of one row of 16 bytes within local memory, for no job, and its run in front of engine 0. -/
def rowCopy (op : Byte) : CopyDesc :=
  { fillDesc with
    opcode := op, srcFormat := 0x08, dstFormat := 0x08, cols := 16, src := if op = 3 then 7 else loc 0, dst := loc 1024
    srcRowStride := if op = 3 then 0 else 64, convAddr := if op = 2 then loc 32 else 0 }
/-- Engine 0 of node 1 with those queues, and no job. -/
def copying (j sv : List CopyRun) : Chip := { regs := words [(0x4001, 1, 1)], engines := [(0, { job := j, service := sv })] }

theorem no_jobs (s : Chip) (h : s.jobs = []) : ∀ n x, s.job n = some x → x.seeding = false := by
  intro n x e; rw [Chip.job, h] at e; cases e

/-- A CONVERT of four FP64 elements to FP32 with the block at local byte 32. -/
def converting : CopyDesc := { rowCopy 2 with srcFormat := 1, dstFormat := 2, cols := 4 }

/-- Burist's guarded copy of 128 KiB of HBM, and it in front of engine 0's service queue. -/
def guarded : CopyDesc :=
  { rowCopy 1 with
    cflags := 2, cols := 131072, src := BitVec.ofNat 64 (2 ^ 48 + 65536), dst := BitVec.ofNat 64 (2 ^ 48 + 1048576)
    srcRowStride := 131072, dstRowStride := 131072 }
def taking : CopyRun := { copyRun guarded with started := true, granules := [1, 2] }
/-- A descriptor that has ended, with a record at local byte 64. -/
def ending (op : Byte) (o : U16) : CopyRun :=
  { copyRun { rowCopy op with completionAddr := loc 64, signalObj := o } with started := true, done := true }

theorem witness_CopyEngines :
    (copying [] (List.replicate 16 (copyRun fillDesc))).serviceRoom 0 = false
    ∧ (∀ d ∈ [rowCopy 1, converting, rowCopy 3, guarded],
       let c := { copying [] [] with mem := (blockCore 2).mem }
       (c.engine 0).waiting = [] ∧ c.serviceRoom 0 = true ∧ (CopyField.guard d = false ∨ c.guardsHeld 0 < 8)
         ∧ c.fresh.copyCode 0 0xFF true d = 0 ∧ d.cvc = 0xFFFF ∧ c.engineState 0 = 1)
    ∧ CopyField.guard guarded = true
    ∧ (∀ op ∈ [(1 : Byte), 2, 3], Sys2Proof.Claims.moves (at_ (copying [copyRun (rowCopy op)] [])) 0 .job (copyRun (rowCopy op)) op
        ∧ (rowCopy op).rows = 1 ∧ (rowCopy op).srcFormat = 0x08 ∧ (rowCopy op).dstFormat = 0x08
        ∧ CopyField.transpose (rowCopy op) = false) := by
  refine ⟨by decide, by decide, by decide, ?_⟩
  intro op h
  simp only [List.mem_cons, List.not_mem_nil, or_false] at h
  rcases h with rfl | rfl | rfl <;>
    exact ⟨⟨by decide, by decide, by decide, by decide, by decide, by decide, by decide, by decide, by decide, by decide,
      ⟨by decide, by decide, by decide, no_jobs _ rfl⟩, by decide⟩, by decide, by decide, by decide, by decide⟩

theorem witness_CopyEngines_ends :
    (∀ e ∈ [((1 : Byte), (0xFFFF : U16)), (1, 5), (2, 0xFFFF)],
       let r := ending e.1 e.2
       let s := at_ (copying [r] [])
       s.calm = true ∧ s.chip.copyFront 0 .job = some r ∧ s.chip.copyDone 0 .job r = true ∧ s.chip.engineState 0 = 1
         ∧ r.holds = false ∧ r.status = 0 ∧ r.guardStalls = 0 ∧ r.purpose = 0 ∧ r.desc.completionAddr ≠ 0
         ∧ r.desc.completionAddr.toNat % 32 = 0 ∧ s.chip.checkCopy r.slot r.desc.completionAddr.toNat 32 true = 0
         ∧ r.desc.arrivalObj = 0xFFFF)
    ∧ Sys2Proof.Claims.unguarded (copying [ending 1 5] []) ∧ Chip.namesObj 5 = true
    ∧ (let s := at_ (copying [] [taking])
       s.calm = true ∧ s.chip.copyFront 0 .service = some taking ∧ 1 ∉ [2] ∧ (s.chip.engine 0).promoted = [] ∧ s.chip.poison = []
         ∧ s.chip.fab.heldReplies = [] ∧ (∀ p ∈ s.chip.engines, p.2.stalled = []) ∧ s.chip.isRemote guarded.dst.toNat = false
         ∧ (∀ w ∈ Chip.granulePieces guarded 1, ∀ p ∈ s.chip.engines, ∀ x ∈ p.2.service, ∀ h ∈ x.granules,
              65536 * h + 65536 ≤ addrOff w.1 ∨ addrOff w.1 + w.2.2 ≤ 65536 * h)) := by
  refine ⟨fun e he => ?_, ⟨by decide, by decide, by decide, no_jobs _ rfl⟩, by decide, by decide⟩
  match e, he with
  | _, .head _ => decide
  | _, .tail _ (.head _) => decide
  | _, .tail _ (.tail _ (.head _)) => decide

/-- Regions of an ended job in slot 0. -/
def ended0 : Chip := { regs := words [(0x4001, 1, 1), (0x5100, 2, 2097152)] }

/-- The scrubber stands at the first line of those regions, or behind the last one that its stack has. -/
theorem ended0_scrubbed : ended0.scrubbed 0 = [(0, 32768)] := by
  have h : ((List.range 8).filterMap (fun j =>
      let ix := 0x5100 + 8 * j + 2 * 0
      if ended0.reg ix 2 = 0 then none else some (ended0.reg ix 1 / 64, (ended0.reg ix 1 + ended0.reg ix 2) / 64)))
      = [(0, 32768)] := by decide
  unfold Chip.scrubbed; rw [h]; simp

theorem witness_MemoryBackground :
    ((core.job 0).isSome = true)
    ∧ (ended0.job 0 = none ∧ ∀ d, d < 4 → ended0.enginesUp d ≠ [])
    ∧ ended0.reg 0x5010 1 ≠ 0 ∧ (ended0.setReg 0x5010 1 0).reg 0x5010 1 = 0
    ∧ (Chip.scrubNext 0 0 (ended0.scrubbed (0 / 3)) = some 0 ∧ Chip.scrubNext 0 32768 (ended0.scrubbed (0 / 3)) = none)
    ∧ (64 * 0 < hbmEnd ∧ ended0.detectOnly 0 = false ∧ SMap.get false ended0.poison 0 = false ∧ ended0.reacts 4 = false)
    ∧ ((17 : ClusterId).val / 16 = (1 : DieId).val ∧ (17 : ClusterId).val / 16 ≠ (0 : DieId).val)
    ∧ (let c := { core with fab := { lines := [(0, 64, [])] } }; (64 : U64).toNat % 64 = 0 ∧ ∀ x ∈ c.fab.lines, x.2.1 % 64 = 0) := by
  refine ⟨by decide, ⟨by decide, by decide⟩, by decide, by decide, ?_, by decide, by decide, by decide⟩
  rw [show (0 : Nat) / 3 = 0 from rfl, ended0_scrubbed]; decide

/-- Job `x` in slot 0 of node 1 in JOB_STATE `st`, with node 1 as acting anchor. -/
def inState (st : Nat) (x : Job) : Chip :=
  { regs := words [(0x4001, 1, 1), (0x2300, 4, 3), (0x6001, 2, st), (0x6001, 5, 1), (0x6001, 6, 1)], jobs := [(0, some x)] }

theorem of_one_job (s : Chip) (x : Job) (h : s.jobs = [(0, some x)]) (hx : x.seeding = false) :
    ∀ n y, s.job n = some y → y.seeding = false := by
  intro n y e
  by_cases hn : n = 0
  · subst hn; simp [Chip.job, h, SMap.get] at e; exact e ▸ hx
  · simp [Chip.job, h, SMap.get, Ne.symm hn] at e

theorem steady_of (s : Chip) (hp : s.pendingOff = []) (h1 : ∀ i ∈ List.range 4, ∀ j ∈ List.range 64, s.reg (0x3100 + i) (j + 1) ≠ 2)
    (h2 : ∀ i ∈ List.range 8, ∀ j ∈ List.range 64, s.reg (0x3300 + i) (j + 1) ≠ 2)
    (h3 : ∀ i ∈ List.range 4, ∀ j ∈ List.range 16, s.reg (0x3200 + i) (j + 1) ≠ 2)
    (h4 : ∀ i ∈ List.range 4, ∀ j ∈ List.range 32, s.reg (0x5200 + i) (j + 1) ≠ 2)
    (h5 : ∀ i ∈ List.range 256, s.reg (0x7100 + i) 1 ≠ 2) : Sys2Proof.Claims.steady s := by
  refine ⟨hp, fun u => ?_⟩
  cases u with
  | array c a =>
    have := h2 (2 * (c.val / 64) + a.val) (List.mem_range.2 (by omega)) (c.val % 64) (List.mem_range.2 (by omega))
    rwa [← Nat.add_assoc] at this
  | core c => exact h1 (c.val / 64) (List.mem_range.2 (by omega)) (c.val % 64) (List.mem_range.2 (by omega))
  | solver k => exact h3 (k.val / 16) (List.mem_range.2 (by omega)) (k.val % 16) (List.mem_range.2 (by omega))
  | engine e => exact h4 (e.val / 32) (List.mem_range.2 (by omega)) (e.val % 32) (List.mem_range.2 (by omega))
  | channel n => exact h5 n.val (List.mem_range.2 n.isLt)

/-- A command block on slot 0. -/
def block : CommandBlock :=
  { cflags := 0, slot := 0, reserved := 0, commandId := 8, jobId := 7, arg0 := 0, arg1 := 0, arg2 := 0, reservedTail := 0 }
/-- The job of one member. -/
def alone1 : Job := { jobOf [1] with memberStates := [⟨1, 0, false, false, false, true⟩] }
/-- It with one data shard to load, a checkpoint policy, or coupled. -/
def withShard : Job := { alone1 with pacing := some ⟨1, 0, 1, [⟨1, 13850, 0, 0, 0⟩]⟩ }
def policy0 : CkptPolicy := ⟨0, 13850, 0, 65536, 4096, 65536⟩
def withPolicy : Job := { alone1 with policy := some policy0 }
def coupled1 : Job := { alone1 with coupling := some 0, exchange := [16384, 16385, 16386, 16387, 16388, 16389] }

/-- No core of the state drains. -/
theorem inState_cores (st : Nat) (x : Job) (h : st ∈ [1, 2, 3, 4]) (c : Nat) (hc : c ∈ List.range 256) : (inState st x).coreState c ≠ 2 := by
  have k : ∀ st ∈ [1, 2, 3, 4], ∀ q ∈ List.range 4, ∀ r ∈ List.range 64, (inState st (jobOf [1])).reg (0x3100 + q) (r + 1) ≠ 2 := by decide
  have := List.mem_range.1 hc
  exact k st h (c / 64) (List.mem_range.2 (by omega)) (c % 64) (List.mem_range.2 (by omega))

theorem inState_steady (st : Nat) (h : st ∈ [1, 2, 3, 4, 5, 6]) (x : Job) : Sys2Proof.Claims.steady (inState st x) := by
  have k : ∀ st ∈ [1, 2, 3, 4, 5, 6], (∀ i ∈ List.range 4, ∀ j ∈ List.range 64, (inState st (jobOf [1])).reg (0x3100 + i) (j + 1) ≠ 2)
      ∧ (∀ i ∈ List.range 8, ∀ j ∈ List.range 64, (inState st (jobOf [1])).reg (0x3300 + i) (j + 1) ≠ 2)
      ∧ (∀ i ∈ List.range 4, ∀ j ∈ List.range 16, (inState st (jobOf [1])).reg (0x3200 + i) (j + 1) ≠ 2)
      ∧ (∀ i ∈ List.range 4, ∀ j ∈ List.range 32, (inState st (jobOf [1])).reg (0x5200 + i) (j + 1) ≠ 2)
      ∧ (∀ i ∈ List.range 256, (inState st (jobOf [1])).reg (0x7100 + i) 1 ≠ 2) := by decide +kernel
  obtain ⟨k1, k2, k3, k4, k5⟩ := k st h
  exact steady_of _ rfl k1 k2 k3 k4 k5

theorem inState_unguarded (x : Job) (h : x.seeding = false) (st : Nat) : Sys2Proof.Claims.unguarded (inState st x) :=
  ⟨rfl, rfl, fun _ hp => by simp [inState] at hp, of_one_job _ x rfl h⟩

theorem witness_JobCommands :
    (∀ e ∈ Sys2Proof.Claims.commandRows host block [], (at_ (served [])).chip.commandCode host e.1 block ≠ 0)
    ∧ (let s := at_ (inState 1 withShard)
       Sys2Proof.Claims.accepts s host 2 block ∧ s.chip.job 0 = some withShard ∧ Chip.shardCount withShard ≠ 0)
    ∧ (let s := at_ (inState 1 alone1)
       Sys2Proof.Claims.accepts s host 2 block ∧ s.chip.job 0 = some alone1 ∧ Chip.shardCount alone1 = 0
         ∧ jobCoupled alone1 = false ∧ alone1.memberStates.map (·.node) = [s.chip.node] ∧ s.chip.actsAsAnchor 0 = true
         ∧ s.chip.serviceRuns 0 7 = false)
    ∧ (Sys2Proof.Claims.accepts (at_ (inState 3 alone1)) host 3 block ∧ jobCoupled alone1 = false
        ∧ Sys2Proof.Claims.accepts (at_ (inState 3 coupled1)) host 3 block ∧ jobCoupled coupled1 = true)
    ∧ Sys2Proof.Claims.accepts (at_ (inState 4 alone1)) host 4 block
    ∧ (Sys2Proof.Claims.accepts (at_ (inState 3 withPolicy)) host 5 block ∧ Sys2Proof.Claims.accepts (at_ (inState 3 alone1)) host 5 block
        ∧ alone1.policy = none ∧ alone1.ckpt = none ∧ Sys2Proof.Claims.accepts (at_ (inState 3 coupled1)) host 5 block
        ∧ coupled1.policy = none ∧ coupled1.ckpt = none)
    ∧ (∀ st ∈ [1, 3, 4, 5], Sys2Proof.Claims.accepts (at_ (inState st coupled1)) host 6 block ∧ (inState st coupled1).jobState 0 = st)
    ∧ Sys2Proof.Claims.accepts (at_ (inState 3 alone1)) host 6 block
    ∧ Sys2Proof.Claims.accepts (at_ (inState 3 alone1)) host 7 { block with arg0 := 1024 } := by
  simp only [Sys2Proof.Claims.accepts]
  refine ⟨?_, ?_, ?_, ?_, ?_, ?_, ?_, ?_, ?_⟩ <;> decide +kernel

/-- A LOAD from the staging object; which bundles can be lowered is a free value, so the witness is of a refused one. -/
theorem witness_JobCommands_load :
    (let b := { block with slot := 0xFF, jobId := 0, arg0 := 1 }
     let s := at_ (served [])
     let h := { Sys2Proof.Claims.begun s ⟨1, host, b, []⟩ with staging := { s.chip.staging with reading := true } }
     Sys2Proof.Claims.accepts s host 1 b ∧ b.arg0.toNat % 256 = 1 ∧ host.role = .host
       ∧ h.judge (SMap.getRange 0 s.chip.staging.data b.arg1.toNat b.arg2.toNat) .local_ = some ⟨1, Code.outOfRange, 0xFF, 0⟩
       ∧ h.freeSlot = some 0) := by
  simp only [Sys2Proof.Claims.accepts]; decide +kernel

/-- Job `x` in state `st` with its step or exchange object 16384 at `v`. -/
def stepped (st : Nat) (x : Job) (v : U64) : Chip := { inState st x with objs := [(16384, { value := v, owner := 0 })] }

/-- Job 7 on nodes 1 and 2, node 1 its anchor. -/
def pair : Job := { jobOf [1, 2] with
  anchor := 1, memberStates := [⟨1, 0, false, false, false, true⟩, ⟨2, 1, false, false, true, false⟩] }

/-- A link between nodes 1 and 2 in the database. -/
def withLink (s : Chip) : Chip := { s with fab := { s.fab with lsdb := [⟨1, 0, 3, 2, 4, 7, false, 1, 1⟩, ⟨2, 0, 3, 1, 4, 7, false, 2, 1⟩] } }

/-- The coupled job as its boundary finds it: nothing asked, a pause, a stop, and with a policy a checkpoint. -/
def asked (k : Nat) : Job :=
  { coupled1 with pauseReq := k = 1, stopReq := k = 2, ckptReq := k = 3, policy := if k = 3 then some policy0 else none }

theorem witness_JobControl :
    ((at_ (served [])).calm = true ∧ (served []).boot.bundle = none)
    ∧ (∀ st ∈ [3, 6], ∀ k ∈ [0, 1, 2, 3],
       let x := asked k
       let s := at_ (stepped st x 2)
       s.calm = true ∧ s.chip.job 0 = some x ∧ (if jobCoupled x then x.exchange.head? else jobStepObj x) = some 16384
         ∧ s.chip.pendingOff = [] ∧ (s.chip.lostMembers x).1 = [] ∧ s.chip.jobState 0 = st ∧ x.afterCommit = false
         ∧ (s.chip.reg 0x6001 4 + 1) % 2 ^ 64 + 1 ≤ (s.chip.obj 16384).value.toNat
         ∧ ((stepped st x 0).obj 16384).value.toNat < (s.chip.reg 0x6001 4 + 1) % 2 ^ 64 + 1) := by
  refine ⟨?_, ?_⟩ <;> decide +kernel

/-- The stop at a boundary: no unit drains and nothing is guarded. -/
theorem witness_JobControl_stop : Sys2Proof.Claims.steady (stepped 3 (asked 2) 2) ∧ Sys2Proof.Claims.unguarded (stepped 3 (asked 2) 2) :=
  ⟨⟨rfl, (inState_steady 3 (by decide) (asked 2)).2⟩, rfl, rfl, fun _ hp => by simp [stepped, inState] at hp, of_one_job _ _ rfl rfl⟩

theorem witness_JobControl_quorum :
    (∀ l ∈ [[1, 2], [1]], let x := { pair with live := l }
       let s := at_ (withLink (inState 3 x))
       s.calm = true ∧ s.chip.job 0 = some x ∧ (∀ p ∈ s.chip.engines, ∀ r ∈ p.2.service, r.purpose ≠ 3) ∧ s.chip.jobState 0 = 3
         ∧ x.ckpt = none ∧ s.chip.node = 1 ∧ s.chip.reachable 2 = true ∧ s.chip.reg 0x6001 5 = 1 ∧ x.live ≠ [])
    ∧ (pair.memberStates.map (·.node)).filter (fun n => [(1, 1), (2, 1)].contains (n, 1)) = [1, 2]
    ∧ (pair.memberStates.map (·.node)).filter (fun n => [(1, 1)].contains (n, 1)) = [1]
    ∧ (2 * [1].length = pair.members.length ∧ pair.anchor ∈ [1])
    ∧ (let x := { pair with anchor := 2 }
       (withLink (inState 3 x)).job 0 = some x ∧ ¬(x.members.length < 2 * [1].length) ∧ ¬(x.anchor ∈ [1]))
    ∧ (1 < ((2, 5) : Nat × Nat).2) := by
  refine ⟨?_, ?_, ?_, ?_, ?_, ?_⟩ <;> decide +kernel

/-- A bundle that arrives for job 9 by way of node 2. -/
def cast : Broadcast := { jobId := 9, parent := 2, alt := 3, anchor := 2 }
def casting (c : Broadcast) : Chip :=
  { near with casts := [c], jobs := [], fab := { lsdb := [⟨1, 0, 3, 2, 4, 7, false, 1, 1⟩, ⟨2, 0, 3, 3, 4, 7, false, 2, 1⟩] } }

/-- The job on nodes 1 and 2 while it loads or starts, with or without a spare. -/
def starting (ld : Bool) (sp : List Nat) : Job := { pair with loading := ld, spareMode := if sp = [] then 0 else 1, spares := sp }

/-- The job of one member with a tensor of 16 bytes and its shard. -/
def oneTensor : Tensor := ⟨5, 0x08, 1, 0, 1, [1, 1, 1, 1, 1, 16], 0, 0, 0, 0, 0, 0, 0, [(0, 64)]⟩
def shardJob (digests : Nat) (rd : Bool) : Job :=
  { alone1 with pacing := some ⟨0, 0, 1, [⟨5, 13850, 0, 0, digests⟩]⟩, tensors := [oneTensor], shardsLeft := [0, 1], reading := rd }

/-- The package where it is not the anchor of slot 0. -/
def member (s : Chip) : Chip := s.setReg 0x6001 6 2

theorem witness_Starts :
    (let s := at_ (casting cast)
     s.calm = true ∧ s.chip.castFor 9 = cast ∧ s.chip.slotOfJobId 9 = 0xFF ∧ s.chip.job 0xFF = none ∧ cast.children = []
       ∧ SMap.get [] cast.chunks 3 = [] ∧ cast.complete = false ∧ s.chip.castOf 9 = some cast ∧ cast.anchor ≠ s.chip.node
       ∧ cast.alt ≠ cast.parent ∧ cast.alt ∉ cast.left ∧ s.chip.reachable cast.alt = true)
    ∧ (let c := { cast with chunks := [(3, [1])] }
       (casting c).castFor 9 = c ∧ SMap.get [] c.chunks 3 ≠ [] ∧ SMap.get [] c.chunks 4 = [])
    ∧ (∃ u, near.fresh.route 4 0 near.node (2 : U16).toNat none true (.note 2 (.probeReply 9)) = some u)
    ∧ (∀ ld ∈ [true, false], let x := starting ld []; let s := at_ (withLink (inState (if ld then 1 else 2) x))
       s.calm = true ∧ s.chip.slotOfJobId 7 = 0 ∧ s.chip.job 0 = some x ∧ s.chip.actsAsAnchor 0 = true
         ∧ x.memberStates.find? (fun m => m.node = 2) = some ⟨2, 1, false, false, true, false⟩
         ∧ (x.loading = true ∨ s.chip.jobState 0 = 2) ∧ x.memberStates.find? (fun m => m.node = 1) = some ⟨1, 0, false, false, false, true⟩)
    ∧ (let x := { starting false [] with memberStates := [⟨1, 0, false, false, false, true⟩, ⟨2, 1, false, false, false, true⟩] }
       let s := at_ (withLink (inState 2 x))
       s.calm = true ∧ s.chip.job 0 = some x ∧ s.chip.actsAsAnchor 0 = true ∧ x.loading = false ∧ s.chip.jobState 0 = 2
         ∧ x.memberStates.find? (fun m => m.node = 2) = some ⟨2, 1, false, false, false, true⟩
         ∧ ∀ m ∈ x.memberStates, m.node = 2 → m.suspect = false)
    ∧ (let x := { starting true [] with memberStates := [⟨1, 0, false, false, false, true⟩, ⟨2, 1, false, false, false, false⟩, ⟨3, 2, false, false, false, false⟩] }
       (inState 1 x).job 0 = some x
         ∧ (x.memberStates.map (fun m => if m.node = 2 then { m with loaded := true } else m)).all (·.loaded) = false)
    ∧ (Chip.awaited (starting true []) = [2] ∧ (starting true []).loading = true ∧ (inState 1 (starting true [])).jobState 0 = 1
        ∧ (inState 2 (starting false [])).jobState 0 = 2)
    ∧ (let x := { pair with anchor := 2, memberStates := [⟨1, 0, true, false, false, true⟩] }
       let s := at_ ((inState 2 x).setReg 0x6001 6 2)
       s.calm = true ∧ s.chip.job 0 = some x ∧ s.chip.actsAsAnchor 0 = false ∧ s.chip.jobState 0 = 2
         ∧ (∃ m ∈ x.memberStates, m.node = s.chip.node ∧ m.ready = true) ∧ x.restore = none)
    ∧ (∀ rd ∈ [true, false], let x := shardJob 0 rd; let s := at_ (inState 2 x)
       s.calm = true ∧ s.chip.job 0 = some x ∧ s.chip.jobState 0 = 2 ∧ x.shardsLeft ≠ [] ∧ s.chip.poison = [])
    ∧ (let x := shardJob 1 true
       0 ∈ x.shardsLeft ∧ x.tensors.find? (fun t => t.id = 5) = some oneTensor ∧ (List.replicate 16 (0 : Byte)).length = Bundle.tensorBytes oneTensor
         ∧ Chip.rateCap x = 0 ∧ 0 ∉ x.retried
         ∧ sha3_512 (List.replicate 16 0) ≠ [])
    ∧ (let x := { shardJob 1 true with retried := [0] }
       let s := at_ (member (inState 2 x))
       s.chip.job 0 = some x ∧ s.chip.actsAsAnchor 0 = false ∧ 0 ∈ x.retried) := by
  refine ⟨?_, ?_, route_near _ _ _ _ _ _ _ (by decide) (by decide) (by decide) (by decide) (by decide), ?_, ?_, ?_, ?_, ?_, ?_,
    ?_, ?_⟩ <;>
    decide +kernel

/-- A free spare takes the member's place; without one the start ends. -/
theorem witness_Starts_spare :
    (withLink (inState 2 (starting false [2]))).freeSpares { starting false [2] with memberStates := [] } = [2]
    ∧ (inState 2 (starting false [])).freeSpares (starting false []) = []
    ∧ Sys2Proof.Claims.unguarded (inState 3 (starting false [])) ∧ Sys2Proof.Claims.steady (inState 3 (starting false [])) := by
  refine ⟨?_, by simp [Chip.freeSpares, starting], inState_unguarded _ rfl _, inState_steady 3 (by decide) _⟩
  have h : ((starting false [2]).spares.filter (fun n => (withLink (inState 2 (starting false [2]))).reachable n
      && !(([] : List MemberState).any (fun m => m.node = n)) && !(starting false [2]).lost.contains n
      && (withLink (inState 2 (starting false [2]))).slotWhere (fun y => y.jobId ≠ (starting false [2]).jobId && y.members.contains n) = 0xFF)) = [2] := by
    decide
  unfold Chip.freeSpares
  show (List.filter _ (starting false [2]).spares).mergeSort _ = [2]
  rw [h]; simp

/-- The training record of a job with one entry, its controller, and the job. -/
def record0 (en : Bool) : Training :=
  { controlEn := en, rotEn := false, rotSize := 4, shadowPeriod := 64, demoteSteps := 32, backoffMax := 1024, promoteSteps := 1
    nonfiniteLimit := 2, eps4Hi := 0x3E800000, eps4Lo := 0x3E400000, eps8Hi := 0x3D800000, eps8Lo := 0x3D400000, rangeHi := 0
    doneObj := 0, decisionObj := 16384, stepObj := 1, evalInterval := 2, evalRole := 1, evalLoss := 5, evalGate := 0x3F800000
    entries := [⟨5, 0, 0, 1, 0, 2, false, 0x3F800000, 0, 0, 0, 0⟩] }
def control (n : Nat) (l : Option U64) : Controller := ⟨[⟨1, 0, 0, 32, none, 0⟩], 0, l, n, [], false, [], [], 0, none, 0, false⟩
def trained (x : Job) (n : Nat) (l : Option U64) (en : Bool) : Job := { x with training := some (record0 en), controller := some (control n l) }
def totals (n : Nat) (bad : Bool) : Totals := ⟨1, n, bad, [], [], [], 0, 0⟩

/-- A checkpoint of step 3 in its write step `p`. -/
def writing (p : Nat) : CkptRun :=
  { step := 3, phase := p, parts := [], snapshot := [], copies := [], failed := 0, quiesced := false, begun := true }
/-- The job with a policy whose core 0 counts on object 3 and waits at object 4. -/
def bounded : Job := { withPolicy with boundary := [(0, 3, 4)] }

theorem witness_RunningJobs_checkpoint :
    (let s := at_ (inState 3 withPolicy)
     s.calm = true ∧ s.chip.job 0 = some withPolicy ∧ s.chip.jobState 0 = 3 ∧ withPolicy.policy = some policy0
         ∧ s.chip.mustStop 0 withPolicy = false ∧ s.chip.partReached withPolicy .whole = true ∧ policy0.interval = 0
         ∧ withPolicy.selected ≠ some (withPolicy.gates.getD (partIx .whole) 0))
    ∧ (let x := { withPolicy with selected := some 0, ckpt := some (writing 2) }
       let s := at_ (inState 3 x)
       s.chip.job 0 = some x ∧ s.chip.mustStop 0 x = false ∧ s.chip.partReached x .whole = true
         ∧ x.selected = some (x.gates.getD (partIx .whole) 0) ∧ x.skipStep ≠ some (x.gates.getD (partIx .whole) 0))
    ∧ (let s := at_ (inState 3 bounded)
       s.chip.job 0 = some bounded ∧ s.chip.mustStop 0 bounded = false ∧ s.chip.partReached bounded .whole = false)
    ∧ (let k : CkptRun := { writing 0 with quiesced := true }
       let x := { alone1 with ckpt := some k }
       let s := at_ (inState 3 x)
       s.chip.job 0 = some x ∧ s.chip.jobState 0 = 3 ∧ x.policy = none ∧ s.chip.quiet 0 x = true ∧ x.afterCommit = false)
    ∧ (∀ p ∈ [3, 4], let x := { withPolicy with ckpt := some (writing p) }
       let s := at_ { member (inState 3 x) with fab := { settled := true, unsettled := [] } }
       s.calm = true ∧ s.chip.job 0 = some x ∧ x.ckpt = some (writing p) ∧ x.policy = some policy0 ∧ x.afterCommit = false
         ∧ (writing p).phase ≠ 0 ∧ s.chip.mayStore 0 = true ∧ (writing p).failed = 0 ∧ s.chip.writesOpen 0 = false
         ∧ s.chip.actsAsAnchor 0 = false) := by
  refine ⟨?_, ?_, ?_, ?_, ?_⟩ <;> decide +kernel

theorem witness_RunningJobs_abandoned :
    Sys2Proof.Claims.unguarded (inState 3 { withPolicy with ckpt := some (writing 3) })
    ∧ Sys2Proof.Claims.steady (inState 3 { withPolicy with ckpt := some (writing 3) }) :=
  ⟨inState_unguarded _ rfl _, inState_steady 3 (by decide) _⟩

theorem witness_RunningJobs_training :
    (let x := trained alone1 3 none false
     let s := at_ (inState 3 x)
     s.calm = true ∧ s.chip.job 0 = some x ∧ s.chip.trains 0 = true ∧ (control 3 none).entries.length = (record0 false).entries.length
       ∧ s.chip.actsAsAnchor 0 = true ∧ (totals 3 false).step = (control 3 none).step ∧ (totals 3 false).node ∈ Chip.activeMembers x
       ∧ Chip.unreported x { control 3 none with totals := [totals 3 false] } = [] ∧ (control 3 none).withheldRun + 1 < (record0 false).nonfiniteLimit
       ∧ (totals 3 true).nonfinite = true ∧ Chip.unreported x { control 3 none with sent := true } ≠ [])
    ∧ (let x := trained pair 3 none true
       (inState 3 x).node ∈ Chip.activeMembers x ∧ (control 3 none).sent = false
         ∧ Chip.unreported x { control 3 none with sent := true, totals := [totals 3 false] } ≠ []
         ∧ Chip.unreported x { control 3 none with totals := [totals 3 false] } ≠ [])
    ∧ (let x := trained alone1 3 none true
       let s := at_ (member (inState 3 x))
       s.calm = true ∧ s.chip.job 0 = some x ∧ s.chip.actsAsAnchor 0 = false ∧ s.chip.trains 0 = true)
    ∧ (let x := trained alone1 4 none true
       let s := at_ (inState 3 x)
       (record0 true).evalInterval ≠ 0 ∧ (4 : Nat) % (record0 true).evalInterval = 0 ∧ (control 4 none).evaluated ≠ 4
         ∧ s.chip.poison = [] ∧ (control 4 (some 0)).lossRef = some 0
         ∧ ((f32 (leNat (s.chip.readMem 0 4))).isFinite
            && FVal.le (f32 (leNat (s.chip.readMem 0 4))) (FVal.mul (f32 (record0 true).evalGate.toNat) (f32 (0 : U64).toNat))) = true)
    ∧ (let x := { trained alone1 4 (some 0) true with tensors := [{ oneTensor with fmt := 2 }] }
       let s := at_ ((inState 3 x).storeRaw 0 (leBytes 4 0x7F800000)).2
       (x.tensors.find? (fun tn => tn.id = 5)).bind (fun tn => tn.pieces.head?.map Prod.fst) = some 0
         ∧ (f32 (leNat (s.chip.readMem 0 4))).isFinite = false) := by
  refine ⟨?_, ?_, ?_, ?_, ?_⟩ <;> decide +kernel

/-- The backward pass of the one core has ended, however many of the job's cores train. -/
theorem witness_RunningJobs_totals :
    (let x := trained alone1 3 none true
     let s := { member (inState 3 x) with objs := [(0, { value := BitVec.ofNat 64 (2 ^ 63), owner := 0 })] }
     s.buristMet 0 (Chip.trainingCores x * 4) = true) := by
  have h : Chip.trainingCores (trained alone1 3 none true) ≤ 256 :=
    Nat.le_trans (List.length_filter_le _ _) (Nat.le_trans (List.length_filter_le _ _) (by simp))
  have hv : ({ member (inState 3 (trained alone1 3 none true)) with
      objs := [(0, { value := BitVec.ofNat 64 (2 ^ 63), owner := 0 })] } : Chip).obj 0 = { value := BitVec.ofNat 64 (2 ^ 63), owner := 0 } := by
    decide
  simp only [Chip.buristMet, hv]
  have hb : (member (inState 3 (trained alone1 3 none true))).buristWaits = [] := rfl
  simp [hb]
  omega

/-- The coupled job with its field and exchange tensors, before its first transfers. -/
def fieldJob : Job :=
  { coupled1 with
    res := { coupled1.res with channels := 15 }, bind := [0, 1, 2, 3], fields := [1, 2, 3, 4, 5, 6, 7, 8]
    tensors := [1, 2, 3, 4, 5, 6, 7, 8].map (fun i => { oneTensor with id := i, fmt := 2, pieces := [(1024 * i, 64)] })
    forward := ⟨0, 16384, 0, none⟩, ret := ⟨0, 20480, 0, none⟩ }
def fielded : Chip :=
  { inState 3 fieldJob with
    regs := words [(0x4001, 1, 1), (0x2300, 4, 3), (0x5100, 2, 2097152), (0x6001, 2, 3), (0x6001, 5, 1), (0x6001, 6, 1)]
    objs := [(16384, { value := 1, owner := 0 }), (16387, { value := 1, owner := 0 })] }

theorem witness_RunningJobs_coupler :
    (let s := at_ fielded
     let x := fieldJob
     s.calm = true ∧ s.chip.job 0 = some x ∧ s.chip.poison = [] ∧ s.chip.mayTransfer 0 x 0 = true
       ∧ x.forward.engine = none ∧ x.ret.engine = none
       ∧ s.chip.transferEngines ((bindStacks x.lower.bundle).getD 0 0) ≠ [] ∧ s.chip.transferEngines ((bindStacks x.lower.bundle).getD 2 0) ≠ []
       ∧ (∀ i ∈ [0, 4, 2, 6], (Chip.fieldTensor x i).isSome = true)
       ∧ (∀ o ∈ Chip.forwardTargets x 0, s.chip.buristMet o.1 o.2 = true)
       ∧ (∀ o ∈ Chip.returnTargets x 0, s.chip.buristMet o.1 o.2 = true) ∧ s.chip.jobState 0 = 3)
    ∧ Sys2Proof.Claims.unguarded fielded :=
  ⟨by decide +kernel, rfl, rfl, fun _ hp => by simp [fielded, inState] at hp, of_one_job _ fieldJob rfl rfl⟩

/-! ### Ill-formed terms are refused, well-formed ones accepted -/

/-- Two extents that overlap, and a frame whose tag is short. -/
def crossed : List Extent := [⟨0, [1, 2]⟩, ⟨1, [3]⟩]
def cut : DapFrame := { bareFrame 1 [] with tag := [0] }
/-- A message with 256 constituents, one with 4,097 bytes, and a collective message with too many tokens. -/
def crowded : Msg := { msgOf 1 with parts := List.replicate 256 part0 }
def large : Msg := { msgOf 2 with data := List.replicate 4097 0 }
def greedy : CollMsg := { collOf 2 with tokens := 65536 }

theorem test_wellFormed_stores :
    wellFormed (.load host block crossed) = false ∧ wellFormed (.start host block crossed) = false
    ∧ wellFormed (.load host block [⟨0, [1, 2]⟩, ⟨2, [3]⟩]) = true ∧ wellFormed (.start host block []) = true := by decide

theorem test_wellFormed_opcodes :
    ([Instr.solve 0 (tagFor 1) (cpEntry 0x11), .copy 0 (tagFor 1) (cpEntry 0x12), .prefetch 0 (tagFor 1) (cpEntry 0x40)].map
      wellFormed).all (!·) = true
    ∧ ([Instr.solve 0 (tagFor 1) (cpEntry 0x10), .copy 0 (tagFor 1) (cpEntry 0x11), .prefetch 0 (tagFor 1) (cpEntry 0x13)].map
      wellFormed).all id = true := by decide

theorem test_wellFormed_values (n : Nat) (h : 65535 < n) :
    wellFormed (.stageData host 0 (List.replicate n 0)) = false ∧ wellFormed (.keyEnroll host (List.replicate n 0)) = false
    ∧ wellFormed (.keyRevoke host (List.replicate n 0)) = false ∧ wellFormed (.nonce host (List.replicate n 0)) = false
    ∧ wellFormed (.dictionaryWrite host 0x4001 1 3 0 (List.replicate n 0)) = false
    ∧ wellFormed (.dictionaryWrite host 0x4001 1 3 0 [1, 0]) = true := by
  simp [wellFormed, maxValue]; omega

theorem test_wellFormed_frames :
    ([Instr.init .mgmt cut, .confirm .mgmt cut, .close .mgmt cut, .dapRead .mgmt cut, .dapWrite .mgmt cut, .writeMulti .mgmt cut
      , .subscribe .mgmt cut, .unsubscribe .mgmt cut, .eventAck .mgmt cut, .dapForward .mgmt cut, .h2pPoll (some cut)
      , .event 1 4, .eventResend 1 4].map wellFormed).all (!·) = true
    ∧ wellFormed (.init .mgmt { cut with tag := List.replicate 32 0 }) = true ∧ wellFormed (.h2pPoll none) = true := by decide

theorem test_wellFormed_objects :
    ([Instr.watchRegistration .burist 17408 1, .signalAdd 17408 1 0, .set 17408 1].map wellFormed).all (!·) = true
    ∧ wellFormed (.set 17407 1) = true := by decide

theorem test_wellFormed_links :
    ([Instr.audit 0 (hdr 1 0) (List.replicate 47 (0, 0)), .auditFail 0 (hdr 1 0) 48, .resync 0 (hdr 1 0) 0 (List.replicate 47 0)
      , .dataFlit 0 ⟨hdr 0 0, [], 0⟩, .idleFlit 0 ⟨hdr 0 0, [], 0⟩, .lsdbUpdate 0 ⟨16384, 0, 3, 0, 4, 7, false, 0, 0⟩ none
      , .lsdbUpdate 0 ⟨0, 48, 3, 0, 4, 7, false, 0, 0⟩ none, .quorumSettle 0 [(16384, 0)], .hostLinkTraining true 3].map
        wellFormed).all (!·) = true
    ∧ wellFormed (.dataFlit 0 (flitOf (hdr 0 0))) = true ∧ wellFormed (.hostLinkTraining true 16) = true := by decide +kernel

theorem test_wellFormed_messages :
    ([Instr.read arr crowded .clean, .write arr large .clean, .atomic arr crowded .clean, .remoteSignal arr crowded
      , .response arr large, .retry arr crowded, .rate arr crowded, .batch arr 1 2 [], .bulkWrite arr large
      , .bulkRead arr crowded .clean].map wellFormed).all (!·) = true
    ∧ wellFormed (.read arr (msgOf 1) .clean) = true ∧ wellFormed (.batch arr 1 2 [msgOf 2]) = true := by decide +kernel

theorem test_wellFormed_collectives :
    ([Instr.collectiveStart arr greedy, .go arr greedy, .lease arr greedy, .leaseReply arr greedy, .release arr greedy
      , .grant arr greedy, .data arr greedy, .result arr greedy, .abort arr greedy].map wellFormed).all (!·) = true
    ∧ wellFormed (.data arr (collOf 2)) = true := by decide

theorem test_wellFormed_jobs :
    ([Instr.attach 1 262145 7, .chunkArrival 7 262144 [0], .chunkArrival 7 0 [], .shardReadDone 0 0 [] []
      , .memberTotals 0 { totals 1 false with node := 16384 }, .stateVector 0 1 false (List.replicate 2049 0)
      , .inferenceBatchClose 0 65 false, .sensorReading ⟨0, 0, 0, 0, [], false⟩].map wellFormed).all (!·) = true
    ∧ wellFormed (.chunkArrival 7 0 [1]) = true ∧ wellFormed (.inferenceBatchClose 0 64 false) = true := by decide +kernel

/-! ### Worked examples of the spec -/

/-- The unit IDs of the worked example of 09_synchronisation.md. -/
theorem test_unit_ids :
    mkUnit 1 37 (4 * 0 + 2) = 0x10094002 ∧ mkUnit 1 37 (4 * 0 + 3) = 0x10094003 ∧ mkUnit 1 37 (4 * 128) = 0x10094200
    ∧ mkUnit 4 37 0 = 0x40094000 ∧ mkUnit 1 38 (4 * 5 + 3) = 0x10098017 ∧ mkUnit 3 37 8 = 0x30094008 := by decide

/-- The three fetch-adds of the worked example of 11_remote_memory.md: operands 7, 5 and 2 of cores 70, 5 and 200. -/
def adding (core operand : Nat) : Msg :=
  { msgOf 3 with mflags := 1, atype := 0, operand := BitVec.ofNat 64 operand
                 parts := [⟨BitVec.ofNat 32 (mkUnit 1 40 (4 * core + 3)), 1, 0, 0, 0, 0⟩] }
theorem test_combined_fetch_adds :
    mergeable (adding 70 7) (adding 5 5) = true
    ∧ (let m := mergeMsg (mergeMsg (adding 70 7) (adding 5 5)) (adding 200 2)
       m.operand = 14 ∧ m.parts.map (·.pfx) = [0, 7, 12] ∧ atomicOp m.aop.toNat m.atype.toNat 100 m.operand.toNat = 114
         ∧ m.parts.map (fun p => atomicOp m.aop.toNat m.atype.toNat 100 p.pfx.toNat) = [100, 107, 112]) := by decide

/-- The coalesced line of 11_remote_memory.md: bytes, counter 0x8010 and WRITES_COALESCED. -/
def writing_ (u at_ n b : Nat) (s : Chip) : Chip :=
  s.coalesce 0 { msgOf 2 with address := BitVec.ofNat 64 (2 ^ 48 + at_), data := List.replicate n (BitVec.ofNat 8 b) } u
theorem test_coalesced_line :
    (let t := writing_ 12 0 4 0x33 (writing_ 400 4 8 0x22 (writing_ 12 0 8 0x11 near))
     (List.range 12).map (fun i => (((t.ridge 0).entries.flatMap (·.bytes)).find? (fun b => b.1 = i)).map (·.2.1))
       = (List.replicate 4 (some 0x33) ++ List.replicate 8 (some 0x22))
     ∧ t.reg 0x8032 1 = 2) := by decide +kernel

/-- The PB4 block of 03_number_formats.md under RNE: its scale byte and its eight element bytes. -/
def block16 : List FVal :=
  [0x40D1EB85, 0xBF8F5C29, 0x41F70A3D, 0, 0xC2266666, 0x416147AE, 0x3E75C28F, 0xC0A8F5C3, 0x4199999A, 0x42466666, 0xC1733333
   , 0x41000000, 0xC1B851EC, 0x408A3D71, 0x42033333, 0xC119999A].map f32
theorem test_pb4_block :
    (let p := convPlane (Fmt.ofCode 0x20) (fun _ _ => .rne) true 16 [block16]
     p.scales = [0x91] ∧ packCodes 4 (p.codes.getD 0 []) = [0x01, 0x05, 0x3E, 0x90, 0x74, 0x2B, 0x1D, 0xA6]) := by decide +kernel

/-- Three elements of the same block under SR, with their draws. -/
theorem test_pb4_block_sr :
    (let f := Fmt.ofCode 0x20
     let c (i r : Nat) := blockCode f (.sr r) true 0x91 (block16.getD i FVal.zero)
     c 0 12058 = 2 ∧ c 5 8000 = 4 ∧ c 9 55555 = 6) := by decide +kernel

/-- The three rings of eight members of 12_collectives.md. -/
theorem test_rings :
    ringOrder 8 0 = [7, 0, 1, 6, 2, 5, 3, 4] ∧ ringOrder 8 2 = [7, 1, 2, 0, 3, 6, 4, 5] ∧ ringOrder 8 4 = [7, 2, 3, 1, 4, 0, 5, 6]
    ∧ directedRings 8 = 6 := by decide

end Sys2Proof.Tests
end

section
/-! SUPPORT. The proofs about the block as a whole (R15) and about single writes of the dictionary (R17, R417). -/

namespace Sys2Proof.Machine

/-! ## The queue and the part -/

/-- The outcome is a next state with the queue of `s`, on the same part. -/
def KeepsQueueAndPart (s : State) (o : Host.Outcome State Fault Refusal) : Prop :=
  ∃ t, o = .next t ∧ t.pending = s.pending ∧ t.plat.lf = s.plat.lf

theorem onChip_keeps (f : Chip → Chip) (s : State) : KeepsQueueAndPart s (onChip f s) := by
  cases h : s.plat.running with
  | true => exact ⟨_, onChip_running f s h, rfl, rfl⟩
  | false => exact ⟨s, onChip_held f s h, rfl, rfl⟩

@[simp] theorem powerDown_pending (s : State) (cause : TripCause) (vin : Nat) :
    (powerDown s cause vin).pending = s.pending := rfl

@[simp] theorem powerDown_lf (s : State) (cause : TripCause) (vin : Nat) :
    (powerDown s cause vin).plat.lf = s.plat.lf := rfl

@[simp] theorem releaseReset_pending (s : State) (x : Straps) : (releaseReset s x).pending = s.pending := by
  unfold releaseReset
  split <;> rfl

@[simp] theorem releaseReset_lf (s : State) (x : Straps) : (releaseReset s x).plat.lf = s.plat.lf := by
  unfold releaseReset
  split <;> rfl

theorem keepsQueueAndPart_next {s t : State} (hq : t.pending = s.pending) (hl : t.plat.lf = s.plat.lf) :
    KeepsQueueAndPart s (.next t) := ⟨t, rfl, hq, hl⟩

/-- A command that answers one of two states by a condition. -/
theorem keepsQueueAndPart_ite {p : Prop} [Decidable p] {s t u : State} (ht : KeepsQueueAndPart s (.next t))
    (hu : KeepsQueueAndPart s (.next u)) : KeepsQueueAndPart s (.next (if p then t else u)) := by
  split
  · exact ht
  · exact hu

/-- The commands of the pins change pins, rails and the package, never the queue or the part. -/
theorem exec_pinRow_keeps (c : Instr) (s : State) (h : pinRow c = true) : KeepsQueueAndPart s (exec c s) := by
  obtain rfl | rfl | ⟨k, v, rfl⟩ | rfl | ⟨x, rfl⟩ | ⟨l, rfl⟩ | ⟨x, rfl⟩ := pinRow_cases c h
  · exact keepsQueueAndPart_ite (keepsQueueAndPart_next rfl rfl) (keepsQueueAndPart_next rfl rfl)
  · exact keepsQueueAndPart_ite (keepsQueueAndPart_next rfl rfl) (keepsQueueAndPart_next rfl rfl)
  · exact keepsQueueAndPart_next (powerDown_pending ..) (powerDown_lf ..)
  · exact keepsQueueAndPart_ite (keepsQueueAndPart_next rfl rfl) (keepsQueueAndPart_next rfl rfl)
  · exact keepsQueueAndPart_next (releaseReset_pending ..) (releaseReset_lf ..)
  · obtain ⟨g, hg⟩ := execPerstN_shape l s
    rw [exec_perstN, hg]
    exact onChip_keeps g { s with plat := { s.plat with perstN := l } }
  · exact keepsQueueAndPart_next rfl rfl

/-- SENSOR_READING refreshes the package and then, at a die's trip point, powers it down (R449). -/
theorem execSensorReading_keeps (r : Readings) (s : State) : KeepsQueueAndPart s (execSensorReading r s) := by
  obtain ⟨t, ht, hq, hl⟩ := onChip_keeps (fun h => h.reading r) s
  simp only [execSensorReading, ht]
  exact keepsQueueAndPart_ite (keepsQueueAndPart_next ((powerDown_pending ..).trans hq) ((powerDown_lf ..).trans hl))
    (keepsQueueAndPart_next hq hl)

/-- Every command: those of the pins and SENSOR_READING by name, any other as one change of the package. -/
theorem exec_keeps (c : Instr) (s : State) : KeepsQueueAndPart s (exec c s) := by
  by_cases hr : ∃ r, c = .sensorReading r
  · obtain ⟨r, rfl⟩ := hr
    exact execSensorReading_keeps r s
  cases hp : pinRow c with
  | true => exact exec_pinRow_keeps c s hp
  | false =>
    obtain ⟨g, hg⟩ := exec_onChip c s hp (fun r h => hr ⟨r, h⟩)
    rw [hg]
    exact onChip_keeps g s

end Sys2Proof.Machine

/-- Settles O2, from what every command keeps. -/
theorem commandsKeepQueueAndPart : Obligations.CommandsKeepQueueAndPart := by
  unfold Obligations.CommandsKeepQueueAndPart
  exact Sys2Proof.Machine.exec_keeps

namespace Sys2Proof

/-! ## The code of a dictionary write, R417 -/

/-- A check that fails gives its code; one that passes leaves the code to the checks after it. -/
theorem Code.firstOf_need (b : Bool) (c : Nat) (t : List Nat) (hc : c ≠ 0) :
    Code.firstOf (Code.need b c :: t) = if b then Code.firstOf t else c := by
  cases b with
  | true => simp [Code.need, Code.firstOf]
  | false => simp [Code.need, Code.firstOf, hc]

end Sys2Proof

namespace Sys2Proof.Machine

namespace Chip

section

variable {s : Chip} {who : Client} {w : Write} {e : OEntry}

theorem writeCode_of_none (h : s.entryAt w.ix w.sub = none) : s.writeCode who w = Code.noSuchObject := by
  simp [writeCode, h]

/-- The checks of R417 on a subindex that exists, in their order. -/
theorem writeCode_of_some (h : s.entryAt w.ix w.sub = some e) :
    s.writeCode who w =
      if (e.acc = .wo || e.acc = .rw) && s.roleMay who w then
        if typeFits e w then
          if s.inRange e w then
            if !s.lockedOut who w then
              if s.stateFits w then 0 else Code.stateConflict
            else Code.locked
          else Code.outOfRange
        else Code.typeMismatch
      else Code.accessDenied := by
  simp only [writeCode, h]
  rw [Code.firstOf_need _ _ _ (by decide), Code.firstOf_need _ _ _ (by decide), Code.firstOf_need _ _ _ (by decide),
    Code.firstOf_need _ _ _ (by decide), Code.firstOf_need _ _ _ (by decide)]
  rfl

/-! The first check that fails gives the code. -/

theorem writeCode_denied (h : s.entryAt w.ix w.sub = some e) (hd : e.acc = .ro ∨ e.acc = .const ∨ s.roleMay who w = false) :
    s.writeCode who w = Code.accessDenied := by
  rw [writeCode_of_some h]
  obtain ha | ha | ha := hd <;> simp [ha]

section

variable (h : s.entryAt w.ix w.sub = some e) (ha : e.acc = .wo ∨ e.acc = .rw) (hr : s.roleMay who w = true)
include h ha hr

theorem writeCode_typeMismatch (ht : typeFits e w = false) : s.writeCode who w = Code.typeMismatch := by
  simp [writeCode_of_some h, ha, hr, ht]

variable (ht : typeFits e w = true)
include ht

theorem writeCode_outOfRange (hi : s.inRange e w = false) : s.writeCode who w = Code.outOfRange := by
  simp [writeCode_of_some h, ha, hr, ht, hi]

variable (hi : s.inRange e w = true)
include hi

theorem writeCode_locked (hl : s.lockedOut who w = true) : s.writeCode who w = Code.locked := by
  simp [writeCode_of_some h, ha, hr, ht, hi, hl]

variable (hl : s.lockedOut who w = false)
include hl

theorem writeCode_stateConflict (hf : s.stateFits w = false) : s.writeCode who w = Code.stateConflict := by
  simp [writeCode_of_some h, ha, hr, ht, hi, hl, hf]

theorem writeCode_ok (hf : s.stateFits w = true) : s.writeCode who w = 0 := by
  simp [writeCode_of_some h, ha, hr, ht, hi, hl, hf]

end

/-! ## Writes that pass -/

/-- The objects whose subindices are settings that have no effect and no state condition of their own. -/
def plainIndices : List Nat := [0x2100, 0x4020, 0x4030, 0x4040, 0x5010, 0x5020, 0x6200]

theorem stateFits_of_plain (h : w.ix ∈ plainIndices) : s.stateFits w = true := by
  obtain ⟨ix, sub, ty, offset, bytes⟩ := w
  simp only [plainIndices, List.mem_cons, List.not_mem_nil, or_false] at h
  obtain rfl | rfl | rfl | rfl | rfl | rfl | rfl := h <;> rfl

theorem unitAt_of_plain {ix : Nat} (sub : Nat) (h : ix ∈ plainIndices) : unitAt ix sub = none := by
  simp only [plainIndices, List.mem_cons, List.not_mem_nil, or_false] at h
  obtain rfl | rfl | rfl | rfl | rfl | rfl | rfl := h <;> simp [unitAt, Objects.within]

theorem applyWrite_of_plain (lf : Bool) (h : w.ix ∈ plainIndices) :
    s.applyWrite lf w = s.setReg w.ix w.sub w.num := by
  obtain ⟨ix, sub, ty, offset, bytes⟩ := w
  simp only [plainIndices, List.mem_cons, List.not_mem_nil, or_false] at h
  obtain rfl | rfl | rfl | rfl | rfl | rfl | rfl := h <;> simp [applyWrite, Objects.within]

/-- A refused write answers its code and changes nothing. -/
theorem write_refused (lf tested : Bool) (origin : Option Origin) (h : s.writeCode who w ≠ 0) :
    s.write lf who w tested origin = (some (s.writeCode who w), s) := by
  simp [write, h]

/-- A plain setting that passes every check is stored. -/
theorem write_plain (lf tested : Bool) (origin : Option Origin) (hc : s.writeCode who w = 0) (h : w.ix ∈ plainIndices) :
    s.write lf who w tested origin = (some 0, s.setReg w.ix w.sub w.num) := by
  have hcmd : w.ix ≠ 0x6000 := fun hw => absurd (hw ▸ h) (by decide)
  simp [write, hc, hcmd, unitAt_of_plain w.sub h, applyWrite_of_plain lf h]

end

end Chip

/-! ## The command -/

/-- A dictionary write whose effect leaves the link-state database and the command queue as they were answers its code with that
effect. -/
theorem execDictionaryWrite_of_write {s : State} {who : Client} {index : U16} {sub ty : Byte} {offset : U64} {bytes : List Byte}
    {c : Nat} {t : Chip} (hs : s.calm = true)
    (hw : s.chip.fresh.write s.plat.lf who ⟨index.toNat, sub.toNat, ty.toNat, offset.toNat, bytes⟩ false none = (some c, t))
    (hl : t.fab.lsdb = s.chip.fab.lsdb) (hq : t.cmds = s.chip.cmds) :
    execDictionaryWrite who index sub ty offset bytes s = .next (s.on (t.emit (.answer c []))) := by
  have hcmds : (t.emit (.answer c [])).cmds = [] := hq.trans (Chip.calm_cmds (State.calm_chip hs))
  have hlinks : s.chip.fresh.afterLinks (t.emit (.answer c [])) = t.emit (.answer c []) :=
    Chip.afterLinks_of_eq _ _ hl
  simp only [execDictionaryWrite, onServer_running _ s (State.calm_running hs), hw, hlinks,
    Chip.settleQueue_of_nil _ hcmds]

end Sys2Proof.Machine

section

open Sys2Proof Sys2Proof.Machine

/-- Settles O49: the first check that fails gives the code of a refused write, a plain setting that passes them all is stored, and
the rows of their own are the same write of one subindex. -/
theorem dictionaryRefuses : Obligations.DictionaryRefuses := by
  unfold Obligations.DictionaryRefuses
  refine ⟨fun s who index sub ty offset bytes hs => ?_, fun s who v off bs => ⟨rfl, rfl, rfl, rfl, rfl⟩⟩
  intro w refused
  -- The checks run on `s.chip.fresh`; those that do not draw on the free values read there as they do on `s.chip`.
  have refusal {c : Nat} (hc : s.chip.fresh.writeCode who w = c) (h0 : c ≠ 0) : refused c :=
    execDictionaryWrite_of_write hs (hc ▸ Chip.write_refused _ _ _ (hc ▸ h0)) rfl rfl
  refine ⟨fun hn => refusal (Chip.writeCode_of_none hn) (by decide), fun e he => ⟨?denied, fun ha hr => ⟨?type, fun ht =>
    ⟨?range, fun hi => ⟨?locked, ?state, ?stored⟩⟩⟩⟩⟩
  case denied => exact fun hd => refusal (Chip.writeCode_denied he hd) (by decide)
  case type => exact fun ht => refusal (Chip.writeCode_typeMismatch he ha hr ht) (by decide)
  case range => exact fun hi => refusal (Chip.writeCode_outOfRange he ha hr ht hi) (by decide)
  case locked => exact fun hl => refusal (Chip.writeCode_locked he ha hr ht hi hl) (by decide)
  case state => exact fun hl hf => refusal (Chip.writeCode_stateConflict he ha hr ht hi hl hf) (by decide)
  case stored =>
    intro hl hix
    have code := Chip.writeCode_ok (s := s.chip.fresh) he ha hr ht hi hl (Chip.stateFits_of_plain hix)
    have stored := Chip.write_plain s.plat.lf false none code hix
    exact execDictionaryWrite_of_write hs stored rfl rfl

end
end

section
/-! SUPPORT. The states that refute the statements about jobs: a job that runs in slot 0 of node 1, once with a stray lease, once
with a checkpoint in flight. -/

namespace Sys2Proof.Machine

/-! ## A package that runs one job -/

/-- A job of node 1 on core 0: uncoupled, without memory, services, channels or a checkpoint policy. -/
def loneJob : Job :=
  { jobId := 7, members := [1], anchor := 1, ownIndex := 0, roles := [(1, 1)], coupling := none, fields := [], exchange := []
    bind := [], tree := [], pacing := none, policy := none, spareMode := 0, spares := [], training := none, reproducible := false
    genMix := false, res := ⟨0, 0, [0, 0, 0, 0], 64, 64, 0, 0, 2, 0⟩, tensors := [], jobSeed := [], roleSeeds := [], digest := []
    signer := [], lower := ⟨[], 0, [], false, false⟩, comms := [], products := [], boundary := []
    memberStates := [⟨1, 0, true, false, false, true⟩], controller := none, forward := ⟨0, 0, 0, none⟩, ret := ⟨0, 0, 0, none⟩
    batcher := ⟨0, 0, 0⟩ }

/-- Node 1 at BOOT_PHASE 3 is the acting anchor of job `x` of slot 0, which runs (JOB_STATE 3) in epoch 1. -/
def runsJob (x : Job) (f : Fabric) : State :=
  { chip :=
    { regs := [(Objects.key 0x2300 4, 3), (Objects.key 0x4001 1, 1), (Objects.key 0x6001 2, 3), (Objects.key 0x6001 5, 1),
        (Objects.key 0x6001 6, 1)]
      jobs := [(0, some x)], fab := f } }

section

variable (x : Job) (f : Fabric)

theorem runsJob_job (n : Nat) : (runsJob x f).chip.job n = if 0 = n then some x else none := rfl

/-- No unit drains: the words of the unit states hold their defaults. -/
theorem runsJob_steady : Sys2Proof.Claims.steady (runsJob x f).chip := by
  refine ⟨rfl, fun u => ?_⟩
  -- The unit states read the dictionary alone, which is the same for every job.
  change (runsJob loneJob {}).chip.unitState u ≠ 2
  cases u with
  | array c a => revert c a; decide +kernel
  | core c => revert c; decide +kernel
  | solver k => revert k; decide +kernel
  | engine e => revert e; decide +kernel
  | channel n => revert n; decide +kernel

theorem runsJob_unguarded (hx : x.seeding = false) (hf : f.heldReplies = []) :
    Sys2Proof.Claims.unguarded (runsJob x f).chip := by
  refine ⟨rfl, hf, fun p hp => absurd hp List.not_mem_nil, fun n y hy => ?_⟩
  rw [runsJob_job] at hy
  split at hy
  · cases hy; exact hx
  · cases hy

end

/-- The dictionary's word at a subindex after a command that answers a next state. -/
def wordAfter (o : Host.Outcome State Fault Refusal) (ix sub : Nat) : Option Nat :=
  match o with
  | .next t => some (t.chip.reg ix sub)
  | _ => none

/-! ## STOP of a job with a stray lease -/

/-- A lease of job 7 for a Ridge die that the package does not have: returning it adds its tokens to 0x4040 at subindex 4 + `ridge`,
whose key is that of LAST_COMPLETED (0x6000:04). -/
def strayLease : Lease :=
  { ridge := Objects.key 0x6000 4 - Objects.key 0x4040 4, jobId := 7, comm := 0, seq := 0, tokens := 1, leader := 1 }

/-- That job with the lease. -/
def strayLeased : State := runsJob loneJob { leases := [strayLease] }

/-- The command block of a STOP of job 7 in slot 0, with COMMAND_ID 8. -/
def stopSlot0 : CommandBlock :=
  { cflags := 0, slot := 0, reserved := 0, commandId := 8, jobId := 7, arg0 := 0, arg1 := 0, arg2 := 0, reservedTail := 0 }

/-- A host that writes the command over the management port. -/
def mgmtHost : Client := ⟨.host, .mgmt, 0⟩

theorem strayLeased_accepts_stop : Sys2Proof.Claims.accepts strayLeased mgmtHost 6 stopSlot0 := by
  unfold Sys2Proof.Claims.accepts
  decide +kernel

/-- The returned lease counts LAST_COMPLETED on from COMMAND_ID 8. -/
theorem strayLeased_stop_lastCompleted : wordAfter (exec (.stop mgmtHost stopSlot0) strayLeased) 0x6000 4 = some 9 := by
  decide +kernel

/-! ## A stale epoch that meets a checkpoint in flight -/

/-- The job on nodes 1 and 2, with a checkpoint of step 0 that waits for its boundary. -/
def savingJob : Job :=
  { loneJob with
    members := [1, 2], memberStates := [⟨1, 0, true, false, false, true⟩, ⟨2, 1, true, false, false, true⟩]
    policy := some ⟨0, 13850, 0, 65536, 4096, 65536⟩
    ckpt := some { step := 0, phase := 0, parts := [], snapshot := [], copies := [], failed := 0, quiesced := false } }

/-- Node 1 with that job and a link to node 2 in the database. -/
def rejoined : State := runsJob savingJob { lsdb := [⟨1, 0, 3, 2, 4, 7, false, 1, 1⟩, ⟨2, 0, 3, 1, 4, 7, false, 2, 1⟩] }

/-- Where node 2 tells of epoch 5, the checkpoint is abandoned after the job status has taken the code of the stale epoch, and its
own code (R406) replaces that one. -/
theorem rejoined_settle_status :
    wordAfter (exec (.quorumSettle 0 [(2, 5)]) rejoined) 0x6001 3 = some Code.checkpointUncommitted := by
  decide +kernel

end Sys2Proof.Machine

open Sys2Proof.Machine

/-- Refutes O57: STOP returns the job's leases after it has shown the command as LAST_COMPLETED, and no clause confines a lease to
the two Ridge dies. -/
theorem not_jobCommands : ¬ Obligations.JobCommands := by
  unfold Obligations.JobCommands
  rintro ⟨-, hslot, -⟩
  obtain ⟨-, -, -, -, hstop, -⟩ := hslot strayLeased mgmtHost stopSlot0 [] loneJob (by decide) rfl
  obtain ⟨-, hends⟩ := hstop strayLeased_accepts_stop rfl (by decide) rfl
  obtain ⟨t, ht, -, -, -, -, -, -, hlast⟩ := hends (.inl rfl) (runsJob_steady _ _) (runsJob_unguarded _ _ rfl rfl)
  have shown := strayLeased_stop_lastCompleted
  rw [ht] at shown
  exact absurd (hlast.symm.trans (Option.some.inj shown)) (by decide)

/-- Refutes O58: a job whose epoch is stale ends with CHECKPOINT_UNCOMMITTED in its status where a checkpoint was in flight, not with
PARTITION_MINORITY. -/
theorem not_jobControl : ¬ Obligations.JobControl := by
  unfold Obligations.JobControl
  rintro ⟨-, -, hquorum⟩
  have notWriting : ∀ k, savingJob.ckpt = some k → k.phase ≠ 1 ∨ k.begun = true := by
    rintro k ⟨⟩
    exact .inl (by decide)
  obtain ⟨hstale, -⟩ := hquorum rejoined 0 [(2, 5)] savingJob (by decide +kernel) rfl (fun p hp => absurd hp List.not_mem_nil)
    (by decide +kernel) (by decide +kernel) notWriting
  obtain ⟨t, ht, -, -, hcode, -⟩ := hstale ⟨(2, 5), by decide +kernel, by decide +kernel⟩ (runsJob_steady _ _)
    (runsJob_unguarded _ _ rfl rfl)
  have shown := rejoined_settle_status
  rw [ht] at shown
  exact absurd (hcode.symm.trans (Option.some.inj shown)) (by decide)

end

section
/-! SUPPORT. The state that refutes the statement about settings: a package with one live port, which is told to sleep. -/

namespace Sys2Proof.Machine

/-- Node 1 at BOOT_PHASE 3 with port 0 live at full width, and nothing else at work. -/
def onePortLive : State :=
  { chip := { regs := [(Objects.key 0x2300 4, 3), (Objects.key 0x4001 1, 1), (Objects.key 0x4100 2, 3)] } }

theorem onePortLive_serves : Sys2Proof.Claims.serves onePortLive mgmtHost :=
  ⟨by decide +kernel, by decide +kernel, .inl rfl⟩

theorem onePortLive_quiet : Sys2Proof.Claims.quiet onePortLive = true := by decide +kernel

/-- What a POWER flit asks of the peer: the port it leaves by, with the first two bytes of its body (R281, R300). -/
def powerSent : Out → Option (Nat × List Byte)
  | .flit p f => if f.body.head? = some 6 then some (p, f.body.take 2) else none
  | _ => none

/-- The POWER flits that a command sends, where it answers a next state. -/
def powersAfter (o : Host.Outcome State Fault Refusal) : Option (List (Nat × List Byte)) :=
  match o with
  | .next t => some (t.chip.out.filterMap powerSent)
  | _ => none

/-- A package that enters Dormant sends POWER(1) over its live port (R300). -/
theorem onePortLive_sleep_powers : powersAfter (exec (.sleepRequest mgmtHost 1) onePortLive) = some [(0, [6, 1])] := by
  decide +kernel

end Sys2Proof.Machine

open Sys2Proof.Machine

/-- Refutes O50: a package that enters Dormant sends POWER over each live port besides the answer to the client, so the answer is not
all that SLEEP_REQUEST sends. -/
theorem not_settingsWrites : ¬ Obligations.SettingsWrites := by
  unfold Obligations.SettingsWrites
  rintro ⟨-, -, -, -, -, -, -, hsleep, -⟩
  obtain ⟨henter, -⟩ := hsleep onePortLive mgmtHost onePortLive_serves
  obtain ⟨t, ht, hout, -⟩ := henter onePortLive_quiet (by decide +kernel)
  have sent := onePortLive_sleep_powers
  simp only [ht, powersAfter, hout] at sent
  exact absurd sent (by decide)

end

section
/-! SUPPORT. The state that refutes the statement about copy engines: its map of engines lists engine 0 twice. -/

namespace Sys2Proof.Machine

/-- A FILL of one byte of the local memory of core 0 of node 1, with its completion record at byte 64 there and no signal. -/
def fillWithRecord : CopyDesc :=
  { opcode := 3, cflags := 0, srcFormat := 0x08, dstFormat := 0x08, rows := 1, cols := 1, signalObj := 0xFFFF, arrivalObj := 0xFFFF
    src := 0, dst := BitVec.ofNat 64 (2 ^ 48 + localBase), srcRowStride := 0, dstRowStride := 64, srcScale := 0, dstScale := 0
    convAddr := 0, arrivalAdd := 0, cvc := 0xFFFF, reserved := 0, srcCoarse := 0x3F800000, reservedMid := 0, alive := 0, seq := 0
    completionAddr := BitVec.ofNat 64 (2 ^ 48 + localBase + 64), reservedTail := 0 }

/-- That descriptor, submitted by Burist for no job, when its data have moved. -/
def filledRun : CopyRun :=
  { desc := fillWithRecord, slot := 0xFF, from_ := none, step := 0, ordinal := 0, started := true, done := true }

/-- Node 1 with engine 0 listed twice, each time with the ended descriptor in its job queue. The first entry also holds a promoted
granule that no descriptor guards. -/
def engineListedTwice : State :=
  { chip :=
    { regs := [(Objects.key 0x4001 1, 1)]
      engines := [(0, { job := [filledRun], promoted := [0] }), (0, { job := [filledRun] })] } }

theorem engineListedTwice_unguarded : Sys2Proof.Claims.unguarded engineListedTwice.chip :=
  ⟨rfl, rfl, by decide +kernel, fun _ _ hx => nomatch hx⟩

/-- The job queue of an engine after a command that answers a next state. -/
def jobQueueAfter (o : Host.Outcome State Fault Refusal) (e : EngineId) : Option (List CopyRun) :=
  match o with
  | .next t => some (Chip.copyQueue (t.chip.engine e) .job)
  | _ => none

/-- The first entry keeps only its promoted granule once its descriptor has left. Dropping the guards (R242) takes that granule out,
and with it the entry, so that engine 0 reads as the second entry. -/
theorem engineListedTwice_complete_queue :
    jobQueueAfter (exec (.copyComplete 0 .job) engineListedTwice) 0 = some [filledRun] := by
  decide +kernel

end Sys2Proof.Machine

open Sys2Proof.Machine

/-- Refutes O55: no clause confines the map of engines to its canonical form, and where an engine is listed twice COPY_COMPLETE can
uncover the second entry, whose queue still holds the descriptor. -/
theorem not_copyEngines : ¬ Obligations.CopyEngines := by
  unfold Obligations.CopyEngines
  rintro ⟨-, -, hcomplete, -⟩
  obtain ⟨t, ht, hqueue, -⟩ := hcomplete engineListedTwice 0 .job filledRun (by decide +kernel) (by decide +kernel)
    (by decide +kernel) engineListedTwice_unguarded (by decide +kernel) rfl rfl rfl rfl (by decide +kernel) (by decide +kernel)
    (by decide +kernel)
  have left : Chip.copyQueue (t.chip.engine 0) .job = [] := hqueue
  have shown := engineListedTwice_complete_queue
  rw [ht] at shown
  exact absurd (left.symm.trans (Option.some.inj shown)) (by decide)

end

section
/-! SUPPORT. PREFETCH at the head of a CP stream (R228, R229, R495): what a legal descriptor arms. -/

namespace Sys2Proof

namespace SMap

variable {α : Type}

theorem insert_insert (k : Nat) (w v : α) : ∀ m : SMap α, (m.insert k w).insert k v = m.insert k v
  | [] => by simp [insert]
  | (j, u) :: t => by
    rcases Nat.lt_trichotomy k j with h | h | h
    · simp [insert, h]
    · simp [insert, h]
    · simp [insert, Nat.not_lt_of_gt h, Nat.ne_of_gt h, insert_insert k w v t]

theorem filter_insert (k : Nat) (w : α) : ∀ m : SMap α,
    (m.insert k w).filter (fun p => decide (p.1 ≠ k)) = m.filter (fun p => decide (p.1 ≠ k))
  | [] => by simp [insert]
  | (j, u) :: t => by
    rcases Nat.lt_trichotomy k j with h | h | h
    · simp [insert, h]
    · simp [insert, h]
    · have ih := filter_insert k w t
      simp only [insert, Nat.not_lt_of_gt h, Nat.ne_of_gt h, if_false, List.filter_cons, ih]

/-- Of two writes of one key the second remains, where the first one enters the key: writing the default would take out every entry
of the key. -/
theorem set_set [DecidableEq α] {d w : α} (m : SMap α) (k : Nat) (v : α) (hw : w ≠ d) :
    set d (set d m k w) k v = set d m k v := by
  rw [show set d m k w = m.insert k w from if_neg hw]
  unfold set
  split
  · exact filter_insert k w m
  · exact insert_insert k w v m

end SMap

namespace Machine

namespace Chip

/-- Two changes of one stream are one, where the first leaves a stream that the map lists. -/
theorem updStream_updStream (s : Chip) (c st : Nat) (f g : Stream → Stream) (hf : f (s.stream c st) ≠ {}) :
    (s.updStream c st f).updStream c st g = s.updStream c st (fun y => g (f y)) := by
  have hs : ((s.updStream c st f).setStream c st (g (f (s.stream c st)))).streams
      = (s.setStream c st (g (f (s.stream c st)))).streams := SMap.set_set s.streams (4 * c + st) _ hf
  unfold updStream at hs ⊢
  rw [stream_setStream_self]
  exact congrArg (fun m => { s with streams := m }) hs

/-- An entry that joins an empty stream, is counted at the head and leaves has changed the count alone. -/
theorem withEntry_atHead_drop (s : Chip) (c st : Nat) (i : Instr) (h : (s.stream c st).held = []) :
    ((s.withEntry c st i).atHead c st).updStream c st (fun y => { y with held := y.held.drop 1 }) = s.atHead c st := by
  have holds (y : Stream) (hy : y.held = [i]) : y ≠ {} := fun e => by simp [e] at hy
  rw [atHead, withEntry, updStream_updStream, updStream_updStream]
  · simp [atHead, updStream, h]
  · exact holds _ (by simp [h])
  · exact holds _ (by simp [h])

/-- A read that meets no poison returns the bytes in memory. -/
theorem load_of_no_poison (s : Chip) (off n : Nat) (h : s.poison = []) : s.load off n = (s.readMem off n, 0) := by
  simp [load, poisoned, h]

theorem coreStop_of_enabled {s : Chip} {c : Nat} (h : s.coreState c = 1) : s.coreStop c = 0 := by
  simp [coreStop, h]

end Chip

/-! ## The descriptor, R228 -/

/-- What the 32 bytes of a PREFETCH descriptor arm; the first lines are fetched at once, as far as DISTANCE reaches. -/
def prefetchOf (b : List Byte) : Prefetch :=
  { rowBytes := field b 4 4, base := field b 8 8, rows := field b 16 4, distance := field b 20 4, stride := field b 24 8
    fetched := min (field b 20 4) (field b 4 4 * field b 16 4) }

/-- The bytes from the first row to the end of the last. -/
def prefetchSpan (b : List Byte) : Nat :=
  if field b 16 4 = 1 then field b 4 4 else (field b 16 4 - 1) * field b 24 8 + field b 4 4

/-- The fields of a legal descriptor (R228). -/
structure PrefetchLegal (b : List Byte) : Prop where
  slot : field b 0 1 < 16
  ctrl : field b 1 1 < 2
  reserved : field b 2 2 = 0
  bytesLow : 64 ≤ field b 4 4
  bytesHigh : field b 4 4 ≤ 2 ^ 24
  bytesLines : field b 4 4 % 64 = 0
  baseClass : addrClass (field b 8 8) = 1
  baseLine : field b 8 8 % 64 = 0
  baseHbm : addrOff (field b 8 8) < hbmEnd
  rowsLow : 1 ≤ field b 16 4
  rowsHigh : field b 16 4 ≤ 2 ^ 24
  distanceLow : 4096 ≤ field b 20 4
  distanceHigh : field b 20 4 ≤ 2 ^ 21
  distancePages : field b 20 4 % 4096 = 0
  strideLines : field b 16 4 = 1 ∨ field b 24 8 % 64 = 0

namespace Chip

/-- The slot that a descriptor names is armed or disarmed; the lines fetched at once are counted (R229, R243). -/
def armPrefetch (s : Chip) (c : CoreId) (b : List Byte) : Chip :=
  let armed := if field b 1 1 = 1 then some (prefetchOf b) else none
  let h := { s with prefetch := SMap.set none s.prefetch (16 * (c.val / 4) + field b 0 1) armed }
  if field b 1 1 = 1 then h.bump 0x80D0 (c.val / 64 + 1) ((prefetchOf b).fetched / 64) else h

theorem armPrefetch_updStream (s : Chip) (c : CoreId) (b : List Byte) (d st : Nat) (f : Stream → Stream) :
    (s.armPrefetch c b).updStream d st f = (s.updStream d st f).armPrefetch c b := by
  unfold armPrefetch
  dsimp only
  split <;> rfl

/-- Arming a slot changes no unit state: those stand below the counters in the dictionary. -/
theorem armPrefetch_coreState (s : Chip) (c : CoreId) (b : List Byte) (d : CoreId) :
    (s.armPrefetch c b).coreState d = s.coreState d := by
  unfold armPrefetch
  dsimp only
  split
  · exact reg_setReg_index _ _ _ _ _ _ (by omega) (by omega) (by omega)
  · rfl

/-- A legal PREFETCH at the head of an enabled core's CP stream leaves it and acts on its slot. -/
theorem headPrefetch_of_legal {s : Chip} {c : CoreId} {tag : EntryTag} {x : CpEntry} {b : List Byte}
    (hc : s.coreState c = 1) (htag : tagOk tag 1 1 = true) (hop : x.opcode = 0x12) (hres : x.reserved = 0) (htgt : x.target = 0)
    (hdesc : s.checkDesc c x.descAddr.toNat 32 32 = 0) (hpoison : s.poison = [])
    (hb : s.readMem (addrOff x.descAddr.toNat) 32 = b) (hlegal : PrefetchLegal b)
    (hrange : s.checkRange (s.slotOfCore c) (field b 8 8) (prefetchSpan b) true = 0) :
    s.headPrefetch c tag x = some ((s.atHead c 3).armPrefetch c b) := by
  obtain ⟨slot, ctrl, reserved, bytesLow, bytesHigh, bytesLines, baseClass, baseLine, baseHbm, rowsLow, rowsHigh, distanceLow,
    distanceHigh, distancePages, strideLines⟩ := hlegal
  unfold prefetchSpan at hrange
  simp only [headPrefetch, coreStop_of_enabled hc, load_of_no_poison s _ _ hpoison, hb, htag, hop, hres, htgt, hdesc, hrange,
    slot, ctrl, reserved, bytesLow, bytesHigh, bytesLines, baseClass, baseLine, baseHbm, rowsLow, rowsHigh, distanceLow,
    distanceHigh, distancePages, Code.first, Code.firstOf, Code.need]
  simp [strideLines, armPrefetch, prefetchOf]

end Chip

/-- What `ready` says, one part after the other. -/
theorem ready_iff {s : State} {c : CoreId} {st : Nat} : Sys2Proof.Claims.ready s c st = true ↔
    s.plat.running = true ∧ s.chip.coreState c = 1 ∧ (s.chip.stream c st).held = [] ∧ s.chip.streamHeld c st = false := by
  simp [Sys2Proof.Claims.ready, Sys2Proof.Claims.streamOpen, and_assoc]

/-- An entry that reaches the head of an open stream of an enabled core leaves it with what its issue does. -/
theorem exec_prefetch_of_ready {s : State} {c : CoreId} {tag : EntryTag} {x : CpEntry} {b : List Byte}
    (hready : Sys2Proof.Claims.ready s c 3 = true)
    (hhead : ((s.chip.fresh.withEntry c 3 (.prefetch c tag x)).headPrefetch c tag x)
      = some (((s.chip.fresh.withEntry c 3 (.prefetch c tag x)).atHead c 3).armPrefetch c b)) :
    exec (.prefetch c tag x) s
      = .next (s.on ((s.chip.fresh.updStream c 3 (fun y => { y with count := y.count + 1 })).armPrefetch c b)) := by
  obtain ⟨hrun, hcore, hempty, hopen⟩ := ready_iff.mp hready
  have hissue : (s.chip.fresh.withEntry c 3 (.prefetch c tag x)).issue (.prefetch c tag x)
      = (true, ((s.chip.fresh.withEntry c 3 (.prefetch c tag x)).atHead c 3).armPrefetch c b) := by
    simp only [Chip.issue, hhead, Chip.issued]
  have hafter : (((s.chip.fresh.withEntry c 3 (.prefetch c tag x)).atHead c 3).armPrefetch c b).coreState c ≠ 2 := by
    rw [Chip.armPrefetch_coreState]
    exact fun h => absurd (hcore.symm.trans h) (by decide)
  rw [exec_prefetch, execPrefetch, onChip_running _ s hrun,
    Chip.enter_of_open s.chip.fresh c 3 _ _ hempty hopen hissue hafter, Chip.armPrefetch_updStream]
  exact congrArg (fun h => Host.Outcome.next (s.on (h.armPrefetch c b)))
    (Chip.withEntry_atHead_drop s.chip.fresh c 3 _ hempty)

end Machine
end Sys2Proof

open Sys2Proof Sys2Proof.Machine

/-- Settles O34: a legal PREFETCH leaves its open stream at once and acts on its slot alone. -/
theorem prefetchArms : Obligations.PrefetchArms := by
  unfold Obligations.PrefetchArms
  intro s c tag x hready htag hop hres htgt hdesc hpoison b _ _ _ _ _ _ _ slot ctrl reserved bytesLow bytesHigh bytesLines
    baseClass baseLine baseHbm rowsLow rowsHigh distanceLow distanceHigh distancePages strideLines hrange
  obtain ⟨-, hcore, -⟩ := ready_iff.mp hready
  have legal : PrefetchLegal b := ⟨slot, ctrl, reserved, bytesLow, bytesHigh, bytesLines, baseClass, baseLine, baseHbm, rowsLow,
    rowsHigh, distanceLow, distanceHigh, distancePages, strideLines⟩
  exact exec_prefetch_of_ready hready
    (Chip.headPrefetch_of_legal hcore htag hop hres htgt hdesc hpoison rfl legal hrange)

end

section
/-! SUPPORT. Memory in the background (R217, R219, R222 to R224, R226, R230, R317): what ECC's rules change in the package, and
what a region fill leaves. -/

namespace Sys2Proof.Machine

namespace Chip

/-! ## Counters -/

theorem reg_of_regs {s t : Chip} (h : t.regs = s.regs) (i j : Nat) : t.reg i j = s.reg i j := by
  unfold reg
  rw [h]

/-- A counter leaves the words of every object below it as they were, whatever its subindex. -/
theorem reg_bump_below (s : Chip) {ix i : Nat} (sub n : Nat) {j : Nat} (hi : i < ix) (hj : j < 256) :
    (s.bump ix sub n).reg i j = s.reg i j :=
  reg_setReg_of_ne s ix sub _ i j (by simp only [Objects.key]; omega)

theorem reg_bump_self (s : Chip) (ix sub n : Nat) : (s.bump ix sub n).reg ix sub = (s.reg ix sub + n) % 2 ^ 64 :=
  reg_setReg_self s ix sub _

/-- The object that holds an offset is one of the 64 of R219. -/
theorem regionAt_bounds {s : Chip} {off r : Nat} (h : s.regionAt off = some r) : 0x5100 ≤ r ∧ r < 0x5140 := by
  obtain ⟨i, hi, rfl⟩ := List.mem_map.mp (List.mem_of_find?_eq_some h)
  have := List.mem_range.mp hi
  omega

/-- The regions' objects stand below every counter. -/
theorem regionAt_bump (s : Chip) {ix : Nat} (sub n off : Nat) (h : 0x5140 ≤ ix) :
    (s.bump ix sub n).regionAt off = s.regionAt off := by
  unfold regionAt
  rw [← List.head?_filter, ← List.head?_filter]
  refine congrArg List.head? (List.filter_congr fun r hr => ?_)
  obtain ⟨i, hi, rfl⟩ := List.mem_map.mp hr
  have hi := List.mem_range.mp hi
  rw [reg_bump_below s sub n (by omega) (by omega), reg_bump_below s sub n (by omega) (by omega)]

theorem detectOnly_bump (s : Chip) {ix : Nat} (sub n line : Nat) (h : 0x5140 ≤ ix) :
    (s.bump ix sub n).detectOnly line = s.detectOnly line := by
  unfold detectOnly
  rw [regionAt_bump s sub n _ h]
  cases hr : s.regionAt (64 * line) with
  | none => rfl
  | some r =>
    have hlow : r < ix := Nat.lt_of_lt_of_le (regionAt_bounds hr).2 h
    simp only [Option.any_some, reg_bump_below s sub n hlow (show 3 < 256 by decide)]

theorem countBad_shape (s : Chip) (off n : Nat) : ∃ r, s.countBad off n = { s with regs := r } := by
  unfold countBad
  split
  · split <;> exact ⟨_, rfl⟩
  · exact ⟨_, rfl⟩

/-! ## Poison, R223 -/

/-- Which classes react is in the words of object 0x7000. -/
theorem reacts_congr {s t : Chip} (k : Nat) (h : ∀ j, j < 256 → t.reg 0x7000 j = s.reg 0x7000 j) : t.reacts k = s.reacts k := by
  unfold reacts partition
  rw [h 1 (by decide), h 5 (by decide), h 9 (by decide)]

theorem setPoison_shape (s : Chip) (line : Nat) (b : Bool) :
    ∃ r, s.setPoison line b = { s with poison := (s.setPoison line b).poison, regs := r } := by
  unfold setPoison
  split
  · exact ⟨_, rfl⟩
  · dsimp only
    split <;> exact ⟨_, rfl⟩

theorem setPoison_poison (s : Chip) (line : Nat) (b : Bool) (l : Nat) :
    SMap.get false (s.setPoison line b).poison l = if l = line then b else SMap.get false s.poison l := by
  unfold setPoison
  split
  · next h =>
    split
    · next hl => rw [hl, h]
    · rfl
  · rw [← SMap.get_set false s.poison line b l]
    dsimp only
    split <;> rfl

/-- The count of poisoned lines is a word of the line's region. -/
theorem setPoison_reg (s : Chip) (line : Nat) (b : Bool) {i j : Nat} (hi : i < 0x5100 ∨ 0x5140 ≤ i) (hj : j < 256) :
    (s.setPoison line b).reg i j = s.reg i j := by
  unfold setPoison
  split
  · rfl
  · dsimp only
    split
    · next r hr =>
      have := regionAt_bounds hr
      exact reg_setReg_index _ _ _ _ _ _ (by omega) (by decide) hj
    · rfl

/-- The record of a poisoned line, by its slot and detail. -/
def poisonLogged (s : Chip) (line unit slot : Nat) (detail : List Byte) : Chip :=
  (s.setPoison line true).addLog Code.uncorrectable slot 2 unit detail

theorem poisonLogged_reg (s : Chip) (line unit slot : Nat) (detail : List Byte) {i j : Nat} (hi : i < 0x5100 ∨ 0x5140 ≤ i)
    (hl : i ≠ 0x8200) (hj : j < 256) : (s.poisonLogged line unit slot detail).reg i j = s.reg i j :=
  (addLog_reg _ _ _ _ _ _ i j hl hj).trans (setPoison_reg s line true hi hj)

/-- A logged detection of a class that does not react is counted, and no more. -/
theorem detectLogged_quiet (s : Chip) (k : Nat) (hr : s.reacts k = false) : ∃ m, s.detectLogged k = { s with mon := m } := by
  unfold detectLogged
  exact ⟨_, if_neg (by rw [Bool.not_eq_true]; exact hr)⟩

/-- Only the first detection of a line counts. -/
theorem poisonLine_of_poisoned (s : Chip) (line unit : Nat) (hp : SMap.get false s.poison line = true) :
    s.poisonLine line unit = s := by
  unfold poisonLine
  exact if_pos hp

/-- An uncorrectable line that was not poisoned is marked, logged and counted; the package goes on where class 4 does not react. -/
theorem poisonLine_of_clean (s : Chip) (line unit : Nat) (hp : SMap.get false s.poison line = false) (hr : s.reacts 4 = false) :
    ∃ slot detail m, s.poisonLine line unit = { s.poisonLogged line unit slot detail with mon := m } := by
  have quiet (slot : Nat) (detail : List Byte) : (s.poisonLogged line unit slot detail).reacts 4 = false :=
    (reacts_congr 4 fun j hj => poisonLogged_reg s line unit slot detail (by decide) (by decide) hj).trans hr
  unfold poisonLine
  rw [if_neg (by simp [hp])]
  obtain ⟨m, hm⟩ := detectLogged_quiet _ 4 (quiet _ _)
  exact ⟨_, _, m, hm⟩

theorem poisonLogged_shape (s : Chip) (line unit slot : Nat) (detail : List Byte) :
    ∃ r l d, s.poisonLogged line unit slot detail
      = { s with poison := (s.setPoison line true).poison, regs := r, log := l, dap := d } := by
  obtain ⟨r, l, d, hlog⟩ := addLog_shape (s.setPoison line true) Code.uncorrectable slot 2 unit detail
  obtain ⟨r', hpoison⟩ := setPoison_shape s line true
  unfold poisonLogged
  rw [hlog, hpoison]
  exact ⟨r, l, d, rfl⟩

theorem poisonLogged_head (s : Chip) (line unit slot : Nat) (detail : List Byte) :
    (s.poisonLogged line unit slot detail).log.head?.map (fun r => r.code) = some Code.uncorrectable := by
  unfold poisonLogged addLog
  rfl

section

variable (s : Chip) (line unit : Nat) (hr : s.reacts 4 = false)
include hr

/-- Where class 4 does not react, an uncorrectable line changes poison, log and counters alone. -/
theorem poisonLine_shape : ∃ p r l d m,
    s.poisonLine line unit = { s with poison := p, regs := r, log := l, dap := d, mon := m } := by
  cases hp : SMap.get false s.poison line with
  | true => exact ⟨s.poison, s.regs, s.log, s.dap, s.mon, poisonLine_of_poisoned s line unit hp⟩
  | false =>
    obtain ⟨slot, detail, m, hm⟩ := poisonLine_of_clean s line unit hp hr
    obtain ⟨r, l, d, hlogged⟩ := poisonLogged_shape s line unit slot detail
    exact ⟨_, r, l, d, m, by rw [hm, hlogged]⟩

theorem poisonLine_reg {i j : Nat} (hi : i < 0x5100 ∨ 0x5140 ≤ i) (hl : i ≠ 0x8200) (hj : j < 256) :
    (s.poisonLine line unit).reg i j = s.reg i j := by
  cases hp : SMap.get false s.poison line with
  | true => rw [poisonLine_of_poisoned s line unit hp]
  | false =>
    obtain ⟨slot, detail, m, hm⟩ := poisonLine_of_clean s line unit hp hr
    have hregs : (s.poisonLine line unit).regs = (s.poisonLogged line unit slot detail).regs := by rw [hm]
    exact (reg_of_regs hregs i j).trans (poisonLogged_reg s line unit slot detail hi hl hj)

end

/-! ## Reads of the HBM scrubber, R226 -/

/-- The scrubber of stack `h` takes line `l`: it stands behind it, and the read is counted. -/
def takeLine (s : Chip) (h l : Nat) : Chip := { s with scrubAt := SMap.set 0 s.scrubAt h (l + 1) }.bump 0x80BC (h + 1) 1

/-- SCRUB_EN is 0, or the stack has no scrubbed line. -/
theorem scrubRead_idle (s : Chip) (h : Nat) (ecc : EccObs)
    (hi : s.reg 0x5010 1 = 0 ∨ (scrubNext h (SMap.get 0 s.scrubAt h) (s.scrubbed (h / 3)) = none
      ∧ scrubNext h 0 (s.scrubbed (h / 3)) = none)) : s.scrubRead h ecc = s := by
  unfold scrubRead
  obtain hi | ⟨hn, h0⟩ := hi
  · exact if_pos hi
  · simp only [hn, h0, ite_self]

section

variable {s : Chip} {h l : Nat} (hen : s.reg 0x5010 1 ≠ 0) (ecc : EccObs)
include hen

/-- The next line of the stack is read. -/
theorem scrubRead_next (hn : scrubNext h (SMap.get 0 s.scrubAt h) (s.scrubbed (h / 3)) = some l) :
    s.scrubRead h ecc = ((s.takeLine h l).eccRead l 0 ecc).countBad (64 * l) 64 := by
  simp only [scrubRead, hen, if_false, hn, takeLine]

/-- Behind the last line a pass is counted, and the first line is read. -/
theorem scrubRead_wrap (hn : scrubNext h (SMap.get 0 s.scrubAt h) (s.scrubbed (h / 3)) = none)
    (h0 : scrubNext h 0 (s.scrubbed (h / 3)) = some l) :
    s.scrubRead h ecc = (((s.countPass h).takeLine h l).eccRead l 0 ecc).countBad (64 * l) 64 := by
  simp only [scrubRead, hen, if_false, hn, h0, takeLine]

end

theorem takeLine_detectOnly (s : Chip) (h l line : Nat) : (s.takeLine h l).detectOnly line = s.detectOnly line :=
  detectOnly_bump _ _ _ _ (by decide)

theorem takeLine_reacts (s : Chip) (h l k : Nat) : (s.takeLine h l).reacts k = s.reacts k :=
  reacts_congr k fun _ hj => reg_bump_below _ _ _ (by decide) hj

/-- A corrected error counts for its stack, and every CORRECTED_LIMIT-th one is logged (R224). -/
theorem corrected_shape (s : Chip) (h line : Nat) : ∃ r l d, s.corrected h line = { s with
    scrubCorrected := SMap.set 0 s.scrubCorrected h (SMap.get 0 s.scrubCorrected h + 1), regs := r, log := l, dap := d } := by
  unfold corrected
  dsimp only
  split
  · exact addLog_shape _ _ _ _ _ _
  · exact ⟨_, _, _, rfl⟩

/-- A corrected error in HBM outside the DETECT regions. -/
theorem eccRead_corrected {s : Chip} {line : Nat} (unit : Nat) (hbm : 64 * line < hbmEnd) (hd : s.detectOnly line = false) :
    s.eccRead line unit .corrected = s.corrected (stackOfLine line) line := by
  simp [eccRead, hbm, hd]

/-- An uncorrectable error poisons its line; in SRAM it is counted by die first. -/
theorem eccRead_uncorrectable (s : Chip) (line unit : Nat) :
    ∃ r, (∀ i j, i < 0x80D3 → j < 256 → ({ s with regs := r } : Chip).reg i j = s.reg i j)
      ∧ s.eccRead line unit .uncorrectable = ({ s with regs := r } : Chip).poisonLine line unit := by
  unfold eccRead
  dsimp only
  split
  · exact ⟨s.regs, fun _ _ _ _ => rfl, rfl⟩
  · exact ⟨_, fun i j hi hj => reg_bump_below s _ _ hi hj, rfl⟩

/-- The scrubber's read of an uncorrectable line that was not poisoned: the line is poisoned and logged, memory stays (R223). -/
theorem eccRead_uncorrectable_of_clean {s : Chip} {line : Nat} (unit : Nat) (hp : SMap.get false s.poison line = false)
    (hr : s.reacts 4 = false) :
    ∃ p r l d m, s.eccRead line unit .uncorrectable = { s with poison := p, regs := r, log := l, dap := d, mon := m }
      ∧ (∀ k, SMap.get false p k = if k = line then true else SMap.get false s.poison k)
      ∧ l.head?.map (fun r => r.code) = some Code.uncorrectable := by
  obtain ⟨r, hreg, hread⟩ := eccRead_uncorrectable s line unit
  have hr' : ({ s with regs := r } : Chip).reacts 4 = false :=
    (reacts_congr 4 fun j hj => hreg 0x7000 j (by decide) hj).trans hr
  obtain ⟨slot, detail, m, hm⟩ := poisonLine_of_clean { s with regs := r } line unit hp hr'
  obtain ⟨r', l, d, hlogged⟩ := poisonLogged_shape { s with regs := r } line unit slot detail
  have hhead := poisonLogged_head { s with regs := r } line unit slot detail
  rw [hlogged] at hhead hm
  exact ⟨_, r', l, d, m, hread.trans hm, setPoison_poison { s with regs := r } line true, hhead⟩

section

variable {s : Chip} {h l : Nat} (hen : s.reg 0x5010 1 ≠ 0)
  (hn : scrubNext h (SMap.get 0 s.scrubAt h) (s.scrubbed (h / 3)) = some l)
include hen hn

/-- The scrubber's read of a line whose error ECC corrects changes its position, words and the log alone (R224). -/
theorem scrubRead_corrected (hbm : 64 * l < hbmEnd) (hd : s.detectOnly l = false) :
    ∃ r g d, s.scrubRead h .corrected = { s with
      scrubAt := SMap.set 0 s.scrubAt h (l + 1)
      scrubCorrected := SMap.set 0 s.scrubCorrected (stackOfLine l) (SMap.get 0 s.scrubCorrected (stackOfLine l) + 1)
      regs := r, log := g, dap := d } := by
  obtain ⟨r, g, d, hcount⟩ := corrected_shape (s.takeLine h l) (stackOfLine l) l
  obtain ⟨r', hbad⟩ := countBad_shape ((s.takeLine h l).corrected (stackOfLine l) l) (64 * l) 64
  rw [scrubRead_next hen .corrected hn, eccRead_corrected 0 hbm ((takeLine_detectOnly s h l l).trans hd), hbad, hcount]
  exact ⟨r', g, d, rfl⟩

/-- The scrubber's read of an uncorrectable line that was not poisoned (R223). -/
theorem scrubRead_uncorrectable (hp : SMap.get false s.poison l = false) (hr : s.reacts 4 = false) :
    ∃ p r g d m, s.scrubRead h .uncorrectable = { s with
        scrubAt := SMap.set 0 s.scrubAt h (l + 1), poison := p, regs := r, log := g, dap := d, mon := m }
      ∧ (∀ k, SMap.get false p k = if k = l then true else SMap.get false s.poison k)
      ∧ g.head?.map (fun r => r.code) = some Code.uncorrectable := by
  obtain ⟨p, r, g, d, m, hecc, hlines, hhead⟩ :=
    eccRead_uncorrectable_of_clean (s := s.takeLine h l) 0 hp ((takeLine_reacts s h l 4).trans hr)
  obtain ⟨r', hbad⟩ := countBad_shape ((s.takeLine h l).eccRead l 0 .uncorrectable) (64 * l) 64
  rw [scrubRead_next hen .uncorrectable hn, hbad, hecc]
  exact ⟨p, r', g, d, m, rfl, hlines, hhead⟩

end

/-! ## Region fill, R219 -/

theorem zeroRange_mem (s : Chip) (off n a : Nat) :
    SMap.get 0 (s.zeroRange off n).mem a = if off ≤ a ∧ a < off + n then 0 else SMap.get 0 s.mem a := by
  unfold zeroRange
  split
  · exact SMap.get_filter_key_false 0 (fun k => decide (k < off) || decide (off + n ≤ k)) s.mem a (by simp; omega)
  · exact SMap.get_filter_key 0 (fun k => decide (k < off) || decide (off + n ≤ k)) s.mem a (by simp; omega)

theorem zeroRange_poison (s : Chip) (off n l : Nat) :
    SMap.get false (s.zeroRange off n).poison l
      = if off < 64 * l + 64 ∧ 64 * l < off + n then false else SMap.get false s.poison l := by
  unfold zeroRange
  split
  · exact SMap.get_filter_key_false false (fun k => decide (64 * k + 64 ≤ off) || decide (off + n ≤ 64 * k)) s.poison l
      (by simp; omega)
  · exact SMap.get_filter_key false (fun k => decide (64 * k + 64 ≤ off) || decide (off + n ≤ 64 * k)) s.poison l
      (by simp; omega)

/-- The object of region `i` of a job slot; its BASE and its SIZE (R219). -/
def regionIx (j i : Nat) : Nat := 0x5100 + 8 * j + i
def regionBase (s : Chip) (j i : Nat) : Nat := s.reg (regionIx j i) 1
def regionSize (s : Chip) (j i : Nat) : Nat := s.reg (regionIx j i) 2

/-- Engine `e` zeroes the region of object `ix`, which is then free. -/
def zeroAndFree (t : Chip) (ix e : Nat) : Chip :=
  let t1 := (t.zeroRange (t.reg ix 1) (t.reg ix 2)).bumpEngine e 2 (t.reg ix 2)
  (((t1.setReg ix 1 0).setReg ix 2 0).setReg ix 5 0).setReg ix 6 0

theorem zeroAndFree_shape (t : Chip) (ix e : Nat) :
    ∃ r, t.zeroAndFree ix e = { t.zeroRange (t.reg ix 1) (t.reg ix 2) with regs := r } := by
  simp only [zeroAndFree, bumpEngine, bump, setReg]
  exact ⟨_, rfl⟩

theorem zeroAndFree_size (t : Chip) (ix e : Nat) : (t.zeroAndFree ix e).reg ix 2 = 0 := by
  simp [zeroAndFree, reg_setReg, Objects.key]

/-- Every other object below the engines' counters keeps its words. -/
theorem zeroAndFree_reg (t : Chip) (ix e : Nat) {a b : Nat} (ha : a ≠ ix) (hlow : a < 0x80C0) (hb : b < 256) :
    (t.zeroAndFree ix e).reg a b = t.reg a b := by
  unfold zeroAndFree
  dsimp only
  rw [reg_setReg_index _ _ _ _ _ _ ha (by decide) hb, reg_setReg_index _ _ _ _ _ _ ha (by decide) hb,
    reg_setReg_index _ _ _ _ _ _ ha (by decide) hb, reg_setReg_index _ _ _ _ _ _ ha (by decide) hb]
  exact reg_bump_below _ _ _ (by omega) hb

/-- REGION_FILL's work on one region, by an engine of the region's stack. -/
def fillRegion (j : Nat) (t : Chip) (i : Nat) : Chip :=
  let es := t.enginesUp (i / 2)
  match es[Config.freeChoice t.free i % es.length]? with
  | none => t
  | some e => if t.reg (regionIx j i) 2 = 0 then t else t.zeroAndFree (regionIx j i) e

theorem regionFill_of_ended {s : Chip} {j : Nat} (h : s.job j = none) :
    s.regionFill j = (List.range 8).foldl (fillRegion j) s := by
  rw [regionFill, if_neg (by simp [h])]
  rfl

/-- Where the region's stack has an engine in state 1, an empty region stays as it is, and any other is zeroed and freed. -/
theorem fillRegion_cases (t : Chip) (j i : Nat) (hup : t.enginesUp (i / 2) ≠ []) :
    (t.regionSize j i = 0 ∧ fillRegion j t i = t)
    ∨ (t.regionSize j i ≠ 0 ∧ ∃ e, fillRegion j t i = t.zeroAndFree (regionIx j i) e) := by
  have hpick : Config.freeChoice t.free i % (t.enginesUp (i / 2)).length < (t.enginesUp (i / 2)).length :=
    Nat.mod_lt _ (List.length_pos_iff.mpr hup)
  unfold fillRegion
  dsimp only
  rw [List.getElem?_eq_getElem hpick]
  by_cases hz : t.reg (regionIx j i) 2 = 0
  · exact .inl ⟨hz, if_pos hz⟩
  · exact .inr ⟨hz, _, if_neg hz⟩

/-- Package `t` is `s` with the first `n` regions of slot `j` zeroed and freed. -/
structure RegionsFilled (s t : Chip) (j n : Nat) : Prop where
  freed : ∀ i, i < n → t.regionSize j i = 0
  later : ∀ i, n ≤ i → i < 8 → t.regionBase j i = s.regionBase j i ∧ t.regionSize j i = s.regionSize j i
  engines : ∀ d, d < 4 → t.enginesUp d = s.enginesUp d
  zeroed : ∀ i a, i < n → s.regionBase j i ≤ a → a < s.regionBase j i + s.regionSize j i → SMap.get 0 t.mem a = 0
  clean : ∀ i l, i < n → 64 * l < s.regionBase j i + s.regionSize j i → s.regionBase j i < 64 * l + 64 →
    s.regionSize j i ≠ 0 → SMap.get false t.poison l = false
  outside : ∀ a, (∀ i, i < n → a < s.regionBase j i ∨ s.regionBase j i + s.regionSize j i ≤ a) →
    SMap.get 0 t.mem a = SMap.get 0 s.mem a
  objs : t.objs = s.objs
  jobs : t.jobs = s.jobs

theorem regionsFilled_zero (s : Chip) (j : Nat) : RegionsFilled s s j 0 where
  freed _ h := absurd h (Nat.not_lt_zero _)
  later _ _ _ := ⟨rfl, rfl⟩
  engines _ _ := rfl
  zeroed _ _ h := absurd h (Nat.not_lt_zero _)
  clean _ _ h := absurd h (Nat.not_lt_zero _)
  outside _ _ := rfl
  objs := rfl
  jobs := rfl

/-- The engines of a stack that are in state 1 depend on the words of their object alone. -/
theorem enginesUp_congr {s t : Chip} {d : Nat} (h : ∀ b, b < 256 → t.reg (0x5200 + d) b = s.reg (0x5200 + d) b) :
    t.enginesUp d = s.enginesUp d := by
  unfold enginesUp
  refine List.filter_congr fun e he => ?_
  obtain ⟨hlow, hhigh⟩ := List.mem_range'_1.mp he
  have hd : e / 32 = d := by omega
  simp only [engineState, hd, h _ (show e % 32 + 1 < 256 by omega)]

section

variable {s t : Chip} {j n : Nat} (h : RegionsFilled s t j n)
include h

/-- The next region is empty: nothing is left to do. -/
theorem RegionsFilled.succ_of_empty (hz : s.regionSize j n = 0) (hn : n < 8) : RegionsFilled s t j (n + 1) where
  freed i hi := by
    obtain hi | rfl := Nat.lt_succ_iff_lt_or_eq.mp hi
    · exact h.freed i hi
    · rw [(h.later i (Nat.le_refl i) hn).2, hz]
  later i hi := h.later i (Nat.le_of_succ_le hi)
  engines := h.engines
  zeroed i a hi hlow hhigh := by
    obtain hi | rfl := Nat.lt_succ_iff_lt_or_eq.mp hi
    · exact h.zeroed i a hi hlow hhigh
    · omega
  clean i l hi hlow hhigh hne := by
    obtain hi | rfl := Nat.lt_succ_iff_lt_or_eq.mp hi
    · exact h.clean i l hi hlow hhigh hne
    · exact absurd hz hne
  outside a ha := h.outside a fun i hi => ha i (Nat.lt_succ_of_lt hi)
  objs := h.objs
  jobs := h.jobs

/-- An engine zeroes and frees the next region. -/
theorem RegionsFilled.succ_of_zeroed (e : Nat) (hj : j < 8) (hn : n < 8) :
    RegionsFilled s (t.zeroAndFree (regionIx j n) e) j (n + 1) := by
  obtain ⟨hbase, hsize⟩ := h.later n (Nat.le_refl n) hn
  obtain ⟨r, hshape⟩ := zeroAndFree_shape t (regionIx j n) e
  have hmem (a : Nat) : SMap.get 0 (t.zeroAndFree (regionIx j n) e).mem a
      = if s.regionBase j n ≤ a ∧ a < s.regionBase j n + s.regionSize j n then 0 else SMap.get 0 t.mem a := by
    rw [hshape, ← hbase, ← hsize]
    exact zeroRange_mem ..
  have hpoison (l : Nat) : SMap.get false (t.zeroAndFree (regionIx j n) e).poison l
      = if s.regionBase j n < 64 * l + 64 ∧ 64 * l < s.regionBase j n + s.regionSize j n then false
        else SMap.get false t.poison l := by
    rw [hshape, ← hbase, ← hsize]
    exact zeroRange_poison ..
  have hregion {i : Nat} (hi : i < 8) (hne : i ≠ n) (b : Nat) (hb : b < 256) :
      (t.zeroAndFree (regionIx j n) e).reg (regionIx j i) b = t.reg (regionIx j i) b :=
    zeroAndFree_reg t _ e (by simp only [regionIx]; omega) (by simp only [regionIx]; omega) hb
  exact
    { freed := fun i hi => by
        obtain hi | rfl := Nat.lt_succ_iff_lt_or_eq.mp hi
        · exact (hregion (by omega) (by omega) 2 (by decide)).trans (h.freed i hi)
        · exact zeroAndFree_size t _ e
      later := fun i hi h8 => by
        obtain ⟨hb, hs⟩ := h.later i (by omega) h8
        exact ⟨(hregion h8 (by omega) 1 (by decide)).trans hb, (hregion h8 (by omega) 2 (by decide)).trans hs⟩
      engines := fun d hd => (enginesUp_congr fun b hb =>
        zeroAndFree_reg t _ e (by simp only [regionIx]; omega) (by omega) hb).trans (h.engines d hd)
      zeroed := fun i a hi hlow hhigh => by
        rw [hmem]
        split
        · rfl
        · next hout =>
          obtain hi | rfl := Nat.lt_succ_iff_lt_or_eq.mp hi
          · exact h.zeroed i a hi hlow hhigh
          · exact absurd ⟨hlow, hhigh⟩ hout
      clean := fun i l hi hlow hhigh hne => by
        rw [hpoison]
        split
        · rfl
        · next hout =>
          obtain hi | rfl := Nat.lt_succ_iff_lt_or_eq.mp hi
          · exact h.clean i l hi hlow hhigh hne
          · exact absurd ⟨hhigh, hlow⟩ hout
      outside := fun a ha => by
        rw [hmem, if_neg (by have := ha n (Nat.lt_succ_self n); omega)]
        exact h.outside a fun i hi => ha i (Nat.lt_succ_of_lt hi)
      objs := (congrArg Chip.objs hshape).trans h.objs
      jobs := (congrArg Chip.jobs hshape).trans h.jobs }

end

/-- Filling the next region. -/
theorem RegionsFilled.succ {s t : Chip} {j n : Nat} (h : RegionsFilled s t j n) (hj : j < 8) (hn : n < 8)
    (hup : ∀ d, d < 4 → s.enginesUp d ≠ []) : RegionsFilled s (fillRegion j t n) j (n + 1) := by
  obtain ⟨-, hsize⟩ := h.later n (Nat.le_refl n) hn
  have hstack : t.enginesUp (n / 2) ≠ [] := by rw [h.engines _ (by omega)]; exact hup _ (by omega)
  obtain ⟨hz, hfill⟩ | ⟨hz, e, hfill⟩ := fillRegion_cases t j n hstack
  · rw [hfill]
    exact h.succ_of_empty (hsize.symm.trans hz) hn
  · rw [hfill]
    exact h.succ_of_zeroed e hj hn

/-- REGION_FILL zeroes and frees the eight regions of an ended job. -/
theorem regionFill_filled {s : Chip} {j : Nat} (hj : j < 8) (hjob : s.job j = none) (hup : ∀ d, d < 4 → s.enginesUp d ≠ []) :
    RegionsFilled s (s.regionFill j) j 8 := by
  have filled (n : Nat) (hn : n ≤ 8) : RegionsFilled s ((List.range n).foldl (fillRegion j) s) j n := by
    induction n with
    | zero => exact regionsFilled_zero s j
    | succ n ih =>
      rw [List.range_succ, List.foldl_append]
      exact (ih (by omega)).succ hj (by omega) hup
  rw [regionFill_of_ended hjob]
  exact filled 8 (Nat.le_refl 8)

/-! ## SRAM scrub, R222 and R226 -/

theorem sramScrub_off {s : Chip} (d : Nat) (o : SramObs) (h : s.reg 0x5010 1 = 0) : s.sramScrub d o = s := if_pos h

section

variable {s : Chip} (d : Nat) (hen : s.reg 0x5010 1 ≠ 0)
include hen

theorem sramScrub_clean : s.sramScrub d (.memory .clean) = s := by simp [sramScrub, hen]

theorem sramScrub_corrected : s.sramScrub d (.memory .corrected) = s.bump 0x80D2 (d + 1) 1 := by simp [sramScrub, hen]

theorem sramScrub_cacheCorrected : s.sramScrub d (.memory .cacheCorrected) = s.bump 0x80D2 (d + 1) 1 := by
  simp [sramScrub, hen]

theorem sramScrub_cacheRefetched : s.sramScrub d (.memory .cacheRefetched) = s.bump 0x80D3 (d + 1) 1 := by
  simp [sramScrub, hen]

/-- A corrected error in the window of a unit counts on the unit's die. -/
theorem sramScrub_windowCorrected (k : ClusterId) :
    s.sramScrub d (.window (.corrected k)) = if k.val / 16 = d then s.bump 0x80D2 (d + 1) 1 else s := by
  simp only [sramScrub, hen, if_false, seeWindow]
  split
  · next h => rw [h]
  · rfl

/-- An uncorrectable error is counted; its line's poison, the log and the monitor follow (R222, R223). -/
theorem sramScrub_uncorrectable (hd : d < 255) (hr : s.reacts 4 = false) :
    ∃ p r g a m, s.sramScrub d (.memory .uncorrectable) = { s with poison := p, regs := r, log := g, dap := a, mon := m }
      ∧ ({ s with regs := r } : Chip).reg 0x80D3 (d + 1) = (s.reg 0x80D3 (d + 1) + 1) % 2 ^ 64 := by
  have hquiet : (s.bump 0x80D3 (d + 1) 1).reacts 4 = false :=
    (reacts_congr 4 fun j hj => reg_bump_below s _ _ (by decide) hj).trans hr
  obtain ⟨line, hscrub⟩ : ∃ line, s.sramScrub d (.memory .uncorrectable) = (s.bump 0x80D3 (d + 1) 1).poisonLine line 0 := by
    simp only [sramScrub, hen, if_false]
    exact ⟨_, rfl⟩
  have hcount := poisonLine_reg (s.bump 0x80D3 (d + 1) 1) line 0 hquiet (i := 0x80D3) (j := d + 1) (by decide) (by decide)
    (by omega)
  obtain ⟨p, r, g, a, m, hshape⟩ := poisonLine_shape (s.bump 0x80D3 (d + 1) 1) line 0 hquiet
  rw [hshape, reg_bump_self] at hcount
  exact ⟨p, r, g, a, m, hscrub.trans hshape, hcount⟩

end

/-! ## Expiry of a cached remote line, R317 -/

/-- A cluster's copies of one whole line, where all its copies are whole lines. -/
theorem dropRange_lines (s : Chip) (k line : Nat) (hline : line % 64 = 0) (hlines : ∀ x ∈ s.fab.lines, x.2.1 % 64 = 0) :
    (s.dropRange k line 1).fab.lines = s.fab.lines.filter (fun x => decide (¬(x.1 = k ∧ x.2.1 = line % 2 ^ 62))) := by
  refine List.filter_congr fun x hx => ?_
  have hx := hlines x hx
  have hmeets : (x.2.1 < line % 2 ^ 62 + 1 ∧ line % 2 ^ 62 < x.2.1 + 64) ↔ x.2.1 = line % 2 ^ 62 := by omega
  simp only [← Bool.decide_and, hmeets, decide_not]

theorem dropRange_requests (s : Chip) (k addr n : Nat) :
    (s.dropRange k addr n).fab.requests.length = s.fab.requests.length := List.length_map _

end Chip

/-! ## Commands -/

/-- A running package answers the command's change of its chip. -/
theorem exec_of_onChip {i : Instr} {f : Chip → Chip} {s : State} {u : Chip} (hexec : exec i s = onChip f s)
    (hrun : s.plat.running = true) (hf : f s.chip.fresh = u) : exec i s = .next (s.on u) := by
  rw [hexec, onChip_running f s hrun, hf]

/-- An SRAM scrub that leaves the package calm issues nothing. -/
theorem exec_sramScrub_of_calm {s : State} {d : DieId} {o : SramObs} {u : Chip} (hs : s.calm = true)
    (hscrub : s.chip.fresh.sramScrub d o = u) (hu : u.calm = true) : exec (.sramScrub d o) s = .next (s.on u) :=
  exec_of_onChip (exec_sramScrub d o s) (State.calm_running hs) (hscrub ▸ Chip.pumpAll_of_calm _ (hscrub ▸ hu))

end Sys2Proof.Machine

open Sys2Proof Sys2Proof.Machine

/-- Settles O56: each part by what its operation says of the package. -/
theorem memoryBackground : Obligations.MemoryBackground := by
  unfold Obligations.MemoryBackground
  refine ⟨fun s slot hrun => ⟨?held, ?ended⟩,
    fun s h hrun => ⟨?idle, ?wrap, fun l hen hn => ⟨?clean, ?corrected, ?uncorrectable⟩⟩,
    fun s d k hs => ⟨?sramOff, fun hen => ⟨?sramClean, ?sramCorrected, ?cacheCorrected, ?cacheRefetched, ?window, ?otherWindow,
      ?sramUncorrectable⟩⟩,
    fun s k hrun => ⟨?enter, ?leave⟩, fun s k line hrun hline hlines => ?expiry⟩
  case held =>
    exact fun hjob => exec_of_onChip (exec_regionFill slot s) hrun (if_pos hjob)
  case ended =>
    intro hjob hup
    have filled : Chip.RegionsFilled s.chip.fresh (s.chip.fresh.regionFill slot) slot 8 :=
      Chip.regionFill_filled slot.isLt hjob hup
    obtain ⟨freed, -, -, zeroed, clean, outside, objs, jobs⟩ := filled
    have hexec := exec_of_onChip (exec_regionFill slot s) hrun rfl
    exact ⟨_, hexec, freed, zeroed, clean, outside, objs, jobs⟩
  case idle =>
    exact fun ecc hi => exec_of_onChip (exec_scrubRead h ecc s) hrun (Chip.scrubRead_idle s.chip.fresh h ecc hi)
  case wrap =>
    exact fun l hen hn h0 =>
      exec_of_onChip (exec_scrubRead h .clean s) hrun (Chip.scrubRead_wrap (s := s.chip.fresh) hen .clean hn h0)
  case clean =>
    exact exec_of_onChip (exec_scrubRead h .clean s) hrun (Chip.scrubRead_next (s := s.chip.fresh) hen .clean hn)
  case corrected =>
    intro hbm hdetect
    obtain ⟨r, g, d, hread⟩ := Chip.scrubRead_corrected (s := s.chip.fresh) hen hn hbm hdetect
    exact ⟨_, exec_of_onChip (exec_scrubRead h .corrected s) hrun hread, rfl, rfl, SMap.get_set_self 0 s.chip.scrubAt h (l + 1),
      SMap.get_set_self 0 s.chip.scrubCorrected (Chip.stackOfLine l)
        (SMap.get 0 s.chip.scrubCorrected (Chip.stackOfLine l) + 1)⟩
  case uncorrectable =>
    intro hpoison hreacts
    obtain ⟨p, r, g, d, m, hread, hlines, hhead⟩ :=
      Chip.scrubRead_uncorrectable (s := s.chip.fresh) hen hn hpoison hreacts
    exact ⟨_, exec_of_onChip (exec_scrubRead h .uncorrectable s) hrun hread, rfl, (hlines l).trans (if_pos rfl),
      fun k hk => (hlines k).trans (if_neg hk), hhead, SMap.get_set_self 0 s.chip.scrubAt h (l + 1)⟩
  case sramOff =>
    exact fun o h0 => exec_sramScrub_of_calm hs (Chip.sramScrub_off d o h0) (State.calm_chip hs)
  case sramClean => exact exec_sramScrub_of_calm hs (Chip.sramScrub_clean d hen) (State.calm_chip hs)
  case sramCorrected => exact exec_sramScrub_of_calm hs (Chip.sramScrub_corrected d hen) (State.calm_chip hs)
  case cacheCorrected => exact exec_sramScrub_of_calm hs (Chip.sramScrub_cacheCorrected d hen) (State.calm_chip hs)
  case cacheRefetched => exact exec_sramScrub_of_calm hs (Chip.sramScrub_cacheRefetched d hen) (State.calm_chip hs)
  case window =>
    exact fun hk => exec_sramScrub_of_calm hs
      ((Chip.sramScrub_windowCorrected (s := s.chip.fresh) d hen k).trans (if_pos hk)) (State.calm_chip hs)
  case otherWindow =>
    exact fun hk => exec_sramScrub_of_calm hs
      ((Chip.sramScrub_windowCorrected (s := s.chip.fresh) d hen k).trans (if_neg hk)) (State.calm_chip hs)
  case sramUncorrectable =>
    intro hreacts
    obtain ⟨p, r, g, a, m, hscrub, hcount⟩ :=
      Chip.sramScrub_uncorrectable (s := s.chip.fresh) d hen (by omega) hreacts
    exact ⟨_, exec_sramScrub_of_calm hs hscrub (State.calm_chip hs), rfl, hcount⟩
  case enter =>
    exact ⟨_, exec_of_onChip (exec_bypassEnter k s) hrun rfl, SMap.get_set_self false s.chip.bypass k true, rfl,
      fun c hc => SMap.get_set_of_ne false false s.chip.bypass k true c hc⟩
  case leave =>
    exact ⟨_, exec_of_onChip (exec_bypassLeave k s) hrun rfl, SMap.get_set_self false s.chip.bypass k false, rfl,
      fun c hc => SMap.get_set_of_ne false false s.chip.bypass k false c hc⟩
  case expiry =>
    exact ⟨_, exec_of_onChip (exec_remoteLineExpiry k line s) hrun rfl,
      Chip.dropRange_lines s.chip.fresh k line.toNat hline hlines, rfl, rfl,
      Chip.dropRange_requests s.chip.fresh k line.toNat 1⟩

end

section
/-! SUPPORT. Streams, signals and watches (R244 to R259): what records, counters and dropped lines leave of them, and a core whose
streams have nothing to issue. -/

namespace Sys2Proof.Machine

namespace Chip

/-! ## Unit IDs, R246 -/

theorem unitKind_streamUnit (s : Chip) (c : CoreId) (st : StreamIx) : unitKind (s.streamUnit c st) = 1 := by
  unfold unitKind streamUnit mkUnit bits
  omega

theorem unitNumber_streamUnit (s : Chip) (c : CoreId) (st : StreamIx) : unitNumber (s.streamUnit c st) = 4 * c.val + st.val := by
  unfold unitNumber streamUnit mkUnit bits
  omega

/-- A unit ID of 32 bits whose kind is 1 and whose node is the own one names a stream of this package. -/
theorem streamUnit_of_unit {s : Chip} {u : Nat} (hu : u < 2 ^ 32) (hkind : unitKind u = 1) (hnode : unitNode u = s.node) :
    s.streamUnit (unitNumber u / 4) (unitNumber u % 4) = u := by
  unfold unitKind at hkind
  unfold streamUnit mkUnit
  rw [← hnode]
  unfold unitNode unitNumber
  unfold bits at *
  omega

/-! ## What records, counters and dropped lines leave -/

/-- Between two packages streams, objects, the messages on their way between homes and waiters, memory and unit states agree. -/
structure KeepsSync (s t : Chip) : Prop where
  streams : t.streams = s.streams := by rfl
  objs : t.objs = s.objs := by rfl
  posted : t.posted = s.posted := by rfl
  registrations : t.registrations = s.registrations := by rfl
  wakes : t.wakes = s.wakes := by rfl
  cancels : t.cancels = s.cancels := by rfl
  mem : t.mem = s.mem := by rfl
  core (c : CoreId) : t.coreState c = s.coreState c := by intro c; rfl

theorem KeepsSync.refl (s : Chip) : s.KeepsSync s := {}

theorem KeepsSync.trans {s t u : Chip} (h : s.KeepsSync t) (h' : t.KeepsSync u) : s.KeepsSync u where
  streams := h'.streams.trans h.streams
  objs := h'.objs.trans h.objs
  posted := h'.posted.trans h.posted
  registrations := h'.registrations.trans h.registrations
  wakes := h'.wakes.trans h.wakes
  cancels := h'.cancels.trans h.cancels
  mem := h'.mem.trans h.mem
  core c := (h'.core c).trans (h.core c)

theorem KeepsSync.stream {s t : Chip} (h : s.KeepsSync t) (c st : Nat) : t.stream c st = s.stream c st := by
  unfold Chip.stream
  rw [h.streams]

/-- The same change of a stream keeps the agreement. -/
theorem KeepsSync.updStream {s t : Chip} (h : s.KeepsSync t) (c st : Nat) (f : Stream → Stream) :
    (s.updStream c st f).KeepsSync (t.updStream c st f) where
  streams := by simp only [Chip.updStream, setStream, h.stream c st, h.streams]
  objs := h.objs
  posted := h.posted
  registrations := h.registrations
  wakes := h.wakes
  cancels := h.cancels
  mem := h.mem
  core := h.core

theorem noteError_keepsSync (s : Chip) (j unit code : Nat) : s.KeepsSync (s.noteError j unit code) := by
  unfold noteError
  split
  · exact {}
  · exact .refl s

theorem addLog_keepsSync (s : Chip) (code slot kind source : Nat) (detail : List Byte) :
    s.KeepsSync (s.addLog code slot kind source detail) := by
  have hcore (c : CoreId) : (s.addLog code slot kind source detail).coreState c = s.coreState c :=
    addLog_reg s _ _ _ _ _ _ _ (by omega) (by omega)
  obtain ⟨r, l, d, hlog⟩ := addLog_shape s code slot kind source detail
  rw [hlog] at hcore ⊢
  exact { core := hcore }

/-- An error of a job that is logged. -/
theorem noteError_addLog_keepsSync (s : Chip) (j unit code slot kind source : Nat) (detail : List Byte) :
    s.KeepsSync ((s.noteError j unit code).addLog code slot kind source detail) :=
  (noteError_keepsSync s j unit code).trans (addLog_keepsSync _ _ _ _ _ _)

theorem countNd_keepsSync (s : Chip) {sub : Nat} (j n : Nat) (hsub : sub < 256) : s.KeepsSync (s.countNd sub j n) := by
  have hcore (c : CoreId) : (s.countNd sub j n).coreState c = s.coreState c :=
    countNd_reg _ _ _ _ _ _ (by omega) hsub (by omega)
  obtain ⟨r, hcount⟩ := countNd_shape s sub j n
  rw [hcount] at hcore ⊢
  exact { core := hcore }

theorem bumpSync_keepsSync (s : Chip) (c i n : Nat) : s.KeepsSync (s.bumpSync c i n) where
  core _ := reg_bump_below s _ _ (by omega) (by omega)

/-- The words of a job's status stand above those of the unit states. -/
theorem setStatus_keepsSync (s : Chip) {j f : Nat} (v : Nat) (hj : 16 * j + f < 256) : s.KeepsSync (s.setStatus j f v) where
  core _ := reg_setReg_index _ _ _ _ _ _ (by omega) hj (by omega)

theorem dropLines_keepsSync (s : Chip) (k : Nat) : s.KeepsSync (s.dropLines k) := {}

/-! ## The code of a completion, R99 -/

/-- The stream's status takes a code, if it holds none. -/
def withStatus (s : Chip) (c st code : Nat) : Chip :=
  s.updStream c st (fun y => { y with status := Code.first y.status code })

theorem withStatus_stream (s : Chip) (c st code : Nat) : (s.withStatus c st code).stream c st =
    { s.stream c st with status := Code.first (s.stream c st).status code } := stream_updStream_self s c st _

theorem record_keepsSync (s : Chip) (c st index : Nat) {code : Nat} (h : code ≠ 0) :
    (s.withStatus c st code).KeepsSync (s.record c st code index) := by
  unfold record
  rw [if_neg h]
  exact noteError_addLog_keepsSync (s.withStatus c st code) _ _ code _ _ _ _

theorem addLog_head_source (s : Chip) (code slot kind source : Nat) (detail : List Byte) :
    (s.addLog code slot kind source detail).log.head?.map (fun r => (r.code, r.source)) = some (code, source) := by
  unfold addLog
  rfl

theorem record_head (s : Chip) (c st index : Nat) {code : Nat} (h : code ≠ 0) :
    (s.record c st code index).log.head?.map (fun r => (r.code, r.source)) = some (code, s.streamUnit c st) := by
  unfold record
  rw [if_neg h]
  exact addLog_head_source _ _ _ _ _ _

/-! ## A core with nothing to issue -/

/-- No stream of the core holds an entry, and the core is not draining. -/
structure Idle (s : Chip) (c : CoreId) : Prop where
  held : ∀ st, (s.stream c st).held = []
  core : s.coreState c ≠ 2

theorem idle_of_calm {s : Chip} {c : CoreId} (h : s.calm = true) (hc : s.coreState c ≠ 2) : s.Idle c :=
  ⟨fun _ => calm_held h _ _, hc⟩

theorem Idle.settle {s : Chip} {c : CoreId} (h : s.Idle c) : s.settle c = s :=
  settle_of_held_nil s c (fun st _ => h.held st) h.core

theorem Idle.keep {s t : Chip} {c : CoreId} (h : s.Idle c) (hkeeps : s.KeepsSync t) : t.Idle c :=
  ⟨fun st => hkeeps.stream c st ▸ h.held st, hkeeps.core c ▸ h.core⟩

/-- A change of a stream that leaves its entries leaves those of every stream. -/
theorem updStream_held (s : Chip) (c st d u : Nat) {f : Stream → Stream} (hf : ∀ y, (f y).held = y.held) :
    ((s.updStream c st f).stream d u).held = (s.stream d u).held := by
  by_cases h : 4 * d + u = 4 * c + st
  · have same (t : Chip) : t.stream d u = t.stream c st := by unfold stream; rw [h]
    rw [same, same, stream_updStream_self, hf]
  · rw [stream_updStream_of_ne s c st d u f h]

theorem Idle.updStream {s : Chip} {c : CoreId} (h : s.Idle c) (d st : Nat) {f : Stream → Stream}
    (hf : ∀ y, (f y).held = y.held) : (s.updStream d st f).Idle c :=
  ⟨fun u => (updStream_held s d st c u hf).trans (h.held u), h.core⟩

theorem Idle.withStatus {s : Chip} {c : CoreId} (h : s.Idle c) (d st code : Nat) : (s.withStatus d st code).Idle c :=
  h.updStream d st fun _ => rfl

theorem Idle.record {s : Chip} {c : CoreId} (h : s.Idle c) (d st code index : Nat) : (s.record d st code index).Idle c := by
  by_cases hcode : code = 0
  · subst hcode; exact h
  · exact (h.withStatus d st code).keep (record_keepsSync s d st index hcode)

theorem settleWaiter_of_idle {s : Chip} {c : CoreId} (st : StreamIx) (h : s.Idle c) : s.settleWaiter (.stream c st) = s :=
  h.settle

theorem settleSignal_of_idle {s : Chip} (unit : Nat) (h : ∀ c, s.Idle c) : s.settleSignal unit = s := by
  unfold settleSignal
  split
  · exact (h _).settle
  · rfl

end Chip

end Sys2Proof.Machine

end

section
/-! SUPPORT. SIGNAL_ADD at the home of an object, FENCE and SET (R245, R247, R251, R253, R258, R259, R266). -/

namespace Sys2Proof.Machine

/-- A list's first element that satisfies the test is taken. -/
theorem Chip.takeFirst_head {α : Type} {p : α → Bool} {a : α} (l : List α) (h : p a = true) :
    Chip.takeFirst p (a :: l) = some (a, l) := by
  simp [Chip.takeFirst, h]

namespace Chip

/-! ## SIGNAL_ADD -/

/-- The object after a signal that leaves its VALUE in range: the watches whose target is reached are gone. -/
def signalled (x : Obj) (amount : U64) (unit : U32) : Obj :=
  { x with value := x.value + amount, last := unit, count := x.count + 1
           watches := x.watches.filter (fun w => !decide (w.target.toNat ≤ (x.value + amount).toNat)) }

/-- The watches that a signal of an object reaches. -/
def reached (x : Obj) (amount : U64) : List Watch :=
  x.watches.filter (fun w => decide (w.target.toNat ≤ (x.value + amount).toNat))

theorem signalAdd_of_fits {s : Chip} {o : Nat} {amount : U64} {unit : U32} (hmay : s.mayUse unit.toNat o = true)
    (hfits : (s.obj o).value.toNat + amount.toNat < 2 ^ 64) :
    s.signalAdd o amount.toNat unit.toNat = (0, { s.setObj o (signalled (s.obj o) amount unit) with
      wakes := s.wakes ++ (reached (s.obj o) amount).map (wakeOf o) }) := by
  unfold signalAdd
  simp only [hmay, Bool.not_true, Bool.false_eq_true, if_false, if_neg (Nat.not_le_of_lt hfits), BitVec.ofNat_toNat,
    BitVec.setWidth_eq]
  rfl

theorem signalAdd_of_overflow {s : Chip} {o amount unit : Nat} (hmay : s.mayUse unit o = true)
    (hover : 2 ^ 64 ≤ (s.obj o).value.toNat + amount) : s.signalAdd o amount unit = (Code.outOfRange, s) := by
  unfold signalAdd
  simp only [hmay, Bool.not_true, Bool.false_eq_true, if_false, if_pos hover]

/-- A signal of no stream entry that follows no write and is confined to no job's objects. -/
structure Plain (p : Posted) : Prop where
  entry : p.entry = none
  slot : p.slot = 0xFF
  after : p.after = []

theorem Plain.ready {s : Chip} {p : Posted} (h : Plain p) (hstall : s.stalledBy p.unit.toNat = false) :
    s.postedReady p = true := by
  simp [postedReady, hstall, h.entry, h.after]

section

variable {s : Chip} {p : Posted} {rest : List Posted} (hp : Plain p) (hposted : s.posted = p :: rest)
  (hstall : s.stalledBy p.unit.toNat = false) (hmay : s.mayUse p.unit.toNat p.obj = true)
include hp hposted hstall hmay

/-- The signal in front of the list is applied, or refused. -/
theorem applyPosted_of_front :
    s.applyPosted p.obj p.amount.toNat p.unit.toNat =
      (let r := { s with posted := rest }.signalAdd p.obj p.amount.toNat p.unit.toNat
       if r.1 = 0 then r.2 else r.2.refusePosted p r.1) := by
  have hfront : takeFirst (fun q => decide (q.obj = p.obj) && q.amount.toNat = p.amount.toNat && q.unit.toNat = p.unit.toNat
      && s.postedReady q) s.posted = some (p, rest) := by
    rw [hposted]
    exact takeFirst_head rest (by simp [hp.ready hstall])
  have hmay' : { s with posted := rest }.maySignal p = true := by
    simp only [maySignal, hp.slot, decide_true, Bool.true_or, Bool.and_true]
    exact hmay
  unfold applyPosted
  rw [hfront]
  simp only [hmay', if_true, hp.entry]

/-- A signal in front that its object takes. -/
theorem applyPosted_of_fits (hfits : (s.obj p.obj).value.toNat + p.amount.toNat < 2 ^ 64) :
    s.applyPosted p.obj p.amount.toNat p.unit.toNat = { s.setObj p.obj (signalled (s.obj p.obj) p.amount p.unit) with
      posted := rest, wakes := s.wakes ++ (reached (s.obj p.obj) p.amount).map (wakeOf p.obj) } := by
  rw [applyPosted_of_front hp hposted hstall hmay,
    signalAdd_of_fits (s := { s with posted := rest }) hmay hfits]
  rfl

/-- A signal in front that would carry VALUE past its range. -/
theorem applyPosted_of_overflow (hover : 2 ^ 64 ≤ (s.obj p.obj).value.toNat + p.amount.toNat) :
    s.applyPosted p.obj p.amount.toNat p.unit.toNat = { s with posted := rest }.refusePosted p Code.outOfRange := by
  rw [applyPosted_of_front hp hposted hstall hmay,
    signalAdd_of_overflow (s := { s with posted := rest }) hmay hover]
  rfl

end

/-- A refusal changes the status of one stream at most; the agreement holds but for that. -/
theorem refusePosted_keepsSync (s : Chip) (p : Posted) {code : Nat} (h : code ≠ 0) :
    s.KeepsSync (s.refusePosted p code)
      ∨ (s.withStatus (unitNumber p.unit.toNat / 4) (unitNumber p.unit.toNat % 4) code).KeepsSync (s.refusePosted p code) := by
  unfold refusePosted
  dsimp only
  split
  · exact .inr (record_keepsSync s _ _ _ h)
  · exact .inl (noteError_addLog_keepsSync s _ _ code _ _ _ _)

theorem refusePosted_head (s : Chip) (p : Posted) {code : Nat} (h : code ≠ 0) :
    (s.refusePosted p code).log.head?.map (fun r => (r.code, r.source)) = some (code, p.unit.toNat) := by
  unfold refusePosted
  dsimp only
  split
  · next hown =>
    simp only [Bool.and_eq_true, decide_eq_true_eq] at hown
    rw [record_head s _ _ _ h, streamUnit_of_unit p.unit.isLt hown.2 hown.1]
  · exact addLog_head_source _ _ _ _ _ _

theorem refusePosted_keeps (s : Chip) (p : Posted) {code : Nat} (h : code ≠ 0) :
    (s.refusePosted p code).objs = s.objs ∧ (s.refusePosted p code).posted = s.posted
      ∧ (s.refusePosted p code).wakes = s.wakes := by
  obtain hk | hk := refusePosted_keepsSync s p h <;> exact ⟨hk.objs, hk.posted, hk.wakes⟩

theorem Idle.refusePosted {s : Chip} {c : CoreId} (h : s.Idle c) (p : Posted) {code : Nat} (hcode : code ≠ 0) :
    (s.refusePosted p code).Idle c := by
  obtain hk | hk := refusePosted_keepsSync s p hcode
  · exact h.keep hk
  · exact (h.withStatus _ _ code).keep hk

/-! ## FENCE and SET -/

/-- The stream after its FENCE of scope `k`: its code is recorded, and nothing is fenced. -/
def fenceEnded (s : Chip) (c : CoreId) (st : StreamIx) (k : Nat) : Chip :=
  let y := s.stream c st
  let h := (s.record c st y.fenceCode y.fenceIndex).updStream c st (fun y => { y with fencing := none, fenceCode := 0 })
  if k = 3 then h.dropLines (c.val / 4) else h

theorem completeFence_of_done {s : Chip} {c : CoreId} {st : StreamIx} {k : Nat} (hfence : (s.stream c st).fencing = some k)
    (hdone : s.fenceDone c st k = true) : s.completeFence c st = s.fenceEnded c st k := by
  unfold completeFence
  rw [hfence]
  exact if_pos hdone

theorem Idle.fenceEnded {s : Chip} {c : CoreId} (h : s.Idle c) (d : CoreId) (st : StreamIx) (k : Nat) :
    (s.fenceEnded d st k).Idle c := by
  have hended : ((s.record d st (s.stream d st).fenceCode (s.stream d st).fenceIndex).updStream d st
      (fun y => { y with fencing := none, fenceCode := 0 })).Idle c := (h.record _ _ _ _).updStream _ _ fun _ => rfl
  unfold Chip.fenceEnded
  dsimp only
  split
  · exact hended.keep (dropLines_keepsSync _ _)
  · exact hended

theorem setObject_of_free {s : Chip} {o : Nat} (v : U64) (hwatches : (s.obj o).watches = [])
    (hbusy : s.jobBusy (s.obj o).owner.toNat = false) :
    s.setObject o v = (0, s.setObj o { s.obj o with value := v, last := BitVec.ofNat 32 s.buristUnit }) := by
  unfold setObject
  simp [hwatches, hbusy]

theorem setObject_of_busy {s : Chip} {o : Nat} (v : U64)
    (h : (s.obj o).watches ≠ [] ∨ s.jobBusy (s.obj o).owner.toNat = true) : s.setObject o v = (Code.stateConflict, s) := by
  unfold setObject
  obtain h | h := h <;> simp [h]

end Chip

end Sys2Proof.Machine

open Sys2Proof Sys2Proof.Machine

/-- Settles O31: the signal in front is applied or refused, and no stream has anything to issue. -/
theorem signalAddApplies : Obligations.SignalAddApplies := by
  unfold Obligations.SignalAddApplies
  intro s ref p rest hs hcores hposted hobj hentry hslot hafter hstall hmay
  have hp : Chip.Plain p := ⟨hentry, hslot, hafter⟩
  have hidle (c : CoreId) : s.chip.fresh.Idle c := Chip.idle_of_calm (State.calm_chip hs) (hcores c)
  have happly {u : Chip} (hu : s.chip.fresh.applyPosted p.obj p.amount.toNat p.unit.toNat = u) (hi : ∀ c, u.Idle c) :
      exec (.signalAdd ref p.amount p.unit) s = .next (s.on u) :=
    exec_of_onChip (exec_signalAdd ref p.amount p.unit s) (State.calm_running hs)
      (by rw [← hobj, hu, Chip.settleSignal_of_idle _ hi])
  constructor
  · intro hfits
    exact happly (Chip.applyPosted_of_fits hp hposted hstall hmay hfits) fun c => ⟨(hidle c).held, (hidle c).core⟩
  · intro hover
    have hrest (c : CoreId) : ({ s.chip.fresh with posted := rest } : Chip).Idle c := ⟨(hidle c).held, (hidle c).core⟩
    have hrefused := Chip.applyPosted_of_overflow (s := s.chip.fresh) hp hposted hstall hmay hover
    obtain ⟨hobjs, hleft, hwakes⟩ := Chip.refusePosted_keeps { s.chip.fresh with posted := rest } p (code := Code.outOfRange)
      (by decide)
    exact ⟨_, happly hrefused fun c => (hrest c).refusePosted p (by decide), hobjs, hleft, hwakes,
      Chip.refusePosted_head _ p (by decide)⟩

/-- Settles O33: a FENCE that is due ends its stream's hold, and SET looks at watches and job alone. -/
theorem fenceAndSet : Obligations.FenceAndSet := by
  unfold Obligations.FenceAndSet
  refine ⟨?fence, ?set, ?conflict⟩
  case fence =>
    intro s c st k hs hcore hfence hdone
    have hidle : s.chip.fresh.Idle c := Chip.idle_of_calm (State.calm_chip hs) hcore
    exact exec_of_onChip (exec_fenceComplete c st s) (State.calm_running hs)
      (by rw [Chip.completeFence_of_done (s := s.chip.fresh) hfence hdone, (hidle.fenceEnded c st k).settle]; rfl)
  case set =>
    intro s ref v hrun hwatches hbusy
    exact exec_of_onChip (exec_set ref v s) hrun
      (by rw [Chip.setObject_of_free (s := s.chip.fresh) v hwatches hbusy]; rfl)
  case conflict =>
    intro s ref v hrun h
    exact exec_of_onChip (exec_set ref v s) hrun (by rw [Chip.setObject_of_busy (s := s.chip.fresh) v h]; rfl)

end

section
/-! SUPPORT. Registrations, wakes, expiries and cancels of WAIT (R250 to R256, R268). -/

namespace Sys2Proof.Machine

namespace Chip

/-! ## Registrations, R251 -/

/-- A registration that a home takes: the front one, of a unit that may use the object. -/
theorem applyRegistration_of_reached {s : Chip} {r : Registration} {rest : List Registration}
    (hregs : s.registrations = r :: rest) (hmay : s.mayUse r.unit.toNat r.obj = true)
    (hval : r.target.toNat ≤ (s.obj r.obj).value.toNat) :
    s.applyRegistration r.waiter r.obj r.target = { s with registrations := rest, wakes := s.wakes ++ [r] } := by
  unfold applyRegistration
  rw [hregs, takeFirst_head rest (by simp)]
  simp only [hmay, Bool.not_true, Bool.false_eq_true, if_false, if_pos hval]

/-- The watch that a registration leaves. -/
def watchOf (r : Registration) : Watch := ⟨r.waiter, r.unit, r.target, r.flags, r.remaining⟩

theorem applyRegistration_of_below {s : Chip} {r : Registration} {rest : List Registration}
    (hregs : s.registrations = r :: rest) (hmay : s.mayUse r.unit.toNat r.obj = true)
    (hval : (s.obj r.obj).value.toNat < r.target.toNat) :
    s.applyRegistration r.waiter r.obj r.target =
      { s.setObj r.obj { s.obj r.obj with watches := (s.obj r.obj).watches ++ [watchOf r] } with registrations := rest } := by
  unfold applyRegistration
  rw [hregs, takeFirst_head rest (by simp)]
  simp only [hmay, Bool.not_true, Bool.false_eq_true, if_false, if_neg (Nat.not_le_of_lt hval)]
  rfl

/-! ## Wakes, R250, R317 and R376 -/

/-- The step of the stream's draws after its WAIT: a WAIT on the step object of its job sets it. -/
def stepAfter (s : Chip) (c : CoreId) (x : SyncOp) (y : Stream) : Stream :=
  if (s.job (s.slotOfCore c)).any (fun j => jobStepObj j = some (objOfRef x.obj.toNat)) && y.step ≠ x.operand.toNat then
    { y with step := x.operand.toNat, ordinal := 0 }
  else y

theorem stepAfter_shape (s : Chip) (c : CoreId) (x : SyncOp) (y : Stream) :
    ∃ n o, s.stepAfter c x y = { y with step := n, ordinal := o } := by
  unfold stepAfter
  split <;> exact ⟨_, _, rfl⟩

theorem wakeStream_of_waiting {s : Chip} {c : CoreId} {st : StreamIx} {x : SyncOp}
    (hwait : (s.stream c st).waiting = some x) :
    s.wakeStream c st = ((s.endWait c st).updStream c st (s.stepAfter c x)).bumpSync c 1 1 := by
  unfold wakeStream stepAfter
  rw [hwait]
  cases s.job (s.slotOfCore c) <;> rfl

theorem endWait_keepsSync (s : Chip) (c : CoreId) (st : StreamIx) :
    (s.updStream c st (fun y => { y with waiting := none })).KeepsSync (s.endWait c st) := dropLines_keepsSync _ _

/-- A woken WAIT: its stream alone changes, but for cached lines and counters. -/
theorem wakeStream_keepsSync {s : Chip} {c : CoreId} {st : StreamIx} {x : SyncOp} (hwait : (s.stream c st).waiting = some x) :
    ((s.updStream c st (fun y => { y with waiting := none })).updStream c st (s.stepAfter c x)).KeepsSync
      (s.wakeStream c st) := by
  rw [wakeStream_of_waiting hwait]
  exact ((endWait_keepsSync s c st).updStream c st (s.stepAfter c x)).trans (bumpSync_keepsSync _ _ _ _)

theorem wakeStream_stream {s : Chip} {c : CoreId} {st : StreamIx} {x : SyncOp} (hwait : (s.stream c st).waiting = some x) :
    ((s.wakeStream c st).stream c st).waiting = none
      ∧ ((s.wakeStream c st).stream c st).status = (s.stream c st).status := by
  obtain ⟨n, o, hshape⟩ := s.stepAfter_shape c x { s.stream c st with waiting := none }
  rw [(wakeStream_keepsSync hwait).stream, stream_updStream_self, stream_updStream_self, hshape]
  exact ⟨rfl, rfl⟩

theorem Idle.wakeStream {s : Chip} {c : CoreId} (h : s.Idle c) {d : CoreId} {st : StreamIx} {x : SyncOp}
    (hwait : (s.stream d st).waiting = some x) : (s.wakeStream d st).Idle c := by
  have hstep (y : Stream) : (s.stepAfter d x y).held = y.held := by
    obtain ⟨n, o, hshape⟩ := s.stepAfter_shape d x y
    rw [hshape]
  have hended : (s.updStream d st (fun y => { y with waiting := none })).Idle c := h.updStream d st fun _ => rfl
  exact (hended.updStream d st hstep).keep (wakeStream_keepsSync hwait)

/-- The package with other wake messages on their way. -/
def withWakes (s : Chip) (l : List Registration) : Chip := { s with wakes := l }

theorem deliverWake_of_front {s : Chip} {c : CoreId} {st : StreamIx} {r : Registration} {rest : List Registration}
    (hwakes : s.wakes = r :: rest) (hr : r.waiter = .stream c st) :
    s.deliverWake (.stream c st) = (s.withWakes rest).wakeStream c st := by
  unfold deliverWake
  rw [hwakes, takeFirst_head rest (by simp [hr])]
  rfl

/-! ## Expiries, R255 and R256 -/

theorem expireWait_of_running {s : Chip} {c : CoreId} {st : StreamIx} {x : SyncOp} (hwait : (s.stream c st).waiting = some x)
    (hen : expiryEn x = true) (hjob : s.jobState (s.slotOfCore c) ≠ 5)
    (hnew : Sys2Proof.Claims.registration s c st x ∉ s.cancels) :
    s.expireWait (.stream c st) = { s with cancels := s.cancels ++ [Sys2Proof.Claims.registration s c st x] } := by
  have hfree : s.cancels.contains (Sys2Proof.Claims.registration s c st x) = false := by simpa using hnew
  unfold Sys2Proof.Claims.registration at hfree
  unfold expireWait
  dsimp only
  rw [hwait]
  simp only [hen, decide_eq_true hjob, hfree, Bool.not_false, Bool.and_self, if_true]
  rfl

theorem dumpOnExpiry_keepsSync (s : Chip) (j : Nat) : s.KeepsSync (s.dumpOnExpiry j) := by
  unfold dumpOnExpiry
  split
  · exact .refl s
  · dsimp only
    split
    · exact {}
    · split <;> exact {}

/-- The code and event of an expired WAIT. -/
def expiredLog (s : Chip) (c : CoreId) (st : StreamIx) (x : SyncOp) : Chip :=
  ((s.withStatus c st Code.watchExpired).noteError (s.slotOfCore c) (s.streamUnit c st) Code.watchExpired).addLog
    Code.watchExpired (s.slotOfCore c) 6 (s.streamUnit c st)
    (leBytes 2 x.obj.toNat ++ leBytes 8 (s.obj (objOfRef x.obj.toNat)).value.toNat ++ leBytes 8 x.operand.toNat
      ++ leBytes 4 (s.obj (objOfRef x.obj.toNat)).last.toNat)

/-- The stream of an expired WAIT halts, and its job counts it. -/
def haltExpired (s : Chip) (c : CoreId) (st : StreamIx) (j : Nat) : Chip :=
  let t := s.updStream c st (fun y => { y with halted := true })
  if j < 8 then t.setStatus j 9 (t.reg 0x6001 (16 * j + 9) + 1) else t

/-- The end of an expired WAIT, whatever EXPIRY_ACTION says: its record, and its counters. -/
def expiredEnd (s : Chip) (c : CoreId) (st : StreamIx) (x : SyncOp) : Chip :=
  (((s.expiredLog c st x).endWait c st).bumpSync c 2 1).countNd 0x0A (s.slotOfCore c) 1

/-- Under EXPIRY_ACTION 0 the stream halts; then a dump may start. -/
theorem expired_eq (s : Chip) (c : CoreId) (st : StreamIx) (x : SyncOp) : s.expired c st x =
    (if expiryGoesOn x then s.expiredEnd c st x
      else (s.expiredEnd c st x).haltExpired c st (s.slotOfCore c)).dumpOnExpiry (s.slotOfCore c) := rfl

/-- What an expired WAIT leaves of its stream. -/
def expiredStream (s : Chip) (c : CoreId) (st : StreamIx) (x : SyncOp) : Chip :=
  let t := (s.withStatus c st Code.watchExpired).updStream c st (fun y => { y with waiting := none })
  if expiryGoesOn x then t else t.updStream c st (fun y => { y with halted := true })

theorem expiredEnd_keepsSync (s : Chip) (c : CoreId) (st : StreamIx) (x : SyncOp) :
    ((s.withStatus c st Code.watchExpired).updStream c st (fun y => { y with waiting := none })).KeepsSync
      (s.expiredEnd c st x) := by
  have hlog : (s.withStatus c st Code.watchExpired).KeepsSync (s.expiredLog c st x) := noteError_addLog_keepsSync _ _ _ _ _ _ _ _
  exact (((hlog.updStream c st _).trans (endWait_keepsSync _ c st)).trans (bumpSync_keepsSync _ _ _ _)).trans
    (countNd_keepsSync _ _ _ (by decide))

theorem haltExpired_keepsSync (s : Chip) (c : CoreId) (st : StreamIx) (j : Nat) :
    (s.updStream c st (fun y => { y with halted := true })).KeepsSync (s.haltExpired c st j) := by
  unfold haltExpired
  dsimp only
  split
  · exact setStatus_keepsSync _ _ (by omega)
  · exact .refl _

/-- Besides its stream, an expired WAIT changes the log, counters, cached lines and what concerns dumps. -/
theorem expired_keepsSync (s : Chip) (c : CoreId) (st : StreamIx) (x : SyncOp) :
    (s.expiredStream c st x).KeepsSync (s.expired c st x) := by
  rw [expired_eq]
  refine KeepsSync.trans ?_ (dumpOnExpiry_keepsSync _ _)
  unfold expiredStream
  dsimp only
  split
  · exact s.expiredEnd_keepsSync c st x
  · exact ((s.expiredEnd_keepsSync c st x).updStream c st _).trans (haltExpired_keepsSync _ c st _)

theorem expired_stream (s : Chip) (c : CoreId) (st : StreamIx) (x : SyncOp) : (s.expired c st x).stream c st =
    { s.stream c st with
      status := Code.first (s.stream c st).status Code.watchExpired, waiting := none
      halted := if expiryGoesOn x then (s.stream c st).halted else true } := by
  rw [(s.expired_keepsSync c st x).stream]
  unfold expiredStream
  cases expiryGoesOn x <;> simp [withStatus]

/-- An expired WAIT changes neither objects nor cancels. -/
theorem expired_keeps (s : Chip) (c : CoreId) (st : StreamIx) (x : SyncOp) :
    (s.expired c st x).objs = s.objs ∧ (s.expired c st x).cancels = s.cancels := by
  have hkeeps := s.expired_keepsSync c st x
  rw [hkeeps.objs, hkeeps.cancels]
  unfold expiredStream withStatus
  dsimp only
  split <;> simp only [updStream_objs, updStream_cancels, and_self]

theorem Idle.expired {s : Chip} {c : CoreId} (h : s.Idle c) (d : CoreId) (st : StreamIx) (x : SyncOp) :
    (s.expired d st x).Idle c := by
  have hended : ((s.withStatus d st Code.watchExpired).updStream d st (fun y => { y with waiting := none })).Idle c :=
    (h.withStatus d st _).updStream d st fun _ => rfl
  refine Idle.keep ?_ (s.expired_keepsSync d st x)
  unfold expiredStream
  dsimp only
  split
  · exact hended
  · exact hended.updStream d st fun _ => rfl

/-! ## Cancels, R253 -/

/-- The watch that a cancel of a stream's WAIT looks for. -/
def isWatchOf (c : CoreId) (st : StreamIx) (x : SyncOp) (w : Watch) : Bool := w.waiter = .stream c st && w.target = x.operand

/-- The object without the watches of the WAIT. -/
def withoutWatch (b : Obj) (c : CoreId) (st : StreamIx) (x : SyncOp) : Obj :=
  { b with watches := b.watches.filter (fun w => !isWatchOf c st x w) }

/-- The home after the only cancel under way, that of the WAIT, which found its watch. -/
def cancelled (s : Chip) (c : CoreId) (st : StreamIx) (x : SyncOp) : Chip :=
  { s with cancels := [] }.setObj (objOfRef x.obj.toNat) (withoutWatch (s.obj (objOfRef x.obj.toNat)) c st x)

section

variable {s : Chip} {c : CoreId} {st : StreamIx} {x : SyncOp}
  (hcancels : s.cancels = [Sys2Proof.Claims.registration s c st x]) (hregs : s.registrations = [])
include hcancels hregs

/-- The only cancel under way is taken, with no registration in front of it. -/
theorem applyCancel_takes : takeFirst (fun r => r.waiter = .stream c st && !s.registrations.any (fun q =>
    q.waiter = .stream c st && q.obj = r.obj && q.target = r.target)) s.cancels
      = some (Sys2Proof.Claims.registration s c st x, []) := by
  rw [hcancels]
  exact takeFirst_head [] (by simp [hregs, Sys2Proof.Claims.registration])

theorem applyCancel_of_watch (hwait : (s.stream c st).waiting = some x)
    (hfound : (s.obj (objOfRef x.obj.toNat)).watches.any (isWatchOf c st x) = true) :
    s.applyCancel (.stream c st) = (s.cancelled c st x).expired c st x := by
  have hkept : ((s.cancelled c st x).stream c st).waiting = some x := hwait
  unfold applyCancel
  rw [applyCancel_takes hcancels hregs]
  refine (if_pos hfound).trans ?_
  change (match ((s.cancelled c st x).stream c st).waiting with
    | some op => (s.cancelled c st x).expired c st op
    | none => s.cancelled c st x) = _
  rw [hkept]

theorem applyCancel_of_none (hnone : (s.obj (objOfRef x.obj.toNat)).watches = []) :
    s.applyCancel (.stream c st) = { s with cancels := [] } := by
  unfold applyCancel
  rw [applyCancel_takes hcancels hregs]
  refine if_neg ?_
  show ¬ ((s.obj (objOfRef x.obj.toNat)).watches.any _ = true)
  simp [hnone]

end

end Chip

end Sys2Proof.Machine

open Sys2Proof Sys2Proof.Machine

/-- Settles O32: what each message does at its end, on a core that has nothing to issue. -/
theorem watchesAndWakes : Obligations.WatchesAndWakes := by
  unfold Obligations.WatchesAndWakes
  refine ⟨?registration, ?wake, ?expiry, ?cancel⟩
  case registration =>
    intro s c st ref r rest hs hcore hregs hwaiter hobj hmay
    have hidle : s.chip.fresh.Idle c := Chip.idle_of_calm (State.calm_chip hs) hcore
    have happly {u : Chip} (hu : s.chip.fresh.applyRegistration r.waiter r.obj r.target = u) (hi : u.Idle c) :
        exec (.watchRegistration (.stream c st) ref r.target) s = .next (s.on u) :=
      exec_of_onChip (exec_watchRegistration _ ref r.target s) (State.calm_running hs)
        (by rw [← hwaiter, ← hobj, hu, hwaiter, Chip.settleWaiter_of_idle st hi])
    exact ⟨fun hval => happly (Chip.applyRegistration_of_reached hregs hmay hval) ⟨hidle.held, hidle.core⟩,
      fun hval => happly (Chip.applyRegistration_of_below hregs hmay hval) ⟨hidle.held, hidle.core⟩⟩
  case wake =>
    intro s c st r rest x hs hcore hwakes hwaiter hwait
    have hidle : s.chip.fresh.Idle c := Chip.idle_of_calm (State.calm_chip hs) hcore
    have hrest : (s.chip.fresh.withWakes rest).Idle c := ⟨hidle.held, hidle.core⟩
    have hwoken : (((s.chip.fresh.withWakes rest)).stream c st).waiting = some x := hwait
    have hdeliver := Chip.deliverWake_of_front (s := s.chip.fresh) (st := st) hwakes hwaiter
    obtain ⟨hended, hstatus⟩ := Chip.wakeStream_stream hwoken
    have hkeeps := Chip.wakeStream_keepsSync hwoken
    have hexec : exec (.wake (.stream c st)) s = .next (s.on ((s.chip.fresh.withWakes rest).wakeStream c st)) :=
      exec_of_onChip (exec_wake _ s) (State.calm_running hs)
        (by rw [hdeliver, Chip.settleWaiter_of_idle st (hrest.wakeStream hwoken)])
    exact ⟨_, hexec, hended, hkeeps.wakes, hstatus, hkeeps.objs, hkeeps.mem⟩
  case expiry =>
    intro s c st x hrun hwait hen hjob hnew
    exact exec_of_onChip (exec_waitExpiry _ s) hrun (Chip.expireWait_of_running (s := s.chip.fresh) hwait hen hjob hnew)
  case cancel =>
    intro s c st x hs hcore hwait hcancels hregs hstatus
    have hidle : s.chip.fresh.Idle c := Chip.idle_of_calm (State.calm_chip hs) hcore
    have happly {u : Chip} (hu : s.chip.fresh.applyCancel (.stream c st) = u) (hi : u.Idle c) :
        exec (.cancel (.stream c st)) s = .next (s.on u) :=
      exec_of_onChip (exec_cancel _ s) (State.calm_running hs) (by rw [hu, Chip.settleWaiter_of_idle st hi])
    constructor
    · intro hfound
      have hrest : (s.chip.fresh.cancelled c st x).Idle c := ⟨hidle.held, hidle.core⟩
      have hstream := (s.chip.fresh.cancelled c st x).expired_stream c st x
      obtain ⟨hobjs, hleft⟩ := (s.chip.fresh.cancelled c st x).expired_keeps c st x
      have hobj : ((s.chip.fresh.cancelled c st x).expired c st x).obj (objOfRef x.obj.toNat)
          = Chip.withoutWatch (s.chip.obj (objOfRef x.obj.toNat)) c st x := by
        unfold Chip.obj
        rw [hobjs]
        exact Chip.obj_setObj_self _ _ _
      have hexec : exec (.cancel (.stream c st)) s = .next (s.on ((s.chip.fresh.cancelled c st x).expired c st x)) :=
        happly (Chip.applyCancel_of_watch (s := s.chip.fresh) hcancels hregs hwait hfound) (hrest.expired c st x)
      refine ⟨_, hexec, ?ended, ?status, hleft, fun hhalts => ?halts, fun hgoes => ?goesOn, ?value, ?watches⟩
      all_goals rw [State.on_chip]
      case ended => rw [hstream]
      case status =>
        rw [hstream]
        exact congrArg (Code.first · Code.watchExpired) hstatus
      case halts => rw [hstream, hhalts]; rfl
      case goesOn => rw [hstream, hgoes]; rfl
      case value => rw [hobj]; rfl
      case watches => rw [hobj]; rfl
    · intro hnone
      exact happly (Chip.applyCancel_of_none (s := s.chip.fresh) hcancels hregs hnone) ⟨hidle.held, hidle.core⟩

end

section
/-! SUPPORT. WAIT, SIGNAL and FENCE at the head of a stream (R248 to R251, R259, R328, R329). -/

namespace Sys2Proof.Machine

namespace Chip

/-! ## An entry that leaves its stream -/

@[simp] theorem fresh_stream (s : Chip) (c st : Nat) : s.fresh.stream c st = s.stream c st := rfl

/-- The entry at the head has left its stream. -/
def leave (s : Chip) (c st : Nat) : Chip := s.updStream c st (fun y => { y with held := y.held.drop 1 })

theorem leave_stream (s : Chip) (c st : Nat) :
    (s.leave c st).stream c st = { s.stream c st with held := (s.stream c st).held.drop 1 } :=
  stream_updStream_self s c st _

/-- An entry that joins an empty stream and leaves it with a change of the stream has made that change, and is counted. -/
theorem withEntry_atHead_leave {s : Chip} {c st : Nat} (i : Instr) {f g : Stream → Stream} (hempty : (s.stream c st).held = [])
    (hf : ∀ y, (f y).held = y.held)
    (hg : { f { s.stream c st with held := [i], count := (s.stream c st).count + 1 } with held := [] } = g (s.stream c st)) :
    (((s.withEntry c st i).atHead c st).updStream c st f).leave c st = s.updStream c st g := by
  have holds (y : Stream) (hy : y.held = [i]) : y ≠ {} := fun e => by simp [e] at hy
  unfold withEntry atHead leave
  rw [updStream_updStream, updStream_updStream, updStream_updStream]
  · unfold updStream
    rw [← hg]
    simp [hempty, hf]
  all_goals exact holds _ (by simp [hempty, hf])

end Chip

/-- An entry that issues in an open stream of an enabled core leaves it with what its issue does. -/
theorem exec_of_issue {s : State} {c : CoreId} {st : StreamIx} {i : Instr} {u : Chip}
    (hexec : exec i s = onChip (fun h => h.enter c st i) s) (hready : Sys2Proof.Claims.ready s c st = true)
    (hissue : (s.chip.fresh.withEntry c st i).issue i = (true, u)) (hcore : u.coreState c = s.chip.coreState c) :
    exec i s = .next (s.on (u.leave c st)) := by
  obtain ⟨hrun, henabled, hempty, hopen⟩ := ready_iff.mp hready
  exact exec_of_onChip hexec hrun (Chip.enter_of_open s.chip.fresh c st i u hempty hopen hissue (by rw [hcore, henabled]; decide))

/-- Where the issue changes the entry's stream, and then other things (`k`) that streams and unit states take no part in. -/
theorem exec_of_head {s : State} {c : CoreId} {st : StreamIx} {i : Instr} {f g : Stream → Stream} {k : Chip → Chip}
    (hexec : exec i s = onChip (fun h => h.enter c st i) s) (hready : Sys2Proof.Claims.ready s c st = true)
    (hissue : (s.chip.fresh.withEntry c st i).issue i
      = (true, k (((s.chip.fresh.withEntry c st i).atHead c st).updStream c st f)))
    (hleave : ∀ h : Chip, (k h).leave c st = k (h.leave c st)) (hcore : ∀ h : Chip, (k h).coreState c = h.coreState c)
    (hf : ∀ y, (f y).held = y.held)
    (hg : { f { s.chip.stream c st with held := [i], count := (s.chip.stream c st).count + 1 } with held := [] }
      = g (s.chip.stream c st)) :
    exec i s = .next (s.on (k (s.chip.fresh.updStream c st g))) := by
  obtain ⟨-, -, hempty, -⟩ := ready_iff.mp hready
  rw [exec_of_issue hexec hready hissue (hcore _), hleave,
    Chip.withEntry_atHead_leave (s := s.chip.fresh) i hempty hf hg]

namespace Chip

/-! ## At the head -/

/-- A registration is sent. -/
def register (s : Chip) (r : Registration) : Chip := { s with registrations := s.registrations ++ [r] }

/-- A signal is sent. -/
def send (s : Chip) (p : Posted) : Chip := { s with posted := s.posted ++ [p] }

/-- The signal of a SIGNAL entry to an object of the own node. -/
def entrySignal (s : Chip) (c : CoreId) (st : StreamIx) (x : SyncOp) : Posted :=
  { obj := objOfRef x.obj.toNat, amount := x.operand, unit := BitVec.ofNat 32 (s.streamUnit c st), entry := some (c, st) }

theorem closeBatchesOf_of_none {s : Chip} (u : Nat) (h : ∀ r < 2, (s.ridge r).batches = []) : s.closeBatchesOf u = s := by
  unfold closeBatchesOf
  simp [List.range_succ, h 0 (by decide), h 1 (by decide)]

theorem issuer_setIssuer_self (s : Chip) (u : Nat) (i : Issuer) : (s.setIssuer u i).issuer u = i := by
  simp [issuer, setIssuer]

theorem setIssuer_stream (s : Chip) (u : Nat) (i : Issuer) (c st : Nat) : (s.setIssuer u i).stream c st = s.stream c st := rfl

/-- The stream that a FENCE of scope `k` holds, and the code that it will end with. -/
def fenced (k code : Nat) (y : Stream) : Stream :=
  { y with count := y.count + 1, fencing := some k, fenceIndex := y.count, fenceCode := code }

/-- The unit's epoch after a FENCE of scope FABRIC. -/
def nextEpoch (i : Issuer) : Issuer := { i with epoch := (i.epoch + 1) % 65536, lost := false }

/-- The message of a SIGNAL to another node. -/
def signalMsg (s : Chip) (c : CoreId) (x : SyncOp) : Msg :=
  { s.newMsg 4 x.node.toNat (signalAddr x.node.toNat (objOfRef x.obj.toNat)) (((s.job (s.slotOfCore c)).map (·.jobId)).getD 0) with
    operand := x.operand }

/-- A SIGNAL at the head has left it and holds its stream. -/
def atSignal (s : Chip) (c : CoreId) (st : StreamIx) : Chip :=
  (s.atHead c st).updStream c st (fun y => { y with signalling := true, syncIndex := (s.stream c st).count })

theorem atSignal_stream (s : Chip) (c : CoreId) (st : StreamIx) : (s.atSignal c st).stream c st =
    { s.stream c st with
      count := (s.stream c st).count + 1, signalling := true, syncIndex := (s.stream c st).count } := by
  simp [atSignal, atHead]

/-- Who a SIGNAL's request belongs to. -/
def signalOwner (s : Chip) (c : CoreId) (st : StreamIx) : ReqOwner := .signal c st (s.stream c st).count

/-- A SIGNAL to another node issues its request. -/
def issueSignal (s : Chip) (c : CoreId) (st : StreamIx) (x : SyncOp) : Chip :=
  (s.atSignal c st).issueRequest (s.streamUnit c st) (s.signalMsg c x) 0 0 (s.signalOwner c st)

theorem signalMsg_dest (s : Chip) (c : CoreId) (x : SyncOp) : (s.signalMsg c x).dest = x.node := by
  simp [signalMsg, newMsg]

/-! ### Legal entries of an enabled core -/

section

variable {s : Chip} {c : CoreId} (st : StreamIx) {tag : EntryTag} {x : SyncOp} (hcore : s.coreState c = 1)
  (htag : tagOk tag 2 2 = true)
include hcore htag

theorem headWait_of_legal (hok : syncOk 1 x = true) : s.headWait c st tag x =
    some (((s.atHead c st).updStream c st (fun y => { y with
      waiting := some x, syncIndex := (s.stream c st).count })).register (Sys2Proof.Claims.registration s c st x)) := by
  unfold headWait syncStop
  simp only [coreStop_of_enabled hcore, htag, hok, Bool.and_self, Code.need, if_true, ne_eq, not_true_eq_false, if_false]
  rfl

theorem headSignal_of_own (hok : syncOk 2 x = true) (hnode : x.node = 0xFFFF ∨ x.node.toNat = s.node)
    (hheld : s.stepHeld (s.slotOfCore c) (objOfRef x.obj.toNat) = false) : s.headSignal c st tag x =
    some (((s.atHead c st).updStream c st (fun y => { y with
      signalling := true, syncIndex := (s.stream c st).count })).send (s.entrySignal c st x)) := by
  have hown : (if x.node = 0xFFFF then s.node else x.node.toNat) = s.node := by
    split
    · rfl
    · next h => exact hnode.resolve_left h
  unfold headSignal syncStop
  simp only [coreStop_of_enabled hcore, htag, hok, Bool.and_self, Code.need, if_true, ne_eq, not_true_eq_false, if_false, hown,
    hheld, Bool.false_eq_true]
  rfl

theorem headSignal_of_remote (hok : syncOk 2 x = true) (hnone : x.node ≠ 0xFFFF) (hother : x.node.toNat ≠ s.node)
    (hcode : s.signalCode c x.node.toNat = 0) (hroom : s.remoteRoom (s.streamUnit c st) x.node.toNat = true)
    (hquiet : s.streamQuiet c st = true) : s.headSignal c st tag x = some (s.issueSignal c st x) := by
  unfold headSignal syncStop
  simp only [coreStop_of_enabled hcore, htag, hok, Bool.and_self, Code.need, if_true, ne_eq, not_true_eq_false, if_false, hnone,
    hother, hcode, hroom, hquiet, Bool.not_true, Bool.or_self, Bool.false_eq_true]
  rfl

theorem headFence_of_local (hok : syncOk 3 x = true) (hscope : x.fenceScope.toNat ≠ 3) (hlost : s.fab.undelivered = []) :
    s.headFence c st tag x = some ((s.atHead c st).updStream c st (fun y => { y with
      fencing := some x.fenceScope.toNat, fenceIndex := (s.stream c st).count, fenceCode := 0 })) := by
  unfold headFence syncStop
  simp only [coreStop_of_enabled hcore, htag, hok, Bool.and_self, Code.need, if_true, ne_eq, not_true_eq_false, if_false, hscope,
    decide_false, Bool.false_and, Bool.false_eq_true]
  exact congrArg some (dropLost_of_nil 64 _ hlost)

theorem headFence_of_fabric (hok : syncOk 3 x = true) (hscope : x.fenceScope = 3) (hlost : s.fab.undelivered = [])
    (hbatches : ∀ r < 2, (s.ridge r).batches = []) :
    s.headFence c st tag x = some (((s.atHead c st).updStream c st (fun y => { y with
      fencing := some 3, fenceIndex := (s.stream c st).count
      fenceCode := if (s.issuer (s.streamUnit c st)).lost then Code.peerUnreachable else 0 })).setIssuer (s.streamUnit c st)
        (nextEpoch (s.issuer (s.streamUnit c st)))) := by
  have hthree : x.fenceScope.toNat = 3 := by rw [hscope]; rfl
  unfold headFence syncStop
  simp only [coreStop_of_enabled hcore, htag, hok, Bool.and_self, Code.need, if_true, ne_eq, not_true_eq_false, if_false, hthree,
    decide_true, Bool.true_and]
  rw [closeBatchesOf_of_none]
  · exact congrArg some (dropLost_of_nil 64 _ hlost)
  · exact hbatches

end

/-! ## A request and the lists of the fabric -/

/-- Requests and undelivered messages agree, and what `KeepsSync` says. -/
structure KeepsRequests (s t : Chip) : Prop where
  sync : s.KeepsSync t
  requests : t.fab.requests = s.fab.requests
  undelivered : t.fab.undelivered = s.fab.undelivered

theorem countNd_fab (s : Chip) (sub j n : Nat) : (s.countNd sub j n).fab = s.fab := by
  obtain ⟨r, h⟩ := countNd_shape s sub j n
  rw [h]

theorem countMerge_fab (s : Chip) (ridge : Nat) (b : Msg) : (s.countMerge ridge b).fab = s.fab := by
  obtain ⟨r, h⟩ := countMerge_shape s ridge b
  rw [h]

/-- A message that is put into an output queue changes ports alone. -/
theorem enqueue_fab (s : Chip) (p vl hop dest : Nat) (w : Wire) :
    ∃ ps, (s.enqueue p vl hop dest w).fab = { s.fab with ports := ps } := by
  unfold enqueue
  dsimp only
  split
  · exact ⟨_, countMerge_fab _ _ _⟩
  · exact ⟨_, rfl⟩

/-- A hop chosen by occupancy, and one off the minimal route, is counted (R296, R383). -/
def countHop (s : Chip) (vl : Nat) (w : Wire) (p : Nat) (byOccupancy detour : Bool) : Chip :=
  let t := if vl = 2 && byOccupancy then s.countNd 7 (s.wireSlot w) 1 else s
  if detour then t.setPortReg p 0x14 (t.portReg p 0x14 + 1) else t

theorem countHop_fab (s : Chip) (vl : Nat) (w : Wire) (p : Nat) (byOccupancy detour : Bool) :
    (s.countHop vl w p byOccupancy detour).fab = s.fab := by
  have hchoice : (if vl = 2 && byOccupancy then s.countNd 7 (s.wireSlot w) 1 else s).fab = s.fab := by
    split
    · exact countNd_fab s _ _ _
    · rfl
  cases detour <;> exact hchoice

theorem sendBy_fab {s t : Chip} {vl hop dest : Nat} {w : Wire} {n : Option (Nat × Bool × Bool)}
    (h : s.sendBy vl hop dest w n = some t) : ∃ ps, t.fab = { s.fab with ports := ps } := by
  unfold sendBy at h
  split at h
  · cases h
  · split at h
    · cases h
    · next p byOccupancy detour =>
      split at h
      · cases h
      · obtain ⟨ps, hps⟩ := enqueue_fab (s.countHop vl w p byOccupancy detour) p vl hop dest w
        rw [countHop_fab] at hps
        exact ⟨ps, Option.some.inj h ▸ hps⟩

theorem route_keepsRequests {s t : Chip} {vl hop src dest : Nat} {f : Option Nat} {b : Bool} {w : Wire}
    (h : s.route vl hop src dest f b w = some t) : s.KeepsRequests t := by
  have hcore (c : CoreId) : t.coreState c = s.coreState c :=
    route_reg s t vl hop src dest f b w _ _ h ((apart_iff _).mpr (by omega)) (by omega)
  obtain ⟨ps, hfab⟩ := sendBy_fab h
  refine ⟨?_, by rw [hfab], by rw [hfab]⟩
  obtain ⟨g, r, hshape⟩ := route_shape s t vl hop src dest f b w h
  subst hshape
  exact { core := hcore }

/-- A message to a package without a gateway leaves by a route. -/
theorem launch_keepsRequests {s t : Chip} {vl : Nat} {m : Msg} (hgate : s.usesEave m.dest.toNat = false)
    (h : s.launch vl m = some t) : s.KeepsRequests t := by
  unfold launch at h
  simp only [hgate, Bool.and_false, Bool.false_eq_true, if_false] at h
  exact route_keepsRequests h

theorem usesEave_congr {s t : Chip} (hregs : t.regs = s.regs) (hdb : t.fab.lsdb = s.fab.lsdb) (d : Nat) :
    t.usesEave d = s.usesEave d := by
  unfold usesEave nodeCaps node
  rw [reg_of_regs hregs, hdb]

/-- The package with other rate entries (R323). -/
def withRates (s : Chip) (l : List RateEntry) : Chip := { s with fab := { s.fab with rates := l } }

theorem withRates_keepsRequests (s : Chip) (l : List RateEntry) : s.KeepsRequests (s.withRates l) := ⟨{}, rfl, rfl⟩

theorem withRates_usesEave (s : Chip) (l : List RateEntry) (d : Nat) : (s.withRates l).usesEave d = s.usesEave d :=
  usesEave_congr rfl rfl d

theorem KeepsRequests.trans {s t u : Chip} (h : s.KeepsRequests t) (h' : t.KeepsRequests u) : s.KeepsRequests u :=
  ⟨h.sync.trans h'.sync, h'.requests.trans h.requests, h'.undelivered.trans h.undelivered⟩

/-- A request leaves, or waits for its rate entry. -/
theorem sendRequest_keepsRequests {s t : Chip} {m : Msg} (hgate : s.usesEave m.dest.toNat = false)
    (h : s.sendRequest m = some t) : s.KeepsRequests t := by
  unfold sendRequest at h
  split at h
  · exact launch_keepsRequests hgate h
  · next e _ =>
    dsimp only at h
    split at h
    · cases h
      exact withRates_keepsRequests s _
    · have hlaunch : (s.withRates _).launch 0 m = some t := h
      exact (withRates_keepsRequests s _).trans
        (launch_keepsRequests ((withRates_usesEave _ _ _).trans hgate) hlaunch)

section

variable (s : Chip) (u : Nat) (m : Msg) (owner : ReqOwner)

theorem openRequest_keepsSync : s.KeepsSync (s.openRequest u m 0 0 owner).2 := {}

theorem openRequest_requests : (s.openRequest u m 0 0 owner).2.fab.requests
    = s.fab.requests ++ [(s.openRequest u m 0 0 owner).1] := rfl

theorem openRequest_owner : (s.openRequest u m 0 0 owner).1.owner = owner := rfl

theorem openRequest_unit (c : CoreId) (st : StreamIx) : (s.openRequest (s.streamUnit c st) m 0 0 owner).1.unit
    = (s.openRequest (s.streamUnit c st) m 0 0 owner).2.streamUnit c st := rfl

theorem openRequest_undelivered : (s.openRequest u m 0 0 owner).2.fab.undelivered = s.fab.undelivered := rfl

theorem openRequest_usesEave (d : Nat) : (s.openRequest u m 0 0 owner).2.usesEave d = s.usesEave d :=
  usesEave_congr rfl rfl d

end

theorem closeRequest_keepsSync (s : Chip) (r : Request) (lost : Bool) : s.KeepsSync (s.closeRequest r lost) := {}

theorem closeRequest_undelivered (s : Chip) (r : Request) (lost : Bool) :
    (s.closeRequest r lost).fab.undelivered = s.fab.undelivered := rfl

theorem record_fab (s : Chip) (c st code index : Nat) : (s.record c st code index).fab = s.fab := by
  unfold record
  split
  · rfl
  · dsimp only
    obtain ⟨r, l, d, hlog⟩ := addLog_shape ((s.withStatus c st code).noteError (s.slotOfCore c) (s.streamUnit c st) code) code
      (s.slotOfCore c) 0 (s.streamUnit c st) (leBytes 8 index)
    refine (congrArg Chip.fab hlog).trans ?_
    unfold noteError
    split <;> rfl

/-- A SIGNAL's request that was numbered and closed again. -/
def closedRequest (s : Chip) (m : Msg) (c : CoreId) (st : StreamIx) (ix : Nat) : Chip :=
  (s.openRequest (s.streamUnit c st) m 0 0 (.signal c st ix)).2.closeRequest
    (s.openRequest (s.streamUnit c st) m 0 0 (.signal c st ix)).1 true

/-- A lost request of a stream that waits in no FABRIC fence changes no fence's code (R329). -/
theorem noteLost_of_open {s : Chip} {c : CoreId} {st : StreamIx} {r : Request} (hunit : r.unit = s.streamUnit c st)
    (hopen : (s.stream c st).fencing ≠ some 3) : s.noteLost r = s := by
  have hc : (4 * c.val + st.val) / 4 = c.val := by omega
  have hst : (4 * c.val + st.val) % 4 = st.val := by omega
  unfold noteLost streamOfUnit
  rw [hunit, unitKind_streamUnit, unitNumber_streamUnit, hc, hst]
  split
  · next h =>
    split at h
    · cases h
      exact if_neg hopen
    · cases h
  · rfl

theorem completeRequest_of_lost_signal {s : Chip} {r : Request} {c : CoreId} {st : StreamIx} {ix : Nat}
    (howner : r.owner = .signal c st ix) (hunit : r.unit = s.streamUnit c st) (hopen : (s.stream c st).fencing ≠ some 3) :
    s.completeRequest r Code.peerUnreachable [] =
      ((s.closeRequest r true).record c st Code.peerUnreachable ix).updStream c st (fun y => { y with signalling := false }) := by
  unfold completeRequest
  simp only [howner, decide_true, if_true]
  rw [noteLost_of_open (s := s.closeRequest r true) hunit hopen]

section

variable {s : Chip} {u : Nat} {m : Msg} {owner : ReqOwner} (hlost : s.fab.undelivered = [])
include hlost

/-- A request that leaves, or waits for its rate entry, is open, and nothing that streams and objects hold has changed. -/
theorem issueRequest_of_sent {t : Chip} (hgate : s.usesEave m.dest.toNat = false)
    (h : (s.openRequest u m 0 0 owner).2.sendRequest (s.openRequest u m 0 0 owner).1.msg = some t) :
    s.issueRequest u m 0 0 owner = t ∧ s.KeepsSync t ∧ t.fab.requests = s.fab.requests ++ [(s.openRequest u m 0 0 owner).1] := by
  have hsent := sendRequest_keepsRequests (m := (s.openRequest u m 0 0 owner).1.msg)
    ((s.openRequest_usesEave u m owner _).trans hgate) h
  refine ⟨?_, (s.openRequest_keepsSync u m owner).trans hsent.sync, hsent.requests.trans (s.openRequest_requests u m owner)⟩
  unfold issueRequest
  dsimp only
  rw [h]
  exact dropLost_of_nil 64 t (hsent.undelivered.trans hlost)

/-- A SIGNAL of an open stream that no route takes ends with PEER_UNREACHABLE, and holds its stream no longer (R297, R315). -/
theorem issueRequest_of_unsent {c : CoreId} {st : StreamIx} {ix : Nat} (hopen : (s.stream c st).fencing ≠ some 3)
    (h : (s.openRequest (s.streamUnit c st) m 0 0 (.signal c st ix)).2.sendRequest
      (s.openRequest (s.streamUnit c st) m 0 0 (.signal c st ix)).1.msg = none) :
    ((s.withStatus c st Code.peerUnreachable).updStream c st (fun y => { y with signalling := false })).KeepsSync
      (s.issueRequest (s.streamUnit c st) m 0 0 (.signal c st ix)) := by
  have hclosed : s.KeepsSync (s.closedRequest m c st ix) :=
    (s.openRequest_keepsSync _ m _).trans (closeRequest_keepsSync _ _ _)
  have hended : s.issueRequest (s.streamUnit c st) m 0 0 (.signal c st ix)
      = ((s.closedRequest m c st ix).record c st Code.peerUnreachable ix).updStream c st
          (fun y => { y with signalling := false }) := by
    have hundelivered : ((s.closedRequest m c st ix).record c st Code.peerUnreachable ix).fab.undelivered = [] := by
      rw [record_fab, closedRequest, closeRequest_undelivered, openRequest_undelivered, hlost]
    unfold issueRequest
    dsimp only
    rw [h]
    dsimp only
    rw [completeRequest_of_lost_signal (openRequest_owner _ _ _ _) (openRequest_unit _ _ _ _ _) hopen]
    exact dropLost_of_nil 64 _ hundelivered
  rw [hended]
  exact ((hclosed.updStream c st _).trans (record_keepsSync _ c st ix (by decide))).updStream c st _

/-- The request of a SIGNAL either is open, or has ended the SIGNAL with PEER_UNREACHABLE. -/
theorem issueRequest_of_signal {c : CoreId} {st : StreamIx} {ix : Nat} (hgate : s.usesEave m.dest.toNat = false)
    (hopen : (s.stream c st).fencing ≠ some 3) :
    (s.KeepsSync (s.issueRequest (s.streamUnit c st) m 0 0 (.signal c st ix))
      ∧ (s.issueRequest (s.streamUnit c st) m 0 0 (.signal c st ix)).fab.requests
        = s.fab.requests ++ [(s.openRequest (s.streamUnit c st) m 0 0 (.signal c st ix)).1])
    ∨ ((s.withStatus c st Code.peerUnreachable).updStream c st (fun y => { y with signalling := false })).KeepsSync
      (s.issueRequest (s.streamUnit c st) m 0 0 (.signal c st ix)) := by
  cases h : (s.openRequest (s.streamUnit c st) m 0 0 (.signal c st ix)).2.sendRequest
      (s.openRequest (s.streamUnit c st) m 0 0 (.signal c st ix)).1.msg with
  | none => exact .inr (issueRequest_of_unsent hlost hopen h)
  | some t =>
    obtain ⟨hissue, hsync, hrequests⟩ := issueRequest_of_sent hlost hgate h
    rw [hissue]
    exact .inl ⟨hsync, hrequests⟩

end

theorem fencing_of_open {s : Chip} {c st : Nat} (h : s.streamHeld c st = false) : (s.stream c st).fencing = none := by
  unfold streamHeld at h
  simp only [Bool.or_eq_false_iff] at h
  obtain ⟨⟨⟨⟨-, hfence⟩, -⟩, -⟩, -⟩ := h
  simpa using hfence

/-- The request of a SIGNAL to another node, as its unit numbers it. -/
def signalRequest (s : Chip) (c : CoreId) (st : StreamIx) (x : SyncOp) : Request :=
  ((s.atSignal c st).openRequest (s.streamUnit c st) (s.signalMsg c x) 0 0 (s.signalOwner c st)).1

theorem signalRequest_dest (s : Chip) (c : CoreId) (st : StreamIx) (x : SyncOp) :
    (s.signalRequest c st x).dest = x.node.toNat := congrArg BitVec.toNat (s.signalMsg_dest c x)

/-- The stream of a SIGNAL holds with its request open, or goes on with PEER_UNREACHABLE. -/
theorem issueSignal_cases {s : Chip} {c : CoreId} {st : StreamIx} {x : SyncOp} (hlost : s.fab.undelivered = [])
    (hgate : s.usesEave x.node.toNat = false) (hopen : (s.stream c st).fencing ≠ some 3) :
    ((s.atSignal c st).KeepsSync (s.issueSignal c st x)
      ∧ (s.issueSignal c st x).fab.requests = s.fab.requests ++ [s.signalRequest c st x])
    ∨ (((s.atSignal c st).withStatus c st Code.peerUnreachable).updStream c st (fun y => { y with
        signalling := false })).KeepsSync (s.issueSignal c st x) := by
  have hgate' : (s.atSignal c st).usesEave (s.signalMsg c x).dest.toNat = false := by
    rw [signalMsg_dest]
    exact hgate
  have hopen' : ((s.atSignal c st).stream c st).fencing ≠ some 3 := by
    rw [atSignal_stream]
    exact hopen
  exact issueRequest_of_signal (s := s.atSignal c st) hlost hgate' hopen'

/-- A SIGNAL whose request is open has left its stream, and holds it. -/
theorem leave_of_open {s u : Chip} {c : CoreId} {st : StreamIx} {i : Instr}
    (h : ((s.withEntry c st i).atSignal c st).KeepsSync u) :
    ((u.leave c st).stream c st).count = (s.stream c st).count + 1 ∧ ((u.leave c st).stream c st).signalling = true
      ∧ ((u.leave c st).stream c st).status = (s.stream c st).status := by
  rw [leave_stream, h.stream, atSignal_stream, withEntry_stream]
  exact ⟨rfl, rfl, rfl⟩

/-- A SIGNAL without a route has left its stream with PEER_UNREACHABLE. -/
theorem leave_of_lost {s u : Chip} {c : CoreId} {st : StreamIx} {i : Instr}
    (h : ((((s.withEntry c st i).atSignal c st).withStatus c st Code.peerUnreachable).updStream c st
      (fun y => { y with signalling := false })).KeepsSync u) :
    ((u.leave c st).stream c st).count = (s.stream c st).count + 1 ∧ ((u.leave c st).stream c st).signalling = false
      ∧ ((u.leave c st).stream c st).status = Code.first (s.stream c st).status Code.peerUnreachable := by
  rw [leave_stream, h.stream, stream_updStream_self, withStatus_stream, atSignal_stream, withEntry_stream]
  exact ⟨rfl, rfl, rfl⟩

end Chip

end Sys2Proof.Machine

open Sys2Proof Sys2Proof.Machine

/-- Settles O30: each entry leaves its open stream at once with what its head does. -/
theorem syncEntriesIssue : Obligations.SyncEntriesIssue := by
  unfold Obligations.SyncEntriesIssue
  refine ⟨?wait, ?own, ?remote, ?fence, ?fabric⟩
  case wait =>
    intro s c st tag x hready htag hok
    obtain ⟨-, hcore, hempty, -⟩ := ready_iff.mp hready
    have hhead := Chip.headWait_of_legal (s := s.chip.fresh.withEntry c st (.wait c st tag x)) st hcore htag hok
    exact exec_of_head (k := fun h => h.register (Sys2Proof.Claims.registration s.chip c st x)) (exec_wait c st tag x s) hready
      (congrArg (Chip.issued _) hhead) (fun _ => rfl) (fun _ => rfl) (fun _ => rfl)
      (by simp [Chip.withEntry_stream, hempty])
  case own =>
    intro s c st tag x hready htag hok hnode hheld
    obtain ⟨-, hcore, hempty, -⟩ := ready_iff.mp hready
    have hhead := Chip.headSignal_of_own (s := s.chip.fresh.withEntry c st (.signal c st tag x)) st hcore htag hok hnode hheld
    exact exec_of_head (k := fun h => h.send (s.chip.entrySignal c st x)) (exec_signal c st tag x s) hready
      (congrArg (Chip.issued _) hhead) (fun _ => rfl) (fun _ => rfl) (fun _ => rfl)
      (by simp [Chip.withEntry_stream, hempty])
  case remote =>
    intro s c st tag x hready htag hok hnone hother hcode hroom hquiet hgate hlost
    obtain ⟨-, hcore, hempty, hopen⟩ := ready_iff.mp hready
    have hhead := Chip.headSignal_of_remote (s := s.chip.fresh.withEntry c st (.signal c st tag x)) st hcore htag hok hnone hother
      hcode hroom hquiet
    have hcases := Chip.issueSignal_cases (s := s.chip.fresh.withEntry c st (.signal c st tag x)) (st := st) hlost hgate
      (by rw [Chip.withEntry_stream]; exact fun h => by cases (Chip.fencing_of_open hopen).symm.trans h)
    have hexec (hkeeps : ((s.chip.fresh.withEntry c st (.signal c st tag x)).issueSignal c st x).coreState c
        = s.chip.coreState c) := exec_of_issue (exec_signal c st tag x s) hready (congrArg (Chip.issued _) hhead) hkeeps
    obtain ⟨hsync, hrequests⟩ | hsync := hcases
    · obtain ⟨hcount, hholds, hstatus⟩ := Chip.leave_of_open hsync
      exact ⟨_, hexec (hsync.core c), hsync.objs, hsync.posted, hcount,
        .inl ⟨hholds, hstatus, _, hrequests, rfl, Chip.signalRequest_dest _ c st x, rfl, rfl, rfl⟩⟩
    · obtain ⟨hcount, hfree, hstatus⟩ := Chip.leave_of_lost hsync
      exact ⟨_, hexec (hsync.core c), hsync.objs, hsync.posted, hcount, .inr ⟨hfree, hstatus⟩⟩
  case fence =>
    intro s c st tag x hready htag hok hscope hlost
    obtain ⟨-, hcore, hempty, -⟩ := ready_iff.mp hready
    have hhead := Chip.headFence_of_local (s := s.chip.fresh.withEntry c st (.fence c st tag x)) st hcore htag hok hscope hlost
    exact exec_of_head (k := id) (exec_fence c st tag x s) hready (congrArg (Chip.issued _) hhead) (fun _ => rfl) (fun _ => rfl)
      (fun _ => rfl) (by simp [Chip.withEntry_stream, hempty])
  case fabric =>
    intro s c st tag x hready htag hok hscope hlost hbatches
    let u := s.chip.streamUnit c st
    obtain ⟨-, hcore, hempty, -⟩ := ready_iff.mp hready
    have hhead := Chip.headFence_of_fabric (s := s.chip.fresh.withEntry c st (.fence c st tag x)) st hcore htag hok hscope hlost
      hbatches
    have hlostAs : ((s.chip.fresh.withEntry c st (.fence c st tag x)).issuer
        ((s.chip.fresh.withEntry c st (.fence c st tag x)).streamUnit c st)).lost = (s.chip.issuer u).lost := rfl
    have hexec := exec_of_head (k := fun h => h.setIssuer u (Chip.nextEpoch (s.chip.issuer u)))
      (g := Chip.fenced 3 (if (s.chip.issuer u).lost then Code.peerUnreachable else 0))
      (exec_fence c st tag x s) hready (congrArg (Chip.issued _) hhead) (fun _ => rfl) (fun _ => rfl) (fun _ => rfl)
      (by simp [Chip.fenced, Chip.withEntry_stream, hempty, hlostAs])
    refine ⟨_, hexec, Chip.issuer_setIssuer_self _ _ _, ?_, rfl, rfl, rfl⟩
    rw [State.on_chip, Chip.setIssuer_stream, Chip.stream_updStream_self]
    rfl

end
